-- ==== Sys2Proof/Word.lean ====
section
/-!
DEFINITION. Sys2Proof/Word.lean: the word types of the machine and the sparse tables its state is made of.

A wave register is 32 bits (R50), a byte 8 bits, an address is kept as a natural number and is bounded where the
spec bounds it (R25).  A `Tab` is a list of key and value pairs with the keys strictly rising: the model's form of a
register file, a queue keyed by slot, or any other collection the spec numbers.
-/

namespace Sys2Proof

/-- A 32-bit register value (R50). -/
abbrev Word := BitVec 32

/-- One byte of memory (R2). -/
abbrev Byte := BitVec 8

/-- A 64-bit value: a register pair, a counter, a doubleword of memory (R50). -/
abbrev DWord := BitVec 64

/-- A table from numbers to values: pairs with strictly rising keys. -/
abbrev Tab (α : Type) := List (Nat × α)

namespace Tab

/-- The value at a key, or `d` where the table lists none. -/
def get {α : Type} (t : Tab α) (d : α) (k : Nat) : α :=
  match t with
  | [] => d
  | (i, v) :: r => if i = k then v else if k < i then d else get r d k

/-- The value at a key, if the table lists one. -/
def get? {α : Type} (t : Tab α) (k : Nat) : Option α :=
  match t with
  | [] => none
  | (i, v) :: r => if i = k then some v else if k < i then none else get? r k

/-- The table with `v` at key `k`. -/
def set {α : Type} (t : Tab α) (k : Nat) (v : α) : Tab α :=
  match t with
  | [] => [(k, v)]
  | (i, u) :: r => if i = k then (k, v) :: r else if k < i then (k, v) :: (i, u) :: r else (i, u) :: set r k v

/-- The table with nothing at key `k`. -/
def erase {α : Type} (t : Tab α) (k : Nat) : Tab α :=
  match t with
  | [] => []
  | (i, u) :: r => if i = k then r else if k < i then (i, u) :: r else (i, u) :: erase r k

/-- The table with the value at `k` changed by `f`, starting from `d` where nothing is listed. -/
def upd {α : Type} (t : Tab α) (d : α) (k : Nat) (f : α → α) : Tab α :=
  t.set k (f (t.get d k))

/-- The keys of a table strictly rise. -/
def sorted {α : Type} (t : Tab α) : Bool :=
  match t with
  | [] => true
  | [_] => true
  | (i, _) :: (j, v) :: r => decide (i < j) && sorted ((j, v) :: r)

end Tab

end Sys2Proof
end

