-- ==== Sys2Proof/Syntax.lean ====
section
/-!
DEFINITION. Sys2Proof/Syntax.lean: the instructions of Ovgon and the steps of its engines, one constructor for each
row of the opcode table.

An encoded instruction carries the fields of R43 and R44 as `Enc`.  A row of the table without an opcode is a step
that an engine, the host or a peer makes; its arguments stand in the state (State.args, State.data).
-/

namespace Sys2Proof

/-- The length of an instruction (R43, field LEN; the value 11 is no instruction). -/
inductive Len where
  | l64 | l96 | l128
  deriving DecidableEq, Repr

/-- The fields of an instruction but its opcode (R43, R44).  A field the length does not have holds 0. -/
structure Enc where
  /-- LEN -/
  len : Len := .l64
  /-- VER -/
  ver : BitVec 2 := 0
  /-- FN -/
  fn : BitVec 6 := 0
  /-- STALL -/
  stall : BitVec 4 := 0
  /-- YLD -/
  yld : Bool := false
  /-- DLT -/
  dlt : BitVec 2 := 0
  /-- NWB -/
  nwb : Bool := false
  /-- DST -/
  dst : BitVec 8 := 0
  /-- SL0 -/
  sl0 : Bool := false
  /-- SRC0 -/
  src0 : BitVec 8 := 0
  /-- SL1 -/
  sl1 : Bool := false
  /-- SRC1 -/
  src1 : BitVec 8 := 0
  /-- PRD -/
  prd : BitVec 5 := 31
  /-- PNEG -/
  pneg : Bool := false
  /-- MOD -/
  mod : BitVec 6 := 0
  /-- SL2 -/
  sl2 : Bool := false
  /-- SRC2 -/
  src2 : BitVec 8 := 0
  /-- EXT23; IMM16 is its bits [22:7] -/
  ext : BitVec 23 := 0
  /-- IMM32 -/
  imm32 : BitVec 32 := 0
  deriving DecidableEq, Repr

/-- Every row of the opcode table (R63 and the steps of the engines the table lists without an opcode).
An encoded instruction carries its decoded fields; a step of an engine carries what names the step. -/
inductive Instr where
  /-- NOP (R85): has no effect on state; its control fields act as R49 states. -/
  | nop (e : Enc)
  /-- BRA (R86): sends each fibre whose guard holds to a PC-relative target; other fibres continue at the next PC. -/
  | bra (e : Enc)
  /-- BRX (R86): sends each fibre whose guard holds to a 64-bit target taken from a v or s pair. -/
  | brx (e : Enc)
  /-- CALL (R86): advances the window base, writes link words into v0 and v1 of the new window and branches. -/
  | call (e : Enc)
  /-- RET (R86): checks the link in v0:v1, moves the window back and returns to the linked PC. -/
  | ret (e : Enc)
  /-- EXIT (R87): ends the whole wave if its guard holds in some member of the issuing batch. -/
  | exit (e : Enc)
  /-- FORK (R88): leader-executed: starts up to the requested number of new fibres in idle lanes and writes their count. -/
  | fork (e : Enc)
  /-- QUIT (R89): ends each member fibre whose guard holds and clears its bits from the rejoin masks and arrival sets. -/
  | quit (e : Enc)
  /-- SPLIT (R90): sets a rejoin mask to the members whose guard holds and evaluates its completion. -/
  | split (e : Enc)
  /-- JOIN (R91): adds the acting fibres to a mask's arrival set, makes them joined and evaluates full and partial release. -/
  | join (e : Enc)
  /-- DROP (R92): clears the acting fibres' bits in a rejoin mask and evaluates its completion. -/
  | drop (e : Enc)
  /-- YIELD (R93): makes the batch the most recently issued and offers the wave's next issue slot to other waves. -/
  | yield (e : Enc)
  /-- PCMP (R94): compares per fibre under a relation and type and writes the result to a predicate. -/
  | pcmp (e : Enc)
  /-- PLOG (R96): computes a Boolean function of two predicates per fibre. -/
  | plog (e : Enc)
  /-- PMOV (R97): copies one predicate, optionally negated, into another per fibre. -/
  | pmov (e : Enc)
  /-- PMOV_RD (R97): writes each fibre's whole predicate word into a v register. -/
  | pmovRd (e : Enc)
  /-- PMOV_WR (R97): writes bits 30 to 0 of a source into q0 to q30 per fibre. -/
  | pmovWr (e : Enc)
  /-- PLDM (R98): sets a predicate in each fibre to the bit of a uniform mask at the fibre's lane. -/
  | pldm (e : Enc)
  /-- VOTE_SOME (R99): writes the OR of a predicate over the participants into every participant. -/
  | voteSome (e : Enc)
  /-- VOTE_EVERY (R99): writes the AND of a predicate over the participants into every participant. -/
  | voteEvery (e : Enc)
  /-- VOTE_MASK (R99): writes to a uniform register the lane mask of participants whose predicate is 1. -/
  | voteMask (e : Enc)
  /-- VOTE_SAME (R99): writes 1 if a predicate has the same value in every participant, else 0. -/
  | voteSame (e : Enc)
  /-- GETS (R100): reads a special register into an s or v destination. -/
  | gets (e : Enc)
  /-- SETS (R101): writes %fpctl, %fpstat or %joinlost. -/
  | sets (e : Enc)
  /-- SADD (R102): uniform 32-bit addition mod 2^32. -/
  | sadd (e : Enc)
  /-- SSUB (R102): uniform 32-bit subtraction mod 2^32. -/
  | ssub (e : Enc)
  /-- SMUL (R102): uniform 32-bit multiplication keeping the low 32 bits. -/
  | smul (e : Enc)
  /-- SLOG (R102): uniform bitwise AND, OR, XOR or ANDN. -/
  | slog (e : Enc)
  /-- SSH (R103): uniform shift or rotate by a register or immediate amount. -/
  | ssh (e : Enc)
  /-- SCMP (R104): uniform compare that writes the result to a predicate of every acting member. -/
  | scmp (e : Enc)
  /-- SMOV (R102): copies an s register, or the leader's v register, into an s register. -/
  | smov (e : Enc)
  /-- SLI (R102): loads a 32-bit immediate into an s register. -/
  | sli (e : Enc)
  /-- FETCH_FAULT (R58): raises a fetch fault, POISON, ILLEGAL_PLACEMENT or ILLEGAL_LENGTH for the instruction at PC before it issues. -/
  | fetchFault
  /-- EMULATION_ENTRY (R357): an undefined or ODIS-disabled encoding stacks a frame and starts the handler at the next depth, or raises EMUL_NEST. -/
  | emulationEntry
  /-- LAUNCH (R388): copies a 256-byte launch record into a launch queue ahead of unread records and writes its ticket. -/
  | launch (e : Enc)
  /-- SCHSEL (R389): chooses, once per phase, the schedule variant for a size word and writes its target, index and size. -/
  | schsel (e : Enc)
  /-- GANGWAIT (R391): tests, or waits a bounded time for, the completion of a launch and writes a predicate. -/
  | gangwait (e : Enc)
  /-- GANGWAIT_TIMEOUT (R391): the wait limit of GANGWAIT.W expires and 0 is written if the launch has not completed. -/
  | gangwaitTimeout
  /-- PHASE (R390): advances the block's phase number, empties the variant choice and records an optional estimate. -/
  | phase (e : Enc)
  /-- IADD (R148): element-wise integer addition, wrapping or saturating. -/
  | iadd (e : Enc)
  /-- ISUB (R148): element-wise integer subtraction, wrapping or saturating. -/
  | isub (e : Enc)
  /-- IMUL (R148): element-wise integer multiplication keeping the low bits. -/
  | imul (e : Enc)
  /-- IMULH (R149): writes the high 32 bits of a signed or unsigned 64-bit product. -/
  | imulh (e : Enc)
  /-- IMAD (R149): writes a times b plus c mod 2^32. -/
  | imad (e : Enc)
  /-- IMIN (R148): element-wise integer minimum. -/
  | imin (e : Enc)
  /-- IMAX (R148): element-wise integer maximum. -/
  | imax (e : Enc)
  /-- IABS (R150): element-wise absolute value, wrapping or saturating. -/
  | iabs (e : Enc)
  /-- INEG (R150): element-wise negation, wrapping or saturating. -/
  | ineg (e : Enc)
  /-- IDP4 (R151): four-term byte dot product added to a 32-bit accumulator. -/
  | idp4 (e : Enc)
  /-- ISHL (R152): element-wise shift left. -/
  | ishl (e : Enc)
  /-- ISHR (R152): element-wise logical or arithmetic shift right. -/
  | ishr (e : Enc)
  /-- IROT (R152): element-wise rotate left. -/
  | irot (e : Enc)
  /-- BITFN (R153): computes any Boolean function of three operands bit by bit from an 8-bit table. -/
  | bitfn (e : Enc)
  /-- POPC (R154): writes the count of 1 bits. -/
  | popc (e : Enc)
  /-- CLZ (R154): writes the count of leading zero bits. -/
  | clz (e : Enc)
  /-- BREV (R154): writes the operand with its bit order reversed. -/
  | brev (e : Enc)
  /-- BFE (R155): extracts a bit field, sign- or zero-extended. -/
  | bfe (e : Enc)
  /-- BFI (R155): inserts a bit field into a base value. -/
  | bfi (e : Enc)
  /-- SEL (R156): selects one of two values by a predicate per fibre. -/
  | sel (e : Enc)
  /-- MOV (R156): copies a 32-bit value or a 64-bit pair. -/
  | mov (e : Enc)
  /-- MOVI (R156): writes an immediate into a v register. -/
  | movi (e : Enc)
  /-- FADD (R157): float addition rounded once. -/
  | fadd (e : Enc)
  /-- FSUB (R157): float subtraction rounded once. -/
  | fsub (e : Enc)
  /-- FMUL (R157): float multiplication rounded once. -/
  | fmul (e : Enc)
  /-- FFMA (R157): fused float multiply-add rounded once. -/
  | ffma (e : Enc)
  /-- FMIN (R158): float minimumNumber. -/
  | fmin (e : Enc)
  /-- FMAX (R158): float maximumNumber. -/
  | fmax (e : Enc)
  /-- FABS (R159): clears the sign bit. -/
  | fabs (e : Enc)
  /-- FNEG (R159): inverts the sign bit. -/
  | fneg (e : Enc)
  /-- FRND (R159): rounds to an integral value in the same format. -/
  | frnd (e : Enc)
  /-- FCLS (R159): writes a one-hot class code of a float value. -/
  | fcls (e : Enc)
  /-- FRCP (R160): correctly rounded reciprocal. -/
  | frcp (e : Enc)
  /-- FRSQ (R160): correctly rounded reciprocal square root. -/
  | frsq (e : Enc)
  /-- FSQRT (R160): correctly rounded square root. -/
  | fsqrt (e : Enc)
  /-- FEX2 (R161): correctly rounded 2^x. -/
  | fex2 (e : Enc)
  /-- FLG2 (R161): correctly rounded log2 x. -/
  | flg2 (e : Enc)
  /-- FSIN (R161): correctly rounded sin of pi times x. -/
  | fsin (e : Enc)
  /-- FCOS (R161): correctly rounded cos of pi times x. -/
  | fcos (e : Enc)
  /-- HADD2 (R162): packed two-lane F16 or BF16 addition. -/
  | hadd2 (e : Enc)
  /-- HMUL2 (R162): packed two-lane F16 or BF16 multiplication. -/
  | hmul2 (e : Enc)
  /-- HFMA2 (R162): packed two-lane F16 or BF16 fused multiply-add. -/
  | hfma2 (e : Enc)
  /-- HMIN2 (R162): packed two-lane F16 or BF16 minimum. -/
  | hmin2 (e : Enc)
  /-- HMAX2 (R162): packed two-lane F16 or BF16 maximum. -/
  | hmax2 (e : Enc)
  /-- BPERM (R163): builds each result byte from an 8-byte pool by selector bytes. -/
  | bperm (e : Enc)
  /-- NLUT (R164): looks up each byte's low or high nibble in a 16-byte table. -/
  | nlut (e : Enc)
  /-- SHFL (R165): gives each acting fibre the value of a register in another lane. -/
  | shfl (e : Enc)
  /-- LSCAN (R167): inclusive or exclusive prefix combine across the participants in a fixed tree. -/
  | lscan (e : Enc)
  /-- LRED (R167): reduction across the participants in a fixed tree, written to every participant. -/
  | lred (e : Enc)
  /-- DADD (R170): F64 addition; on the 6170 it always vectors to the emulation handler. -/
  | dadd (e : Enc)
  /-- DMUL (R170): F64 multiplication; always emulated on the 6170. -/
  | dmul (e : Enc)
  /-- DFMA (R170): F64 fused multiply-add; always emulated on the 6170. -/
  | dfma (e : Enc)
  /-- DDIV (R170): F64 division; always emulated on the 6170. -/
  | ddiv (e : Enc)
  /-- DCVT (R170): conversion to or from F64; always emulated on the 6170. -/
  | dcvt (e : Enc)
  /-- CVT (R190): converts one value per fibre to a format, optionally with a scale. -/
  | cvt (e : Enc)
  /-- PCVT (R191): converts 2, 4 or 8 elements per fibre between wide and narrow formats with one scale. -/
  | pcvt (e : Enc)
  /-- SCALEQ (R192): derives an E8M0 block scale from the largest magnitude across lanes. -/
  | scaleq (e : Enc)
  /-- TQUANT (R193): quantises four F32 values to T2 codes against a threshold and inserts them into one byte. -/
  | tquant (e : Enc)
  /-- LDX (R194): loads a group of four elements, decodes them with their block scale and writes them to registers. -/
  | ldx (e : Enc)
  /-- STX (R194): encodes four elements into a page's format and stores the group. -/
  | stx (e : Enc)
  /-- SRSEED (R196): reseeds each acting lane's stochastic rounding generator. -/
  | srseed (e : Enc)
  /-- LD (R112): per-fibre load of 1 to 16 bytes into registers. -/
  | ld (e : Enc)
  /-- ST (R112): per-fibre store of 1 to 16 bytes. -/
  | st (e : Enc)
  /-- LDU (R112): uniform load into s registers with the leader's operands. -/
  | ldu (e : Enc)
  /-- LDB (R112): block load of consecutive elements, one per lane, from a uniform base. -/
  | ldb (e : Enc)
  /-- STB (R112): block store of consecutive elements, one per lane, to a uniform base. -/
  | stb (e : Enc)
  /-- ATOM (R114): per-lane indivisible read-modify-write at the home, returning the old value. -/
  | atom (e : Enc)
  /-- RED (R116): per-lane indivisible read-modify-write at the home with no result. -/
  | red (e : Enc)
  /-- LR (R117): leader reads a word at its home and replaces the wave's reservation with one on its line. -/
  | lr (e : Enc)
  /-- SC (R119): leader writes the word only if the reservation holds, and clears the reservation. -/
  | sc (e : Enc)
  /-- ACQ (R120): waits for earlier loads to take their values and discards unowned L1 copies. -/
  | acq (e : Enc)
  /-- REL (R121): waits until earlier loads have their values and earlier writes are performed. -/
  | rel (e : Enc)
  /-- FENCE (R122): acts as REL followed by ACQ. -/
  | fence (e : Enc)
  /-- WAITW (R123): waits per fibre until a word at its home differs from a comparand and writes the value read. -/
  | waitw (e : Enc)
  /-- PREF (R124): fills the L1 or the home cache with a line, changing no architectural state. -/
  | pref (e : Enc)
  /-- HOME_WRITE_PERFORMED (R128): A write reaches its word's home and is applied in the word's coherence order. -/
  | homeWritePerformed
  /-- LOAD_VALUE_RETURN (R130): A load's value arrives from the home or L1 and is written to its destination. -/
  | loadValueReturn
  /-- BARINIT (R211): sets up a barrier with an expected arrival count for a new use. -/
  | barinit (e : Enc)
  /-- ARRIVE (R212): sends one or more arrivals to a barrier as a release. -/
  | arrive (e : Enc)
  /-- ARRIVEX (R212): sends one arrival and an expected-byte addition to a barrier as a release. -/
  | arrivex (e : Enc)
  /-- BARRIER_STEP (R202): the sync unit applies all contributions that reach a barrier in one cycle and evaluates overflow, underflow and phase completion. -/
  | barrierStep
  /-- WAITB (R213): blocks the acting fibres until a barrier phase completes, then acquires or reports poison. -/
  | waitb (e : Enc)
  /-- TESTB (R213): writes whether a barrier phase is complete, without blocking. -/
  | testb (e : Enc)
  /-- BARINV (R214): invalidates a barrier and poisons it with ACCESS_FAULT. -/
  | barinv (e : Enc)
  /-- RINIT (R215): checks and sets up a stage ring and its fill barriers. -/
  | rinit (e : Enc)
  /-- RPUSH (R216): hands out the slot at TAIL once it is FREE, as PRODUCING. -/
  | rpush (e : Enc)
  /-- RPOP (R216): hands out the slot at HEAD once it is FILLED, as CONSUMING. -/
  | rpop (e : Enc)
  /-- RING_WAITER_SERVED (R216): A ring end whose slot becomes available serves its oldest waiter, wave, command or stream. -/
  | ringWaiterServed
  /-- RDONE_FILL (R217): returns a PRODUCING slot as FILLED, as a release. -/
  | rdoneFill (e : Enc)
  /-- RDONE_FREE (R217): returns a CONSUMING slot as FREE and re-initialises a poisoned fill barrier. -/
  | rdoneFree (e : Enc)
  /-- RPEEK (R218): writes the handle RPOP would give, without waiting or changing state. -/
  | rpeek (e : Enc)
  /-- RSTAT (R218): writes a ring's counts, indices and lap bits. -/
  | rstat (e : Enc)
  /-- CPY (R235): creates a copy command of n bytes on a token. -/
  | cpy (e : Enc)
  /-- CPYT_LD (R236): creates a command that walks a tensor box into scratch on a token, barrier or ring. -/
  | cpytLd (e : Enc)
  /-- CPYT_ST (R236): creates a command that walks a box from scratch into a tensor on a token. -/
  | cpytSt (e : Enc)
  /-- CPYR (R237): creates a copy command counted on a barrier, or one that fills the next ring slot. -/
  | cpyr (e : Enc)
  /-- CPYS (R239): creates a command that copies out of a held ring slot on a token, optionally freeing it. -/
  | cpys (e : Enc)
  /-- COPY_CHUNK_START (R247): each cycle the engine charges the function's bucket or pool and starts a ready chunk, then refills. -/
  | copyChunkStart
  /-- COPY_CHUNK_COUNTED (R227): A chunk whose bytes have all been written at their homes is counted on its barrier or token. -/
  | copyChunkCounted
  /-- SEAL (R240): closes a token's open batch and writes its batch number. -/
  | seal (e : Enc)
  /-- WAITK (R241): waits until every sealed batch of the masked tokens is reported complete, then reports errors. -/
  | waitk (e : Enc)
  /-- TESTK (R241): writes whether WAITK would complete now, without blocking. -/
  | testk (e : Enc)
  /-- CPYQ (R242): writes a token's counters and error state. -/
  | cpyq (e : Enc)
  /-- MMA (R263): runs matrix steps from A and B ring panels into an accumulator tile. -/
  | mma (e : Enc)
  /-- MMAT (R263): runs ternary matrix steps into a pair of tiles. -/
  | mmat (e : Enc)
  /-- MZERO (R264): writes +0 into a run of tiles and clears their poison. -/
  | mzero (e : Enc)
  /-- MLDX (R265): fills a tile from a ring slot. -/
  | mldx (e : Enc)
  /-- MSTX (R266): converts a tile to a format and writes it into a ring slot. -/
  | mstx (e : Enc)
  /-- MWAITB (R267): the stream waits for a barrier phase, acquiring or faulting on poison. -/
  | mwaitb (e : Enc)
  /-- MARRIVE (R268): the stream makes one arrival on a barrier as a release. -/
  | marrive (e : Enc)
  /-- MLOOP (R269): sets a loop counter. -/
  | mloop (e : Enc)
  /-- MBRA (R269): branches the stream unconditionally. -/
  | mbra (e : Enc)
  /-- MBRA_NZ (R269): decrements a nonzero loop counter and branches, or falls through at 0. -/
  | mbraNz (e : Enc)
  /-- MEND (R252): ends the matrix stream after earlier instructions complete. -/
  | mend (e : Enc)
  /-- MYIELD (R270): waits until every earlier stream instruction has completed. -/
  | myield (e : Enc)
  /-- MXRD (R271): reads tile words into a handler's registers. -/
  | mxrd (e : Enc)
  /-- MXRD_S (R271): reads a stream state word into a handler's registers. -/
  | mxrdS (e : Enc)
  /-- MXWR (R271): writes tile words from a handler's registers. -/
  | mxwr (e : Enc)
  /-- MXWR_S (R271): writes a stream state word from the leader's register. -/
  | mxwrS (e : Enc)
  /-- PROXY_EMULATION_ENTRY (R251): A stream instruction to emulate interrupts the proxy wave and runs the handler at depth 1. -/
  | proxyEmulationEntry
  /-- SMV (R286): starts a matrix-vector command over stack-resident rows counted on a barrier. -/
  | smv (e : Enc)
  /-- SMVB (R286): starts a batched matrix-vector command over several vectors. -/
  | smvb (e : Enc)
  /-- SMVCFG (R285): loads and checks a weight descriptor into a descriptor register. -/
  | smvcfg (e : Enc)
  /-- SMVQ (R287): writes whether a tag's command is running, waiting or gone. -/
  | smvq (e : Enc)
  /-- SMVCAN (R287): cancels a tag's command, counting its unwritten units. -/
  | smvcan (e : Enc)
  /-- STACK_COMMAND_RUN (R279): A stack serves a queued command, reading W and computing its rows. -/
  | stackCommandRun
  /-- STACK_RESULT_UNIT (R281): A 256-byte unit of results is written to scratch and counted off the barrier. -/
  | stackResultUnit
  /-- TSPAWN (R301): creates a plain task and queues it at its affinity core. -/
  | tspawn (e : Enc)
  /-- TSPAWN_ORD (R318): creates an ordered task with a key in a domain after order checks. -/
  | tspawnOrd (e : Enc)
  /-- TEXIT (R302): ends the wave, first resolving a future when RES is set. -/
  | texit (e : Enc)
  /-- TAFF (R303): writes the logical core a task with this affinity would go to. -/
  | taff (e : Enc)
  /-- FNEW (R304): writes an empty future record. -/
  | fnew (e : Enc)
  /-- FRESOLVE (R305): resolves a future with a value and releases its continuations. -/
  | fresolve (e : Enc)
  /-- FPOISON (R305): resolves a future as poisoned with a cause. -/
  | fpoison (e : Enc)
  /-- FAWAIT (R306): registers a continuation on one future. -/
  | fawait (e : Enc)
  /-- FJOIN2 (R306): registers a continuation on two futures. -/
  | fjoin2 (e : Enc)
  /-- FGET (R307): reads a future record once into four s registers. -/
  | fget (e : Enc)
  /-- TASK_DISPATCH (R295): A core with room dispatches a fitting task from its queue. -/
  | taskDispatch
  /-- TASK_STEALABLE (R296): A task queued for the ageing interval becomes stealable. -/
  | taskStealable
  /-- TASK_STEAL (R296): A core with room and no fitting task takes a stealable task from another core. -/
  | taskSteal
  /-- CONTINUATION_OVERFLOW_RETRY (R294): A released continuation waiting at its home is queued once the overflow area has room. -/
  | continuationOverflowRetry
  /-- ODOM (R339): opens an ordered domain. -/
  | odom (e : Enc)
  /-- CDOM (R340): closes an empty ordered domain or reports it busy. -/
  | cdom (e : Enc)
  /-- RBEGIN (R341): opens a speculative region or counts an inner level. -/
  | rbegin (e : Enc)
  /-- RBEGIN_SER (R331): opens a serial region holding the function's serial token. -/
  | rbeginSer (e : Enc)
  /-- REND (R342): closes a region level, committing the outermost speculative region. -/
  | rend (e : Enc)
  /-- RABORT (R343): aborts an open speculative region. -/
  | rabort (e : Enc)
  /-- RSTAT_SPEC (R344): writes the wave's speculation status and set sizes. -/
  | rstatSpec (e : Enc)
  /-- TFRONT (R345): writes a domain's published frontier and its count. -/
  | tfront (e : Enc)
  /-- TDEFER (R346): parks a speculative ordered task until promoted, or for a limit. -/
  | tdefer (e : Enc)
  /-- TDEFER_TIMEOUT (R346): the limit of a 96-bit TDEFER expires and q := 0. -/
  | tdeferTimeout
  /-- DEPQ (R347): writes the unit's dependence entries and ancestor summary. -/
  | depq (e : Enc)
  /-- UNIT_ADMIT (R310): A parked wave becomes a speculative unit once a SID and a core place are free. -/
  | unitAdmit
  /-- SERIAL_TOKEN_GRANT (R331): A wave parked for the serial token receives it and opens its serial region. -/
  | serialTokenGrant
  /-- FRONTIER_PUBLISH (R321): the domain publishes FRONT to every core at least every 2 µs. -/
  | frontierPublish
  /-- ORDERED_COMMIT (R322): A finished task below FRONT commits its versions, held operations and spawns. -/
  | orderedCommit
  /-- PROMOTION (R324): the frontier task commits its versions and runs on non-speculatively. -/
  | promotion
  /-- REGION_COMMIT (R329): A region parked at REND commits once its predecessors have committed. -/
  | regionCommit
  /-- EDGE_STALL_TIMEOUT (R328): an access stalled 65,536 cycles on an edge aborts its region with CYCLE. -/
  | edgeStallTimeout
  /-- TRAP (R366): raises TRAP_USER with a code after a release. -/
  | trap (e : Enc)
  /-- EMRD (R367): reads state of the faulting context through a selector. -/
  | emrd (e : Enc)
  /-- EMWR (R367): adds a pending write to the faulting context through a selector. -/
  | emwr (e : Enc)
  /-- EMRET (R360): ends the handler, applies pending writes and restores the frame. -/
  | emret (e : Enc)
  /-- EMSKIP (R360): ends the handler, discarding pending writes, and continues after the instruction. -/
  | emskip (e : Enc)
  /-- HOSTCALL (R368): posts a KIND 5 record to host software after a release. -/
  | hostcall (e : Enc)
  /-- HOSTCALL_WAIT (R368): posts a KIND 5 record needing an answer and takes the reply. -/
  | hostcallWait (e : Enc)
  /-- XOP (R365): opcode 0xFF pseudo-operation that always vectors to the handler. -/
  | xop (e : Enc)
  /-- WATCHDOG (R362): A handler passing 65,536 instructions without returning or blocking raises WATCHDOG. -/
  | watchdog
  /-- TRAP_RECORD_PRODUCE (R354): A record is written into the trap ring once room and EN allow, PROD advances and the interrupt is signalled. -/
  | trapRecordProduce
  /-- TRANS_RETRY (R355): answers a waiting trap record with RETRY. -/
  | transRetry
  /-- TRANS_SKIP (R355): answers a waiting trap record with SKIP. -/
  | transSkip
  /-- TRANS_ABANDON (R355): answers a waiting trap record with ABANDON, ending the block. -/
  | transAbandon
  /-- TRCTL_ENABLE (R353): A TRCTL write leaving EN = 1 checks the ring's translation, or disables it with BAD. -/
  | trctlEnable
  /-- TRCTL_LOST_CLEAR (R352): writing 1 to LOST clears it and LOSTCNT. -/
  | trctlLostClear
  /-- TRCONS_WRITE (R353): sets CONS, or is ignored and logged when beyond PROD. -/
  | trconsWrite
  /-- WRPOST (R470): places a work request record unarmed at the tail of a list. -/
  | wrpost (e : Enc)
  /-- WRARM (R470): sets a record's threshold and arms it. -/
  | wrarm (e : Enc)
  /-- WRCAN (R470): removes an unfired record and reports whether it did. -/
  | wrcan (e : Enc)
  /-- COLL_ALLREDUCE (R466): starts an all-reduce collective. -/
  | collAllreduce (e : Enc)
  /-- COLL_ALLGATHER (R466): starts an all-gather collective. -/
  | collAllgather (e : Enc)
  /-- COLL_REDUCESCATTER (R466): starts a reduce-scatter collective. -/
  | collReducescatter (e : Enc)
  /-- COLL_ALLTOALL (R466): starts an all-to-all collective. -/
  | collAlltoall (e : Enc)
  /-- COLL_BROADCAST (R466): starts a broadcast collective. -/
  | collBroadcast (e : Enc)
  /-- VDNQ (R472): writes a VDN entry and whether it has a route. -/
  | vdnq (e : Enc)
  /-- FFENCE (R473): waits for the wave's fired records and collectives, then acts as REL. -/
  | ffence (e : Enc)
  /-- CNTADD (R474): releases and adds a value to a completion counter. -/
  | cntadd (e : Enc)
  /-- CNTWAIT (R474): waits until a counter reaches a target, then acquires. -/
  | cntwait (e : Enc)
  /-- CNTWAIT_TIMEOUT (R474): RTMO passes without the target; the plain form faults REMOTE_FAIL, .ST writes 0. -/
  | cntwaitTimeout
  /-- REMOTE_REQUEST_ARRIVAL (R458): A peer checks acceptance and stage 2 and performs a remote access at its home. -/
  | remoteRequestArrival
  /-- REMOTE_RESPONSE_ARRIVAL (R459): A remote access's answer arrives and the lane takes its value and code. -/
  | remoteResponseArrival
  /-- REMOTE_TIMEOUT (R459): no answer within RTMO of the send completes the lane with TIMEOUT. -/
  | remoteTimeout
  /-- MESSAGE_PACKET_ARRIVAL (R460): A message packet is checked, written at its homes and counted, completing the message when the count reaches its length. -/
  | messagePacketArrival
  /-- SPRAY_BITMAP_ACK (R461): the receiver returns a bitmap of counted packets every 64 packets or 2 µs. -/
  | sprayBitmapAck
  /-- SPRAY_RETRANSMIT (R461): A packet unacknowledged 8 µs after its last send is sent again. -/
  | sprayRetransmit
  /-- MESSAGE_TIMEOUT (R461): A message incomplete RTMO after its first send fails with TIMEOUT. -/
  | messageTimeout
  /-- WORK_REQUEST_FIRE (R465): an armed head record whose trigger counter reached its threshold fires its operation. -/
  | workRequestFire
  /-- WORK_REQUEST_COMPLETE (R464): A fired operation succeeds, incrementing LCC, or fails with WR_FAILED. -/
  | workRequestComplete
  /-- COLLECTIVE_COMPLETE (R466): A collective finishes, writes STAT and increments its counter. -/
  | collectiveComplete
  /-- PEER_RESET_ARRIVAL (R468): A PEER_RESET completes the receiver's collectives naming that function with status 8. -/
  | peerResetArrival
  /-- ALLOW_ARRIVAL (R487): an ALLOW packet returns units to a channel's send allowance. -/
  | allowArrival
  /-- PACKET_HOP (R495): A module looks a packet up in the active bank and sends, holds, answers UNREACHABLE or discards it by AGE. -/
  | packetHop
  /-- VDNSYNC_GO (R457): starts dropping every cached VDN entry of the function. -/
  | vdnsyncGo
  /-- VDNSYNC_COMPLETE (R457): no cache holds an entry read before the sync; DONE increments. -/
  | vdnsyncComplete
  /-- FLIT_SEND (R483): each slot sends one flit under the next TXC, retraining at 2^48. -/
  | flitSend
  /-- FLIT_RECEIVE (R484): the receiver checks FEC, CRC, tag and header, then delivers, discards or enters waiting. -/
  | flitReceive
  /-- REPLAY_TIMEOUT (R485): the oldest unacknowledged flit waiting 4 µs is replayed. -/
  | replayTimeout
  /-- PAUSE_SILENCE_TIMEOUT (R486): no intact slot for 2 µs makes every VC paused. -/
  | pauseSilenceTimeout
  /-- LANE_LOCK (R492): lock on a lane group of at least the minimum width moves LOCK to SUMMARY. -/
  | laneLock
  /-- LOCK_TIMEOUT (R492): 1 ms without lock while RECONF = 0 gives MCODE 5 and MISMATCH. -/
  | lockTimeout
  /-- TRAINING_AGREEMENT (R491): summaries agree and STARTs are exchanged; keys are derived and the port goes ACTIVE. -/
  | trainingAgreement
  /-- LINK_MISMATCH (R490): summaries disagree and the port enters MISMATCH. -/
  | linkMismatch
  /-- SUMMARY_TIMEOUT (R490): no intact partner summary within 100 µs gives MCODE 8. -/
  | summaryTimeout
  /-- MISMATCH_RETRY (R492): 100 µs in MISMATCH retries, or after three tries the port FAILS. -/
  | mismatchRetry
  /-- LOCK_LOST (R492): loss of lock returns an ACTIVE or QUIET port to LOCK. -/
  | lockLost
  /-- RECONF_TIMEOUT (R492): 1 s after RECONF was written a non-ACTIVE port FAILS and its routes are withdrawn. -/
  | reconfTimeout
  /-- PORT_ENABLE (R492): writing PCTL.EN := 1 starts training. -/
  | portEnable
  /-- PORT_DISABLE (R492): writing PCTL.EN := 0 withdraws routes and goes DOWN. -/
  | portDisable
  /-- PORT_RETRAIN (R492): writing RETRAIN starts training from ACTIVE or FAILED. -/
  | portRetrain
  /-- PORT_RECONF_SET (R492): setting RECONF drains the port toward QUIET. -/
  | portReconfSet
  /-- PORT_RECONF_CLEAR (R492): clearing RECONF with lock held returns the port to ACTIVE. -/
  | portReconfClear
  /-- PKID_INSTALL (R493): A nonzero PKID installs PKEY0-PKEY3 as the pending key. -/
  | pkidInstall
  /-- PKID_WITHDRAW (R493): PKID := 0 withdraws the pending key. -/
  | pkidWithdraw
  /-- ROUTE_SWAP (R496): makes the other route bank active, clears RECONF and relooks held packets. -/
  | routeSwap
  /-- QUEUE_NOTIFY (R371): A notify store or LQNTFY write sets a queue's write index after checks. -/
  | queueNotify
  /-- LAUNCH_RECORD_ACCEPT (R372): the dispatcher reads the next record of an enabled queue, gives it a ticket and checks it. -/
  | launchRecordAccept
  /-- BLOCK_PLACEMENT (R380): A core with room takes evicted waves, restored blocks or new gangs in order. -/
  | blockPlacement
  /-- LAUNCH_COMPLETE (R379): A launch's blocks and commands are all done and its CPLT status is written. -/
  | launchComplete
  /-- ELASTIC_PARK (R382): an elastic wave parks at an instruction boundary while its input ring is empty. -/
  | elasticPark
  /-- WAVE_EVICT (R383): A wave waiting 1,024 cycles at a blocking point is saved when its registers are needed. -/
  | waveEvict
  /-- SLICE_END (R384): A slice ends or a reclaim starts and each cluster chooses drain, discard or save. -/
  | sliceEnd
  /-- DRAIN_DEADLINE (R384): A draining cluster's deadline passes and resident blocks are saved. -/
  | drainDeadline
  /-- CLUSTER_RETURN (R417): the last borrowed block leaves a reclaimed cluster; scratch is cleared and CLUSTER_RETURNED written. -/
  | clusterReturn
  /-- PAGE_WALK (R399): A miss walks stage 1 and stage 2, setting A and D, and ends with a translation or a fault. -/
  | pageWalk
  /-- TLBINV_ALL (R404): accepts an invalidation of every stage-1 entry of the function. -/
  | tlbinvAll
  /-- TLBINV_PAGE (R404): accepts an invalidation of one stage-1 VA page. -/
  | tlbinvPage
  /-- S2INV_ALL (R404): accepts an invalidation of every stage-2 entry of the function. -/
  | s2invAll
  /-- S2INV_PAGE (R404): accepts an invalidation of one stage-2 guest PA page. -/
  | s2invPage
  /-- INVALIDATION_COMPLETE (R404): an accepted invalidation's conditions hold and DONE increments. -/
  | invalidationComplete
  /-- S1ROOT_WRITE (R403): sets the stage-1 root and acts as a full stage-1 invalidation. -/
  | s1rootWrite
  /-- S2ROOT_WRITE (R403): sets the stage-2 root and acts as a full stage-2 invalidation. -/
  | s2rootWrite
  /-- TFBASE_ENABLE (R403): A TFBASE write leaving EN = 1 checks the syndrome array's translation. -/
  | tfbaseEnable
  /-- S2ANS_RETRY (R408): answers a stage-2 fault record with RETRY. -/
  | s2ansRetry
  /-- S2ANS_SKIP (R408): answers a stage-2 fault record with SKIP. -/
  | s2ansSkip
  /-- S2ANS_ABANDON (R408): answers a stage-2 fault record with ABANDON. -/
  | s2ansAbandon
  /-- FRESET_GO (R427): starts a function reset: fence, poison, release, peers and registers. -/
  | fresetGo
  /-- FUNCTION_RESET_COMPLETE (R427): the reset finishes within 2 ms, RESETTING clears and RESET_DONE is written. -/
  | functionResetComplete
  /-- CLOWN_OWNER_CHANGE (R415): moves a cluster between quiescent functions after writing back home caches. -/
  | clownOwnerChange
  /-- CLOWN_LEND (R416): lends a cluster to a holder and clears its scratch shares. -/
  | clownLend
  /-- CLOWN_RECLAIM (R417): sets HOLDER to OWNER on a lent cluster, starting a reclaim against DL. -/
  | clownReclaim
  /-- SPART_WRITE (R418): sets a core's home-cache share and speculation bit, refusing SPEC on small shares. -/
  | spartWrite
  /-- CALCMT_WRITE (R420): requests the shadow calendar to be copied in at the next slot 0. -/
  | calcmtWrite
  /-- CALENDAR_APPLY (R420): at the next slot numbered 0 the shadow calendar replaces the live one. -/
  | calendarApply
  /-- EVENT_RECORD (R422): an event is written to its ring or dropped, and its error-register effects apply. -/
  | eventRecord
  /-- EVCTL_ENABLE (R421): an EVCTL write leaving EN = 1 checks the event ring's translation. -/
  | evctlEnable
  /-- EVCTL_LOST_CLEAR (R422): writing 1 to LOST clears it and LOSTCNT. -/
  | evctlLostClear
  /-- EVCONS_WRITE (R421): sets event CONS, or is ignored and logged when beyond PROD. -/
  | evconsWrite
  /-- VESTAT_CLEAR (R425): W1C clears class bits; clearing bit CLS clears V. -/
  | vestatClear
  /-- MGCTL_GO_SOURCE (R433): starts a source session after checks and partner agreement, beginning round 0. -/
  | mgctlGoSource
  /-- MGCTL_GO_RECEIVE (R433): moves a receiving session to RECEIVING and holds READY at 0. -/
  | mgctlGoReceive
  /-- MGCTL_LULL (R436): requests Lull at the end of the current round. -/
  | mgctlLull
  /-- MGCTL_CANCEL (R439): cancels a session before SAVE, releasing holds and lifting throttle. -/
  | mgctlCancel
  /-- FOEHN_BLOCK_SEND (R434): foehn fetch-and-clears a block's bit and sends the block at the session's share. -/
  | foehnBlockSend
  /-- FOEHN_BLOCK_ARRIVAL (R434): the receiving Foehn writes a 4 KiB block through the destination's stage 2. -/
  | foehnBlockArrival
  /-- FOEHN_ROUND_END (R436): every message of a round is acknowledged; DCNT is set and Lull, another round or MAXROUNDS follows. -/
  | foehnRoundEnd
  /-- MARK_ARRIVAL (R437): A peer completes begun messages to the function, answers MARK_ACK and holds later ones. -/
  | markArrival
  /-- MARK_ACK_ARRIVAL (R437): A channel's MARK_ACK is recorded toward drain completion. -/
  | markAckArrival
  /-- DRAIN_COMPLETE (R437): the cut is complete; fabric state is written back and SAVE starts. -/
  | drainComplete
  /-- DRAIN_ABANDON (R438): 400 µs in DRAIN sends MARK_RELEASE, resumes issue and starts another round. -/
  | drainAbandon
  /-- MARK_RELEASE_ARRIVAL (R438): A peer releases the messages it held for the function. -/
  | markReleaseArrival
  /-- SAVE_COMPLETE (R440): the image is complete in the save area and shipping starts. -/
  | saveComplete
  /-- SHIP_COMPLETE (R439): image and residual blocks are acknowledged and REBIND goes to every peer. -/
  | shipComplete
  /-- REBIND_ARRIVAL (R451): A peer rewrites VDN entries naming the old triple, acknowledges and releases held messages. -/
  | rebindArrival
  /-- REBIND_COMPLETE (R439): all peers acknowledged or 100 µs passed; the partner restores and the source state is discarded. -/
  | rebindComplete
  /-- IMAGE_ARRIVAL (R450): the receiving Foehn checks the image and restores the function, or refuses it with BADIMAGE. -/
  | imageArrival
  /-- FORWARD_PACKET (R452): A packet for a moved function is forwarded, refused with DENIED, or answered MOVED after the window. -/
  | forwardPacket
  /-- FORWARD_WINDOW_END (R439): 250 µs in FORWARD ends the session with MIGRATED and starts MOVED answers. -/
  | forwardWindowEnd
  /-- SESSION_FAILURE (R453): A partner failure in SAVE, SHIP or REBIND restores the function at the source. -/
  | sessionFailure
  /-- EVICTCTL_GO (R511): starts the eviction handshake, migrating listed functions or failing. -/
  | evictctlGo
  /-- EVICT_ARM_REQUEST (R512): A partner's controller arms a receiving session for an evicted function or answers busy. -/
  | evictArmRequest
  /-- EVICT_ARM_RETRY (R512): after a busy answer the controller repeats the ARM request every 1 ms. -/
  | evictArmRetry
  /-- EVICT_TIMEOUT (R511): 30 s after GO in MIGRATE or DRAIN cancels sessions and fails the handshake. -/
  | evictTimeout
  /-- MCTP_DEVICE_PAGE_ACCESS (R499): A vendor MCTP message reads or writes the device page. -/
  | mctpDevicePageAccess
  /-- SMBUS_FALLBACK (R499): no I3C start within 100 ms of power-good selects the SMBus binding. -/
  | smbusFallback
  /-- GET_VERSION (R500): SPDM GET_VERSION request. -/
  | getVersion
  /-- GET_CAPABILITIES (R500): SPDM GET_CAPABILITIES request. -/
  | getCapabilities
  /-- NEGOTIATE_ALGORITHMS (R500): SPDM NEGOTIATE_ALGORITHMS request offering P-521 and SHA-512 only. -/
  | negotiateAlgorithms
  /-- GET_DIGESTS (R500): SPDM GET_DIGESTS request. -/
  | getDigests
  /-- GET_CERTIFICATE (R500): SPDM GET_CERTIFICATE request. -/
  | getCertificate
  /-- CHALLENGE (R500): SPDM CHALLENGE request. -/
  | challenge
  /-- GET_MEASUREMENTS (R500): SPDM GET_MEASUREMENTS request for firmware and register digests. -/
  | getMeasurements
  /-- KEY_EXCHANGE (R500): SPDM KEY_EXCHANGE request. -/
  | keyExchange
  /-- FINISH (R500): SPDM FINISH request completing a session. -/
  | finish
  /-- PORT_KEY_SESSION (R501): the controllers derive a port master secret from an SPDM session and write PKEY and PKID. -/
  | portKeySession
  /-- FIRMWARE_IMAGE_INSTALL (R500): A firmware image is installed only if its signature verifies. -/
  | firmwareImageInstall
  /-- POWER_GOOD (R504): power-good starts each unit's self-test. -/
  | powerGood
  /-- UNIT_SELF_TEST_COMPLETE (R504): A unit's self-test ends, setting its ready bit or logging the failure. -/
  | unitSelfTestComplete
  /-- THROTTLE_UPDATE (R506): every 10 µs the controller raises or lowers the throttle level. -/
  | throttleUpdate
  /-- ELOG_CLEAR (R508): W1C of ELOGS.V clears the whole log slot. -/
  | elogClear
  /-- HBM_SCRUB (R40): each HBM controller scrubs its stack once every 24 hours, correcting and logging errors. -/
  | hbmScrub
  /-- HOST_LINK_DOWN (R37): an uncorrectable Limpador link error takes the port down and writes HOST_LINK_DOWN. -/
  | hostLinkDown
  /-- REGISTER_WRITE (R411): A window write to a register with no row of its own sets its RW fields under R3. -/
  | registerWrite
  /-- PF_RESET (R414): A reset of the PF from the host adapter card resets all 64 functions, each as by a write of its GO. -/
  | pfReset
  /-- SESSION_PARTNER_REQUEST (R433): the partner module's Foehn takes a source session's request over Pladen and accepts it or refuses it against its RECEIVING session and function. -/
  | sessionPartnerRequest
  /-- RECV_GENERATION_WAIT_EXPIRY (R463): A RECV held at the head of its list fires once RTMO + LIFE has passed since its window's generation entered the other half. -/
  | recvGenerationWaitExpiry
  /-- BLOCK_SAVE_COMPLETE (R355): the save of a block finishes, and any trap answer that arrived during the save then takes effect. -/
  | blockSaveComplete
  deriving DecidableEq, Repr

end Sys2Proof
end

