-- ==== Sys2Proof/Config.lean ====
section
/-!
DEFINITION. Sys2Proof/Config.lean: what the spec leaves open, as constants without a body.

Each constant is free: nothing can be proved about its value.  Those that are drawn again and again take the machine's
draw count (`State.tick`), which the drawing step advances.  notes/assumptions names each.
-/

namespace Sys2Proof.Config

/-- A free 32-bit value, by draw count (log 3). -/
opaque freeWord : Nat → Word

/-- A free 64-bit value, by draw count (log 3). -/
opaque freeDWord : Nat → DWord

/-- A free choice between two outcomes the spec allows, by draw count (log 4). -/
opaque freeBool : Nat → Bool

/-- A free choice of one of n outcomes the spec allows, by draw count (log 4). -/
opaque freePick : Nat → Nat

/-- The granules a home's directory share can track: the spec gives the share in bytes and no entry size (R9, R315) (log 16). -/
opaque directoryEntries : Nat

/-- A row of an engine, the host or a peer with its arguments, by draw count (log 4). -/
opaque freeRow : Nat → Option (Instr × List Nat × List (BitVec 8))

/-- The core cycles one step takes, less one (R8, R83: latencies are timing) (log 5). -/
opaque stepCycles : Nat → Nat

/-- The HBM stack that holds a host PA: the spec gives no map from addresses to stacks (R504, R508) (log 20). -/
opaque stackOf : Nat → Nat

/-- The answer to an SPDM request: the request's code and data, and what was exchanged before (R500) (log 21). -/
opaque spdmAnswer : Nat → List (BitVec 8) → List (List (BitVec 8)) → List (BitVec 8)

/-- The export master secret of an SPDM session between two controllers, by draw count (R501) (log 21). -/
opaque exportSecret : Nat → List (BitVec 8)

/-- A firmware image's signature verifies under the device identity chain (R500) (log 21). -/
opaque signatureHolds : List (BitVec 8) → Bool

/-- AUX of a packet for what its header does not say elsewhere: KIND and the body's numbers (R481) (log 22). -/
opaque wireAux : Nat → List Nat → Word

/-- The body's numbers that KIND, AUX and the header's fields stand for (R481) (log 22). -/
opaque wireBody : Nat → Word → List Nat

/-- The hash of a packet's triples and message that picks an intermediate group or a port (R495) (log 22). -/
opaque routeHash : List Nat → Nat

/-- A mesh calendar's two endpoints (R420) (log 23). -/
opaque calEnds : Nat → Nat

/-- The identity store's factory contents: the byte at an offset (R502) (log 23). -/
opaque identityByte : Nat → BitVec 8

end Sys2Proof.Config
end

