-- ==== Sys2Proof/Machine/Float.lean ====
section
/-!
DEFINITION. Sys2Proof/Machine/Float.lean: binary floating point by exact integers and one rounding (R142 to R144, R157 to R162).

A finite value is a sign, a natural number and a power of two.  Every operation forms the exact result, or a result
exact but for a remainder below the last place (`sticky`), and `roundTo` rounds it once.
-/

namespace Sys2Proof.Machine

/-- A binary format: exponent bits and fraction bits (R144). -/
structure Fmt where
  ebits : Nat
  fbits : Nat
  deriving DecidableEq, Repr

def F32 : Fmt := ⟨8, 23⟩
def F16 : Fmt := ⟨5, 10⟩
def BF16 : Fmt := ⟨8, 7⟩

def Fmt.bias (f : Fmt) : Int := 2 ^ (f.ebits - 1) - 1
/-- The exponent of the smallest normal. -/
def Fmt.emin (f : Fmt) : Int := 1 - f.bias
/-- The exponent of the last place of the subnormals. -/
def Fmt.qmin (f : Fmt) : Int := f.emin - f.fbits
def Fmt.width (f : Fmt) : Nat := 1 + f.ebits + f.fbits
def Fmt.signBit (f : Fmt) : Nat := 2 ^ (f.ebits + f.fbits)
/-- The pattern of +∞. -/
def Fmt.inf (f : Fmt) : Nat := (2 ^ f.ebits - 1) * 2 ^ f.fbits
/-- The canonical quiet NaN (R144). -/
def Fmt.nan (f : Fmt) : Nat := f.inf + 2 ^ (f.fbits - 1)

/-- Rounding modes (R141). -/
inductive Rm where
  | rne | rtz | rup | rdn
  deriving DecidableEq, Repr

/-- The mode a code of %fpctl.RM names (R141). -/
def Rm.ofCode (n : Nat) : Rm :=
  match n % 4 with
  | 0 => .rne
  | 1 => .rtz
  | 2 => .rup
  | _ => .rdn

/-- The flags of %fpstat (R142). -/
structure Flags where
  invalid : Bool := false
  divzero : Bool := false
  overflow : Bool := false
  underflow : Bool := false
  inexact : Bool := false
  deriving DecidableEq, Repr

def Flags.none : Flags := {}

def Flags.or (a b : Flags) : Flags :=
  ⟨a.invalid || b.invalid, a.divzero || b.divzero, a.overflow || b.overflow, a.underflow || b.underflow,
    a.inexact || b.inexact⟩

/-- The bits of %fpstat that flags set (R142). -/
def Flags.bits (f : Flags) : Word :=
  (if f.invalid then 1 else 0) ||| (if f.divzero then 2 else 0) ||| (if f.overflow then 4 else 0) |||
  (if f.underflow then 8 else 0) ||| (if f.inexact then 16 else 0)

/-- A value of a format. -/
inductive FVal where
  | nan (signalling : Bool)
  | inf (neg : Bool)
  | fin (neg : Bool) (m : Nat) (e : Int)   -- ± m × 2^e
  deriving DecidableEq, Repr

/-- The value of a pattern. -/
def Fmt.unpack (f : Fmt) (b : Nat) : FVal :=
  let neg := b / f.signBit % 2 == 1
  let ex := b / 2 ^ f.fbits % 2 ^ f.ebits
  let fr := b % 2 ^ f.fbits
  if ex == 2 ^ f.ebits - 1 then
    if fr == 0 then .inf neg else .nan (fr / 2 ^ (f.fbits - 1) == 0)
  else if ex == 0 then .fin neg fr f.qmin
  else .fin neg (2 ^ f.fbits + fr) (f.qmin + ((ex : Int) - 1))

/-- The number of bits of a natural number. -/
def bitLen (m : Nat) : Nat := if m = 0 then 0 else Nat.log2 m + 1

/-- Whether a remainder rounds a magnitude up: `n` the truncated magnitude, `rem` out of `unit`, `sticky` below it. -/
def roundsUp (rm : Rm) (neg : Bool) (n rem unit : Nat) (sticky : Bool) : Bool :=
  match rm with
  | .rne => decide (unit < 2 * rem) || (decide (unit = 2 * rem) && (sticky || n % 2 == 1))
  | .rtz => false
  | .rup => !neg && (rem != 0 || sticky)
  | .rdn => neg && (rem != 0 || sticky)

/-- A magnitude m × 2^e in units of 2^q: the truncated count, the remainder and the unit it is out of. -/
def quantize (m : Nat) (e q : Int) : Nat × Nat × Nat :=
  if q ≤ e then (m * 2 ^ (e - q).toNat, 0, 1)
  else
    let u := 2 ^ (q - e).toNat
    (m / u, m % u, u)

/-- The sign bit of a pattern. -/
def Fmt.sgn (f : Fmt) (neg : Bool) : Nat := if neg then f.signBit else 0

/-- What an overflowing result is (R144). -/
def Fmt.overflowed (f : Fmt) (rm : Rm) (neg : Bool) : Nat :=
  let toInf := match rm with | .rne => true | .rtz => false | .rup => !neg | .rdn => neg
  f.sgn neg + (if toInf then f.inf else f.inf - 1)

/-- Round ± (m + sticky) × 2^e once to a format (R144). -/
def Fmt.roundTo (f : Fmt) (rm : Rm) (neg : Bool) (m : Nat) (e : Int) (sticky : Bool) : Nat × Flags :=
  if m = 0 then (f.sgn neg, Flags.none)
  else
    let top : Int := e + bitLen m - 1
    let q := max (top - f.fbits) f.qmin
    let (n, rem, unit) := quantize m e q
    let up := roundsUp rm neg n rem unit sticky
    let n1 := if up then n + 1 else n
    let inexact := rem != 0 || sticky
    let (n2, q2) := if n1 = 2 ^ (f.fbits + 1) then (2 ^ f.fbits, q + 1) else (n1, q)
    let (un, urem, uunit) := quantize m e (top - f.fbits)
    let carries := roundsUp rm neg un urem uunit sticky && decide (un + 1 = 2 ^ (f.fbits + 1))
    let tiny := decide (top < f.emin) && !(decide (top = f.emin - 1) && carries)
    if n2 < 2 ^ f.fbits then
      (f.sgn neg + n2, { inexact := inexact, underflow := tiny && inexact })
    else
      let be := q2 - f.qmin + 1
      if decide (2 ^ f.ebits - 1 ≤ be) then (f.overflowed rm neg, { overflow := true, inexact := true })
      else (f.sgn neg + be.toNat * 2 ^ f.fbits + (n2 - 2 ^ f.fbits), { inexact := inexact, underflow := tiny && inexact })

/-- The exact sum of two finite values as a signed count of 2^e. -/
def sumExact (n1 : Bool) (m1 : Nat) (e1 : Int) (n2 : Bool) (m2 : Nat) (e2 : Int) : Int × Int :=
  let e := min e1 e2
  let a : Int := m1 * 2 ^ (e1 - e).toNat
  let b : Int := m2 * 2 ^ (e2 - e).toNat
  ((if n1 then -a else a) + (if n2 then -b else b), e)

/-- An invalid operation: the canonical NaN and INVALID. -/
def Fmt.invalid (f : Fmt) : Nat × Flags := (f.nan, { invalid := true })

/-- a + b of unpacked values (R157). -/
def Fmt.addV (f : Fmt) (rm : Rm) (a b : FVal) : Nat × Flags :=
  match a, b with
  | .nan s, .nan t => (f.nan, { invalid := s || t })
  | .nan s, _ => (f.nan, { invalid := s })
  | _, .nan t => (f.nan, { invalid := t })
  | .inf x, .inf y => if x == y then (f.sgn x + f.inf, Flags.none) else f.invalid
  | .inf x, .fin .. => (f.sgn x + f.inf, Flags.none)
  | .fin .., .inf y => (f.sgn y + f.inf, Flags.none)
  | .fin n1 m1 e1, .fin n2 m2 e2 =>
    let (v, e) := sumExact n1 m1 e1 n2 m2 e2
    if v = 0 then
      let neg := if n1 == n2 then n1 else rm == .rdn
      (f.sgn neg, Flags.none)
    else f.roundTo rm (decide (v < 0)) v.natAbs e false

/-- The sign of a value flipped where asked (R145). -/
def FVal.flip (v : FVal) (b : Bool) : FVal :=
  match v with
  | .nan s => .nan s
  | .inf n => .inf (n != b)
  | .fin n m e => .fin (n != b) m e

/-- a × b of unpacked values as an exact value, or the result it is (R157). -/
def Fmt.mulV (f : Fmt) (rm : Rm) (a b : FVal) : Nat × Flags :=
  match a, b with
  | .nan s, .nan t => (f.nan, { invalid := s || t })
  | .nan s, _ => (f.nan, { invalid := s })
  | _, .nan t => (f.nan, { invalid := t })
  | .inf x, .inf y => (f.sgn (x != y) + f.inf, Flags.none)
  | .inf x, .fin y m _ => if m = 0 then f.invalid else (f.sgn (x != y) + f.inf, Flags.none)
  | .fin x m _, .inf y => if m = 0 then f.invalid else (f.sgn (x != y) + f.inf, Flags.none)
  | .fin x m1 e1, .fin y m2 e2 => f.roundTo rm (x != y) (m1 * m2) (e1 + e2) false

/-- a × b + c, rounded once (R157). -/
def Fmt.fmaV (f : Fmt) (rm : Rm) (a b c : FVal) : Nat × Flags :=
  let snan (v : FVal) : Bool := match v with | .nan s => s | _ => false
  let isNan (v : FVal) : Bool := match v with | .nan _ => true | _ => false
  let zeroInf : Bool :=
    match a, b with
    | .inf _, .fin _ m _ => m == 0
    | .fin _ m _, .inf _ => m == 0
    | _, _ => false
  if zeroInf then f.invalid
  else if isNan a || isNan b || isNan c then (f.nan, { invalid := snan a || snan b || snan c })
  else
    match a, b with
    | .fin x m1 e1, .fin y m2 e2 => f.addV rm (.fin (x != y) (m1 * m2) (e1 + e2)) c
    | .fin x _ _, .inf y => f.addV rm (.inf (x != y)) c
    | .inf x, .fin y _ _ => f.addV rm (.inf (x != y)) c
    | .inf x, .inf y => f.addV rm (.inf (x != y)) c
    | _, _ => f.invalid

/-- The order of two values that are not NaN: less, as exact values with −0 equal to +0. -/
def FVal.lt (a b : FVal) : Bool :=
  match a, b with
  | .inf x, .inf y => x && !y
  | .inf x, _ => x
  | _, .inf y => !y
  | .fin n1 m1 e1, .fin n2 m2 e2 => decide ((sumExact n1 m1 e1 (!n2) m2 e2).1 < 0)
  | _, _ => false

/-- Two values that are not NaN are equal, −0 and +0 included. -/
def FVal.eq (a b : FVal) : Bool :=
  match a, b with
  | .inf x, .inf y => x == y
  | .fin n1 m1 e1, .fin n2 m2 e2 => decide ((sumExact n1 m1 e1 (!n2) m2 e2).1 = 0)
  | _, _ => false

def FVal.isNan (v : FVal) : Bool := match v with | .nan _ => true | _ => false
def FVal.isSnan (v : FVal) : Bool := match v with | .nan s => s | _ => false
def FVal.isNeg (v : FVal) : Bool := match v with | .nan _ => false | .inf n => n | .fin n _ _ => n

/-- minimumNumber and maximumNumber of two patterns (R158): −0 counts as less than +0. -/
def Fmt.minMax (f : Fmt) (isMax : Bool) (a b : Nat) : Nat × Flags :=
  let x := f.unpack a
  let y := f.unpack b
  let fl : Flags := { invalid := x.isSnan || y.isSnan }
  if x.isNan && y.isNan then (f.nan, fl)
  else if x.isNan then (b, fl)
  else if y.isNan then (a, fl)
  else
    let less := x.lt y || (x.eq y && x.isNeg && !y.isNeg)
    (if less != isMax then a else b, fl)

/-- Round to an integral value in the same format (R159). -/
def Fmt.roundInt (f : Fmt) (rm : Rm) (a : Nat) : Nat × Flags :=
  match f.unpack a with
  | .nan s => (f.nan, { invalid := s })
  | .inf _ => (a, Flags.none)
  | .fin neg m e =>
    if m = 0 ∨ 0 ≤ e then (a, Flags.none)
    else
      let (n, rem, unit) := quantize m e 0
      if rem = 0 then (a, Flags.none)
      else
        let n1 := if roundsUp rm neg n rem unit false then n + 1 else n
        ((f.roundTo rm neg n1 0 false).1, Flags.none)

/-- The class bit of a pattern (R159). -/
def Fmt.classBit (f : Fmt) (a : Nat) : Nat :=
  match f.unpack a with
  | .nan true => 8
  | .nan false => 9
  | .inf true => 0
  | .inf false => 7
  | .fin neg m _ =>
    if m = 0 then (if neg then 3 else 4)
    else if m < 2 ^ f.fbits then (if neg then 2 else 5)
    else (if neg then 1 else 6)

/-! ### Reciprocal and square roots (R160) -/

/-- The integer square root by digits: `fuel` bits of the root, `r` the root so far. -/
def isqrtAux (fuel n r : Nat) : Nat :=
  match fuel with
  | 0 => r
  | k + 1 =>
    let c := r + 2 ^ k
    isqrtAux k n (if c * c ≤ n then c else r)

/-- The integer square root. -/
def isqrt (n : Nat) : Nat := isqrtAux (bitLen n / 2 + 1) n 0

/-- 1 / x (R160). -/
def Fmt.recip (f : Fmt) (rm : Rm) (a : Nat) : Nat × Flags :=
  match f.unpack a with
  | .nan s => (f.nan, { invalid := s })
  | .inf n => (f.sgn n, Flags.none)
  | .fin n m e =>
    if m = 0 then (f.sgn n + f.inf, { divzero := true })
    else
      let k := bitLen m + 64
      f.roundTo rm n (2 ^ k / m) (-e - k) (2 ^ k % m != 0)

/-- √x (R160). -/
def Fmt.sqrt (f : Fmt) (rm : Rm) (a : Nat) : Nat × Flags :=
  match f.unpack a with
  | .nan s => (f.nan, { invalid := s })
  | .inf n => if n then f.invalid else (f.inf, Flags.none)
  | .fin n m e =>
    if m = 0 then (f.sgn n, Flags.none)
    else if n then f.invalid
    else
      let odd := e % 2 != 0
      let m1 := (if odd then 2 * m else m) * 2 ^ 128
      let e1 := (if odd then e - 1 else e) - 128
      let r := isqrt m1
      f.roundTo rm false r (e1 / 2) (r * r != m1)

/-- 1 / √x (R160). -/
def Fmt.rsqrt (f : Fmt) (rm : Rm) (a : Nat) : Nat × Flags :=
  match f.unpack a with
  | .nan s => (f.nan, { invalid := s })
  | .inf n => if n then f.invalid else (0, Flags.none)
  | .fin n m e =>
    if m = 0 then (f.sgn n + f.inf, { divzero := true })
    else if n then f.invalid
    else
      let odd := e % 2 != 0
      let m1 := if odd then 2 * m else m
      let e1 := if odd then e - 1 else e
      let k := 2 * (bitLen m1 + 64)
      let r := isqrt (2 ^ k / m1)
      f.roundTo rm false r (-(e1 / 2) - (k / 2 : Nat)) (r * r * m1 != 2 ^ k)

/-! ### 2^x, log2 x, sin πx, cos πx (R161)

Each is computed in fixed point to far more places than any binary32 argument needs, and is then marked inexact:
the exact cases are taken apart first. -/

/-- The fraction bits of the fixed point. -/
def fixP : Nat := 320

/-- Σ over k of 1 / (k 2^k): ln 2 in fixed point. -/
def ln2Aux (fuel k : Nat) (acc : Nat) : Nat :=
  match fuel with
  | 0 => acc
  | n + 1 => ln2Aux n (k + 1) (acc + 2 ^ fixP / (k * 2 ^ k))

def ln2Fix : Nat := ln2Aux 330 1 0

/-- Σ of ± 1 / ((2k+1) x^(2k+1)): atan (1/x) in fixed point. -/
def atanAux (fuel k : Nat) (p x : Nat) (acc : Int) : Int :=
  match fuel with
  | 0 => acc
  | n + 1 =>
    let t : Int := p / (2 * k + 1)
    atanAux n (k + 1) (p / (x * x)) x (if k % 2 = 0 then acc + t else acc - t)

/-- π in fixed point: 16 atan (1/5) − 4 atan (1/239). -/
def piFix : Nat := (16 * atanAux 140 0 (2 ^ fixP / 5) 5 0 - 4 * atanAux 45 0 (2 ^ fixP / 239) 239 0).toNat

/-- Σ of y^k / k! in fixed point. -/
def expAux (fuel k : Nat) (t y acc : Nat) : Nat :=
  match fuel with
  | 0 => acc
  | n + 1 => expAux n (k + 1) (t * y / 2 ^ fixP / (k + 1)) y (acc + t)

/-- Σ of ± y^(2k+1) / (2k+1)! in fixed point. -/
def sinAux (fuel k : Nat) (t y : Nat) (acc : Int) : Int :=
  match fuel with
  | 0 => acc
  | n + 1 =>
    sinAux n (k + 1) (t * y / 2 ^ fixP * y / 2 ^ fixP / ((2 * k + 2) * (2 * k + 3))) y
      (if k % 2 = 0 then acc + t else acc - t)

/-- A signed value m × 2^e in fixed point; the binary32 exponents fit. -/
def toFix (m : Nat) (e : Int) : Nat := m * 2 ^ (e + fixP).toNat

/-- 2^x (R161). -/
def exp2 (rm : Rm) (a : Nat) : Nat × Flags :=
  match F32.unpack a with
  | .nan s => (F32.nan, { invalid := s })
  | .inf n => (if n then 0 else F32.inf, Flags.none)
  | .fin n m e =>
    if m = 0 then (0x3F800000, Flags.none)
    else if decide (11 ≤ e + bitLen m) then F32.roundTo rm false 1 (if n then -1024 else 1024) false
    else
      let x : Int := (if n then -1 else 1) * (toFix m e : Int)
      let i := x / 2 ^ fixP
      let fr := (x % 2 ^ fixP).toNat
      if fr = 0 then F32.roundTo rm false 1 i false
      else F32.roundTo rm false (2 * expAux 90 0 (2 ^ fixP) (fr * ln2Fix / 2 ^ fixP) 0 + 1) (i - fixP - 1) false

/-- The bits of log2 y for y in [1, 2) by squaring. -/
def log2Aux (fuel y acc : Nat) : Nat :=
  match fuel with
  | 0 => acc
  | n + 1 =>
    let s := y * y / 2 ^ fixP
    if 2 ^ (fixP + 1) ≤ s then log2Aux n (s / 2) (2 * acc + 1) else log2Aux n s (2 * acc)

/-- log2 x (R161). -/
def log2 (rm : Rm) (a : Nat) : Nat × Flags :=
  match F32.unpack a with
  | .nan s => (F32.nan, { invalid := s })
  | .inf n => if n then F32.invalid else (F32.inf, Flags.none)
  | .fin n m e =>
    if m = 0 then (F32.sgn true + F32.inf, { divzero := true })
    else if n then F32.invalid
    else
      let k : Int := e + bitLen m - 1
      if m = 2 ^ (bitLen m - 1) then F32.roundTo rm (decide (k < 0)) k.natAbs 0 false
      else
        let y := m * 2 ^ (fixP + 1 - bitLen m)
        let v : Int := 2 * (k * 2 ^ 128 + (log2Aux 128 y 0 : Int)) + 1
        F32.roundTo rm (decide (v < 0)) v.natAbs (-129) false

/-- sin (π r / 2^fixP), r below 2^(fixP+1), with a sign (R161). -/
def sinPi (rm : Rm) (neg : Bool) (r : Nat) : Nat × Flags :=
  let one := 2 ^ fixP
  let neg1 := neg != decide (one ≤ r)
  let r1 := if one ≤ r then r - one else r
  let r2 := if one < 2 * r1 then one - r1 else r1
  if 2 * r2 = one then F32.roundTo rm neg1 1 0 false
  else
    let z := piFix * r2 / one
    F32.roundTo rm neg1 (2 * (sinAux 70 0 z z 0).toNat + 1) (-(fixP : Int) - 1) false

/-- sin πx (R161). -/
def fsin (rm : Rm) (a : Nat) : Nat × Flags :=
  match F32.unpack a with
  | .nan s => (F32.nan, { invalid := s })
  | .inf _ => F32.invalid
  | .fin n m e =>
    if m = 0 ∨ 0 ≤ e then (F32.sgn n, Flags.none)
    else
      let x := toFix m e
      if x % 2 ^ fixP = 0 then (F32.sgn n, Flags.none) else sinPi rm n (x % 2 ^ (fixP + 1))

/-- cos πx (R161). -/
def fcos (rm : Rm) (a : Nat) : Nat × Flags :=
  match F32.unpack a with
  | .nan s => (F32.nan, { invalid := s })
  | .inf _ => F32.invalid
  | .fin _ m e =>
    if m = 0 then (0x3F800000, Flags.none)
    else if decide (0 < e) then (0x3F800000, Flags.none)
    else
      let x := toFix m e % 2 ^ (fixP + 1)
      let y := (x + 2 ^ (fixP - 1)) % 2 ^ (fixP + 1)
      if y % 2 ^ fixP = 0 then (0, Flags.none) else sinPi rm false y

/-- FADD of the atomics (R115): RNE, no flag, any NaN is 0x7FC0_0000. -/
def atomFadd (a b : Nat) : Nat := (F32.addV .rne (F32.unpack (a % 2 ^ 32)) (F32.unpack (b % 2 ^ 32))).1

end Sys2Proof.Machine
end

