-- ==== Sys2Proof/Machine/State.lean ====
section
/-!
DEFINITION. Sys2Proof/Machine/State.lean: the state of the 6170 as plain data, and the state after reset.

The device is a set of functions (contexts) with their registers, of blocks with their waves and lanes, of physical
cores, and of the engines' queues.  A block holds the state that travels with it when it is saved (R33, R383 to R386):
its waves, barriers, rings and stream.  Memory is one list of cells over host addresses: HBM from 0 to 1 TiB, and the slice of physical
core p at 1 TiB + p × 16 MiB.
-/

namespace Sys2Proof.Machine

open Host

/-! ### Values -/

/-- A 32-bit value with its poison (R37, R39). -/
structure PWord where
  val : Word := 0
  poison : Bool := false
  deriving DecidableEq, Repr

/-- The causes (R349). -/
inductive Cause where
  | none | illegalLength | illegalPlacement | latchLost | accessFault | pageFault | align | fmtMismatch | barOverflow
  | barUnderflow | ringMisuse | doubleResolve | spawnDepth | tstampOrder | emulNest | remoteFail | poison | ringBadBase
  | watchdog | trapUser | capacity | cycle | nospec | fault | migrate
  deriving DecidableEq, Repr

/-! ### Sequencer state (R70 to R83) -/

/-- One lane of a bypass latch (R53). -/
structure LatchLane where
  val : PWord := {}
  tag : BitVec 8 := 0
  nwb : Bool := false
  valid : Bool := false
  deriving DecidableEq, Repr

/-- The condition of a lane (R70).  A blocked lane names its entry in the wave's table of waits. -/
inductive Cond where
  | idle
  | runnable
  | blocked (wait : Nat)
  | joined (mask : Nat)
  /-- live, but held in a frame while a handler runs (R357) -/
  | stacked
  deriving DecidableEq, Repr

/-- The predicate word of a new fibre: only q31 reads 1 (R72). -/
def predReset : BitVec 32 := 0x80000000

/-- The state of one lane of a wave (R72, R73). -/
structure Lane where
  cond : Cond := .idle
  pc : DWord := 0
  /-- window base B -/
  base : Nat := 0
  pred : BitVec 32 := predReset
  fibid : Word := 0
  fpstat : Word := 0
  latches : Tab LatchLane := []
  /-- the stochastic generator X (R186); `none` is its start value for the lane (R200) -/
  sr : Option (BitVec 32) := none
  deriving DecidableEq, Repr

/-- A batch: its member lanes (R74). -/
structure Batch where
  mask : BitVec 32 := 0
  deriving DecidableEq, Repr

/-- The part of a lane that a frame stacks (R357). -/
structure FrameLane where
  cond : Cond := .idle
  pc : DWord := 0
  base : Nat := 0
  pred : BitVec 32 := predReset
  fpstat : Word := 0
  latches : Tab LatchLane := []
  deriving DecidableEq, Repr

/-- What a pending write of a handler names (R359). -/
inductive EmTarget where
  | v (reg : Nat)
  | s (reg : Nat)
  | latchVal (l : Nat)
  | latchMeta (l : Nat)
  | pred
  | fpstat
  | fpctl
  | pcLo
  | pcHi
  deriving DecidableEq, Repr

/-- A pending write of a handler (R359). -/
structure EmWrite where
  target : EmTarget
  lane : Nat
  val : PWord
  deriving DecidableEq, Repr

/-- An emulation frame (R357). -/
structure Frame where
  lanes : Tab FrameLane := []
  batches : List Batch := []
  sregs : Tab PWord := []
  masks : Tab (BitVec 32) := []
  arrived : Tab (BitVec 32) := []
  fpctl : Word := 0
  joinlost : Word := 0
  ow : Tab Word := []
  /-- the issuing batch's members -/
  members : BitVec 32 := 0
  /-- the next sequential PC of the emulated instruction -/
  nextPc : DWord := 0
  /-- the emulated instruction is one of the block's stream (R363) -/
  stream : Bool := false
  pending : List EmWrite := []
  /-- the WATCHDOG count of the context below (R362), and its `others` (R77) -/
  count : Nat := 0
  others : Nat := 0
  doneMask : BitVec 32 := 0
  doneGrp : Tab Nat := []
  deriving DecidableEq, Repr

/-- The kind of wave a role gives (R21). -/
inductive Role where
  | copy | vector
  deriving DecidableEq, Repr

/-! ### Translation (R394 to R407) -/

/-- What an access does, for its permissions and its syndrome (R397, R407). -/
inductive Acc where
  | read | write | readWrite | fetch | walk
  /-- a translation that needs no permission (TAFF, R303) -/
  | any
  deriving DecidableEq, Repr

/-- A syndrome of a translation fault (R407), without its SEQ. -/
structure Syndrome where
  stage : Nat
  level : Nat
  type : Nat
  tab : Bool
  acc : Acc
  va : Nat
  gpa : Nat
  deriving DecidableEq, Repr

/-- Where a guest address resolves to (R398). -/
inductive Place where
  | hbm (pa : Nat)                    -- host PA below 1 TiB
  | slice (core off : Nat)            -- a physical core's slice
  | notify (q off : Nat)
  | localScr (off : Nat)              -- the block's scratch
  | fabric (vdn off : Nat)
  deriving DecidableEq, Repr

/-- A translation: the place, the guest PA and the attributes of R397. -/
structure Xlat where
  place : Place
  gpa : Nat
  r : Bool
  w : Bool
  x : Bool
  sc : Bool
  stk : Bool
  fmt : Nat
  blk : Nat
  sgrp : Nat
  dirty : Bool
  deriving DecidableEq, Repr

/-- A TLB entry: a VA page with its two leaves as they were walked (R401). -/
structure TlbEntry where
  fn : Nat
  vpage : Nat
  /-- the stage-2 page of the translation, for stage-2 invalidations (R404) -/
  gpage : Nat
  leaf1 : DWord
  level1 : Nat
  leaf2 : DWord
  level2 : Nat
  deriving DecidableEq, Repr

/-- A stage-2 leaf for the guest PA of a stage-1 table, which an L2 TLB holds (R401). -/
structure TlbLeaf where
  fn : Nat
  gpage : Nat
  leaf : DWord
  level : Nat
  deriving DecidableEq, Repr

/-- The L2 TLB of a cluster (R401): combined translations and stage-2 leaves of table pages. -/
structure Cluster where
  tlb : List TlbEntry := []
  leaves : List TlbLeaf := []
  deriving DecidableEq, Repr

/-! ### Memory engine (R128 to R137) -/

/-- A word of a core's L1 (R129). -/
structure L1Word where
  val : PWord := {}
  owned : Bool := false
  /-- the batches of copy tokens that have written the word at its home since (R36): block, wave, token and batch -/
  behind : List (Nat × Nat × Nat × Nat) := []
  deriving DecidableEq, Repr

/-- What an access in flight does when it is performed or takes its value (R128 to R131). -/
inductive AccKind where
  | load (size : Nat) (sx : Bool)
  | store (bytes : List Byte) (poison : Bool)
  | atom (aop : Nat) (size : Nat) (op op2 : DWord) (opPoison op2Poison : Bool)
  | waitw (size : Nat) (cmp : DWord) (cmpPoison : Bool)
  /-- LR and SC of a fabric address (R117, R119) -/
  | lr (size : Nat)
  | sc (bytes : List Byte) (poison : Bool)
  deriving DecidableEq, Repr

/-- Where the value of an access goes. -/
inductive AccDst where
  | none
  | v (reg : Nat) (count : Nat) (dlt : Nat) (nwb : Bool) (tag : BitVec 8)   -- absolute register; dlt 4 is no latch
  | s (reg : Nat) (count : Nat)
  | cvt (reg fmt dt : Nat) (scale : PWord) (dlt : Nat) (tag : BitVec 8)   -- an LDX group (R194)
  /-- the scale byte of a lane of LDX or STX in the fabric aperture, by its VA (R180) -/
  | scale (va : Nat)
  deriving DecidableEq, Repr

/-- The words of an instruction as a trap record and %ow3, %ow4 hold them (R350, R358). -/
structure Raw where
  w0 : DWord := 0
  w1 : Word := 0
  w2 : Word := 0
  deriving DecidableEq, Repr

/-- A lane of a remote instruction that failed (R109, R126). -/
structure RemoteFail where
  lane : Nat
  cause : Cause
  fva : DWord := 0
  syn : Option Syndrome := none
  deriving DecidableEq, Repr

/-- The instruction that made an access, for the record of a fault it meets when it is performed (R115). -/
structure Site where
  pc : DWord := 0
  nextPc : DWord := 0
  raw : Raw := {}
  lanes : BitVec 32 := 0
  deriving DecidableEq, Repr

/-- One access of a fibre in flight (R137). -/
structure Access where
  id : Nat
  lane : Nat
  core : Nat
  addr : Nat
  kind : AccKind
  dst : AccDst := .none
  /-- the status predicate of a `.ST` form -/
  sq : Option Nat := none
  /-- the word may be held in the L1 of the core (R129) -/
  cached : Bool := true
  site : Site := {}
  /-- the accesses of one instruction share this number -/
  grp : Nat := 0
  /-- a word of a clean store that writes whole check units: the unit's poison goes with its last word (R39, log 11) -/
  whole : Bool := false
  /-- a fabric address: the VDN and the offset (R28); the clock of the send and whether it was sent a second time -/
  remote : Option (Nat × Nat) := none
  sentAt : Nat := 0
  again : Bool := false
  /-- the request has not left its source: it waits for an answer to the line (R459), for allowance or for a port (R495) -/
  held : Bool := false
  /-- the effective address -/
  ea : DWord := 0
  /-- a group that crosses into another page (R181): what is still to be asked of peers, the bytes of it that are there already, whether
  they are poisoned, and those that follow the last answer's -/
  more : List (Nat × Nat × AccKind) := []
  got : List Byte := []
  gotBad : Bool := false
  tail : List Byte := []
  deriving DecidableEq, Repr

/-- An instruction of which some lanes consumed poison, and which has not completed (R115, R123): its number, and its record. -/
structure Late where
  grp : Nat
  site : Site
  deriving DecidableEq, Repr

/-- A reservation (R117). -/
structure Resv where
  line : Nat
  addr : Nat
  size : Nat
  deriving DecidableEq, Repr

/-! ### Trap unit (R349 to R355) -/

/-- How the holder of a record goes on when it is answered (R355). -/
inductive Resume where
  | reissue            -- RETRY issues again; SKIP goes to the next PC
  | afterDone          -- POISON after completion: RETRY acts as SKIP
  | fetch              -- steps 1 to 4 of R58: SKIP acts as ABANDON
  | inPlace            -- BAR_OVERFLOW of an arrival, POISON of an atomic in flight: RETRY and SKIP resume in place
  | trapUser           -- continues after TRAP
  | hostcall (dst : Nat)
  | copy (cmd : Nat)
  | nothing            -- no answer needed
  deriving DecidableEq, Repr

/-- A trap record (R350) without its SEQ, and what the model keeps with it: the function, the holder and the syndrome. -/
structure TrapRec where
  id : Nat := 0
  fn : Nat := 0
  cause : Cause := .none
  ans : Bool := false
  def_ : Bool := false
  kind : Nat := 0
  depth : Nat := 0
  lane : Nat := 0
  pc : DWord := 0
  fva : DWord := 0
  iw0 : DWord := 0
  iw1 : Word := 0
  iw2 : Word := 0
  blk : Nat := 0
  wave : Nat := 0
  obj : BitVec 8 := 0
  aux : DWord := 0
  fmask : BitVec 32 := 0
  aux2 : Word := 0
  resume : Resume := .nothing
  syn : Option Syndrome := none
  /-- the next sequential PC of the named instruction -/
  nextPc : DWord := 0
  /-- produced by a wave: it is never dropped (R354) -/
  byWave : Bool := true
  /-- the issuing batch's members, for SKIP -/
  members : BitVec 32 := 0
  /-- the block in the model's table -/
  blkId : Nat := 0
  /-- the trap ring was full or disabled when it was raised: the wave stalls on the ring (R42, R354) -/
  stalled : Bool := false
  deriving DecidableEq, Repr

/-- A record that host software has yet to answer (R355): its SEQ and where it lies. -/
structure WaitingRec where
  seq : Word
  addr : Nat
  record : TrapRec
  /-- a stage-2 fault record: only S2ANS answers it (R408) -/
  stage2 : Bool
  deriving DecidableEq, Repr

/-! ### Sync unit (R201 to R209) -/

/-- Who contributes to a barrier (R202). -/
inductive ContribBy where
  /-- a command, or the stream's MARRIVE -/
  | command
  /-- ARRIVE or ARRIVEX of a wave -/
  | arrive (wave : Nat) (site : Site)
  /-- SMV or SMVB of a wave, with its command (R281) -/
  | stack (wave : Nat) (site : Site) (cmd : Nat)
  deriving DecidableEq, Repr

/-- A contribution that has not reached its barrier (R202, R212). -/
structure Contrib where
  source : ContribBy := .command
  arrivals : Nat := 0
  add : Nat := 0
  sub : Nat := 0
  /-- the wave's accesses that are performed before it arrives (R212) -/
  before : List Nat := []
  /-- an instruction of the matrix stream made it (R258, R268) -/
  stream : Bool := false
  deriving DecidableEq, Repr

/-- A named barrier (R201). -/
structure Bar where
  bytes : Nat := 0
  exp : Nat := 1
  arr : Nat := 0
  phase : Bool := false
  psn : Bool := false
  v : Bool := true
  ecause : Cause := .none
  /-- contributions on their way, oldest first -/
  pend : List Contrib := []
  deriving DecidableEq, Repr

/-- A slot of a ring: ST 0 FREE, 1 PRODUCING, 2 FILLED, 3 CONSUMING (R205). -/
structure Slot where
  st : Nat := 0
  lap : Bool := false
  err : Bool := false
  deriving DecidableEq, Repr

/-- Who waits at an end of a ring (R216, R225, R258). -/
inductive RingWaiter where
  | wave (wave wait : Nat)
  | cmd (id : Nat)
  | stream
  deriving DecidableEq, Repr

/-- A stage ring (R205). -/
structure Ring where
  base : Nat := 0
  lsz : Nat := 6
  ns : Nat := 1
  head : Nat := 0
  tail : Nat := 0
  hlap : Bool := false
  tlap : Bool := false
  be : Bool := false
  v : Bool := false
  bb : Nat := 0
  slots : Tab Slot := []
  /-- waiters at TAIL and at HEAD, first first -/
  pushers : List RingWaiter := []
  poppers : List RingWaiter := []
  deriving DecidableEq, Repr

/-! ### Copy engine (R223 to R248) -/

/-- An address operand of a command (R233). -/
inductive CopyAddr where
  | va (a : DWord)
  | loc (off : Nat)
  deriving DecidableEq, Repr

/-- A tensor layout record with the coordinates, as CPYT read them (R232). -/
structure Layout where
  base : DWord := 0
  fmt : Nat := 0
  ndim : Nat := 1
  swz : Nat := 0
  pad : Nat := 0
  fill : Word := 0
  sizes : List Nat := []
  strides : List Nat := []
  boxes : List Nat := []
  coords : List Int := []
  /-- CPYT.ST -/
  store : Bool := false
  deriving DecidableEq, Repr

/-- What a command reports on (R231, R237, R238). -/
inductive CopyRep where
  | token (wave k batch : Nat)
  | bar (b : Nat)
  | ring (c : Nat)
  deriving DecidableEq, Repr

/-- Where a command is (R224, R225, R244). -/
inductive CopyAt where
  | waitsRing
  | waitsEntry
  /-- in the queue, on an entry reserved for a role or a shared one -/
  | queued (role : Option Nat)
  | suspended
  deriving DecidableEq, Repr

/-- A copy command (R223, R227). -/
structure CopyCmd where
  wave : Nat := 0
  role : Option Nat := none
  pc : DWord := 0
  src : CopyAddr := .loc 0
  dst : CopyAddr := .loc 0
  len : Nat := 0
  tensor : Option Layout := none
  rep : CopyRep := .bar 0
  /-- the slot a ring command fills -/
  slot : Option Nat := none
  /-- 0 CPY, 1 CPYT.LD, 2 CPYT.ST, 3 CPYR, 4 CPYS (R447); the layout record's VA and its bits as read -/
  kind : Nat := 0
  lrec : DWord := 0
  lay : Nat := 0
  /-- CPYS.FREE: the ring and the slot it returns -/
  frees : Option (Nat × Nat) := none
  stage : CopyAt := .waitsEntry
  flight : List Nat := []
  counted : List Nat := []
  deriving DecidableEq, Repr

/-- A copy token (R231). -/
structure Token where
  nb : Nat := 0
  cb : Nat := 65535
  open_ : Nat := 0
  out : Nat := 0
  err : Bool := false
  ecause : Cause := .none
  /-- the first error of batches not yet reported -/
  errs : Tab Cause := []
  deriving DecidableEq, Repr

/-- A copy bucket or pool (R246): levels in 1/64 byte. -/
structure Bucket where
  rate : Nat := 64
  depth : Nat := 4096
  level : Nat := 67108864
  debt : Nat := 0
  deriving DecidableEq, Repr

/-! ### Matrix stream (R249 to R275) -/

/-- A held slot of the stream (R249). -/
structure HeldSlot where
  slot : Nat
  lap : Bool
  producing : Bool
  /-- ERR of the slot at the pop (R258) -/
  err : Bool := false
  deriving DecidableEq, Repr

/-- What the stream waits for (R249). -/
inductive StreamWait where
  | bar (b : Nat) (parity : Bool) (raw : Raw)
  | ring (c : Nat) (push : Bool)
  deriving DecidableEq, Repr

/-- An encoding of the stream that its handler is to serve (R251). -/
structure StreamEmul where
  opc : BitVec 8
  enc : Enc
  raw : Raw
  disabled : Bool
  nextPc : DWord
  /-- the proxy wave runs the handler -/
  running : Option Nat := none
  deriving DecidableEq, Repr

/-- The matrix stream of a block (R249). -/
structure Stream where
  pc : DWord := 0
  n : Tab Word := []
  mwb : DWord := 0
  held : Tab HeldSlot := []
  mstat : Word := 0
  tilePoison : BitVec 32 := 0
  wait : Option StreamWait := none
  emul : Option StreamEmul := none
  ended : Bool := false
  stopped : Option TrapRec := none
  deriving DecidableEq, Repr

/-! ### Stack engine (R276 to R289) -/

/-- A weight descriptor (R277). -/
structure Desc where
  wbase : DWord := 0
  rows : Nat := 1
  kg : Nat := 1
  pitch : Nat := 1
  fmt : Nat := 8
  deriving DecidableEq, Repr

/-- A stack command (R280, R281): what it took at issue, its results so far and the units counted. -/
structure StackCmd where
  wave : Nat := 0
  slot : Nat := 0
  pc : DWord := 0
  desc : Desc := {}
  acc : Bool := false
  sat : Bool := false
  r0 : Nat := 0
  n : Nat := 1
  nv : Nat := 1
  roff : Nat := 0
  bar : Nat := 0
  /-- the acting vectors (R278) -/
  vecs : List Byte := []
  /-- the poisoned ones -/
  vecsBad : List Nat := []
  /-- the result words at issue, under ACC -/
  start : List PWord := []
  running : Bool := false
  /-- results by index -/
  results : Tab PWord := []
  /-- units counted -/
  units : List Nat := []
  deriving DecidableEq, Repr

/-! ### Task engine (R290 to R309) -/

/-- The ordered part of a task: its domain and timestamp (R317). -/
structure OrdKey where
  dom : Nat
  ts : DWord
  deriving DecidableEq, Repr

/-- A future that an operation names (R297): its guest PA, by which its home keeps what is parked on it, and its host address and its home
when it was translated (log 153). -/
structure FutRef where
  gpa : Nat
  addr : Nat
  home : Nat
  deriving DecidableEq, Repr

/-- The record of a parked continuation (R294, R298): the future it is parked on, and the core whose queue, or overflow area, holds it. -/
structure ParkRec where
  gpa : Nat
  core : Nat
  overflow : Bool := false
  deriving DecidableEq, Repr

/-- A task record (R290 to R296): queued, running (kept by its block) or carried by a continuation. -/
structure Task where
  id : Nat := 0
  fn : Nat := 0
  /-- the footprint word g+0 -/
  foot : Word := 0
  entry : DWord := 0
  arg : DWord := 0
  /-- the affinity address, unless NOAFF -/
  aff : Option DWord := none
  /-- the spawn serial -/
  serial : Word := 0
  depth : Nat := 0
  /-- s4:s5, s6:s7 and s8 of a continuation -/
  val1 : DWord := 0
  val1Poison : Bool := false
  val2 : DWord := 0
  val2Poison : Bool := false
  stWord : Word := 0
  ord : Option OrdKey := none
  /-- returned to its queue marked serial (R324) -/
  serialOnly : Bool := false
  /-- ABR and ABORTS of R344 -/
  abr : Nat := 0
  aborts : Nat := 0
  /-- the task that spawned it and has not committed (R320, R322) -/
  parent : Option Nat := none
  /-- the physical core whose queue it belongs to -/
  core : Nat := 0
  /-- it lies in the overflow area (R294) -/
  overflow : Bool := false
  /-- the clock at which it was queued, and how often it was passed over (R295, R296) -/
  queuedAt : Nat := 0
  passed : Nat := 0
  /-- it has been queued for the ageing interval (R296) -/
  stealable : Bool := false
  /-- the records whose values a released continuation took, for the image (R448) -/
  took : List FutRef := []
  /-- the clock of the placement of the launch that it comes from (R48) -/
  codeFrom : Nat := 0
  deriving DecidableEq, Repr

/-- A continuation parked on one or two futures (R298). -/
structure Cont where
  task : Task
  count : Nat
  /-- the futures it names -/
  futures : List FutRef
  /-- the records of it that are still parked -/
  waits : List ParkRec
  /-- released, and waiting at its home for room in the overflow area (R294) -/
  stuck : Option Nat := none
  deriving DecidableEq, Repr

/-! ### Dispatcher (R370 to R393) -/

/-- A launch queue (R370).  `count` is CNT before it is reduced; `bad` holds after a notify with a bad index (R421). -/
structure Queue where
  base : DWord := 0
  /-- LSIZE resets to 4 -/
  ctl : Word := 8
  rd : Nat := 0
  wr : Nat := 0
  count : Nat := 0
  bad : Bool := false
  deriving DecidableEq, Repr

/-- A launch that has not completed (R372 to R379). -/
structure Launch where
  fn : Nat := 0
  ticket : Word := 0
  /-- the 256 bytes of the record as a number (R373) -/
  record : Nat := 0
  /-- some byte, or some byte of CPLT, was poisoned -/
  bad : Bool := false
  badCplt : Bool := false
  /-- the ring table (R375) -/
  rings : List Word := []
  /-- R376 has been checked -/
  checked : Bool := false
  /-- the linear index of the next block, and the discarded ones that go ahead of it (R380) -/
  next : Nat := 0
  again : List Nat := []
  /-- some block was ended by ABANDON (R379) -/
  abandoned : Bool := false
  /-- the clock at which its first block was placed (R48) -/
  firstAt : Option Nat := none
  deriving DecidableEq, Repr

/-! ### Speculation engine (R310 to R348) -/

/-- A held operation of a unit (R334). -/
inductive Held where
  /-- a resolution: its PC, the future's VA, the future, ST, VAL and its poison -/
  | resolve (pc va : DWord) (fut : FutRef) (st : Nat) (val : DWord) (poison : Bool)
  | fnew (fut : FutRef)
  /-- a registration on futures -/
  | await (task : Task) (futures : List FutRef)
  | spawn (task : Task)
  deriving DecidableEq, Repr

/-- A speculative version of a 32-byte granule (R313): the unit, the granule, and the bytes written. -/
structure Version where
  sid : Nat
  gran : Nat
  bytes : Tab Byte := []
  poison : Bool := false
  /-- the core whose version area holds it, and the home whose directory names it -/
  core : Nat := 0
  home : Nat := 0
  deriving DecidableEq, Repr

/-- What a unit read of a granule (R319): the versions that served bytes (their SID, none once it has committed, and their key), and
whether the committed value did. -/
structure SpecRead where
  gran : Nat
  /-- the home whose directory holds the reader -/
  home : Nat := 0
  srcs : List (Option Nat × Option Nat) := []
  committed : Bool := false
  deriving DecidableEq, Repr

/-- A speculative unit (R311). -/
structure SpecUnit where
  fn : Nat := 0
  blk : Nat := 0
  wave : Nat := 0
  /-- KEY and domain of an ordered task -/
  ord : Option OrdKey := none
  task : Option Task := none
  /-- DEP0 to DEP3: the SIDs of the valid entries -/
  deps : Tab Nat := []
  anc : DWord := 0
  depth : Nat := 0
  reads : List SpecRead := []
  deferred : Option TrapRec := none
  /-- the clock since which the wave is parked on the deferred fault (R42) -/
  deferredAt : Nat := 0
  held : List Held := []
  /-- the clock at which the access that is stalled on an edge stalled first (R328) -/
  stalledAt : Option Nat := none
  /-- the frontier task would have been aborted: it is promoted (R324) -/
  owed : Bool := false
  /-- Retry: the PC after RBEGIN, its predicate number, and the emulation depth there -/
  retryPc : DWord := 0
  retryQ : Nat := 0
  retryDepth : Nat := 0
  /-- the window base at RBEGIN -/
  retryBase : Nat := 0
  /-- the fibres live at the outermost RBEGIN -/
  fibres : BitVec 32 := 0
  /-- an ordered task whose wave has ended (R321) -/
  finished : Bool := false
  /-- a region that waits at REND (R329); it ends its wave when it has committed (EXIT, R334) -/
  atRend : Bool := false
  exits : Bool := false
  deriving DecidableEq, Repr

/-- An ordered domain (R316).  FRONT and UNF follow from the tasks; here is what was last published (R321). -/
structure Domain where
  open_ : Bool := false
  /-- FLOOR; none is the none flag -/
  floor : Option Nat := none
  pubFront : Nat := 2 ^ 96 - 1
  deriving DecidableEq, Repr

/-- The wave's speculation status that outlives its units (R331, R344). -/
structure SpecWave where
  /-- the SID of the wave's open unit -/
  sid : Option Nat := none
  nest : Nat := 0
  /-- the wave holds the serial token (R331) -/
  serial : Bool := false
  /-- an ordered task that was promoted (R324) -/
  promoted : Bool := false
  abr : Nat := 0
  aborts : Nat := 0
  deriving DecidableEq, Repr

/-! ### Fabric engine (R456 to R477) -/

/-- A function of a module (R456). -/
structure Triple where
  grp : Nat := 0
  mem : Nat := 0
  func : Nat := 0
  deriving DecidableEq, Repr

/-- What a message carries its bytes to (R460, R464, R466). -/
inductive MsgTo where
  /-- a receive window: its number, the generation the sender named, and the offset -/
  | window (win gen off : Nat)
  /-- the reply to a GET: the message it answers -/
  | reply (msg : Nat)
  /-- a contribution or a result of a collective: its agreement key (R466), the sender's rank, the phase and the byte offset -/
  | coll (cid : Nat) (key : List Nat) (rank phase off : Nat)
  deriving DecidableEq, Repr

/-- What a packet asks or answers (R481). -/
inductive Body where
  | read (n : Nat)
  | write (bytes : List Byte) (poison : Bool)
  | atomic (aop n : Nat) (op op2 : DWord) (p1 p2 : Bool)
  /-- LR and SC of a wave of the source (R117, R119) -/
  | lr (n who : Nat)
  | sc (bytes : List Byte) (poison : Bool) (who : Nat) (holds : Bool)
  /-- a code of R109 with the value -/
  | response (code : Nat) (bytes : List Byte) (poison : Bool)
  /-- one packet of a message (R460): its length, its place in the message, its bytes and their poison -/
  | msg (dest : MsgTo) (total index : Nat) (bytes : List Byte) (poison : Bool)
  /-- the request of a GET and of a FADD64 (R464) -/
  | get (win gen off total : Nat)
  | fadd (win gen off : Nat) (opnd : DWord)
  | msgAck (code : Nat) (old : DWord)
  /-- the packets counted so far (R461) -/
  | bitmap (got : List Nat)
  | mark | markAck | markRelease
  | rebind (old new : Triple)
  | rebindAck
  | peerReset
  | moved (new : Triple)
  | allow (n : Nat)
  /-- Foehn's messages (R433, R434, R440, R439): the partner's request and answer, a piece of a block, of the image, and a session's
  outcome, 1 to restore -/
  | ask (logical : List (Nat × Bool))
  | answer (ok : Bool)
  | block (gpa : Nat) (bytes : List Byte) (poison : Bool)
  | blockAck (gpa : Nat)
  | image (total : Nat) (bytes : List Byte)
  | imageAck (ok : Bool)
  | told (outcome : Nat)
  /-- the ARM request of an eviction and its answer: 0 armed, 1 busy, 2 refused (R512) -/
  | arm (func : Nat)
  | armAns (code func : Nat)
  /-- KIND 13 or 14, or data that no other form describes -/
  | unknown
  deriving DecidableEq, Repr

/-- A packet (R481). -/
structure Packet where
  dst : Triple := {}
  src : Triple := {}
  tc : Nat := 0
  /-- intermediate group of a non-minimal route -/
  igrp : Option Nat := none
  /-- ticks of 128 µs spent in other modules (R488) -/
  age : Nat := 0
  seq : Nat := 0
  addr : Nat := 0
  msgid : Nat := 0
  body : Body := .unknown
  /-- the route class and mode its source chose (R457, R461) -/
  rcls : Nat := 0
  spray : Bool := false
  /-- it has not left its source; hops it has made; the clock at which it reached this module -/
  fresh : Bool := true
  hops : Nat := 0
  since : Nat := 0
  deriving DecidableEq, Repr

/-- A send allowance of a channel (R487). -/
structure Channel where
  func : Nat
  dst : Triple
  tc : Nat
  units : Nat := 256
  deriving DecidableEq, Repr

/-- A receive window (R463) with the clocks at which its generation entered each half. -/
structure Window where
  base : DWord := 0
  len : Nat := 0
  ctr : Nat := 0
  gen : Nat := 0
  valid : Bool := false
  loAt : Option Nat := none
  hiAt : Option Nat := none
  deriving DecidableEq, Repr

/-- A posted record (R464): the 512 bits, THR once it is armed, and the wave that posted it. -/
structure WorkRec where
  slot : Nat := 0
  record : Nat := 0
  thr : Option DWord := none
  blk : Nat := 0
  wave : Nat := 0
  deriving DecidableEq, Repr

/-- A list of records in post order, with the next slot and the slots' generations (R465). -/
structure WorkList where
  tail : Nat := 0
  recs : List WorkRec := []
  gens : Tab Nat := []
  deriving DecidableEq, Repr

/-- A message, GET or FADD64 under way at its source (R460, R461, R464). -/
structure OutMsg where
  id : Nat := 0
  fn : Nat := 0
  dst : Triple := {}
  vdn : Nat := 0
  /-- the fired record and its handle; none for a collective's message or a GET's reply -/
  record : Option Nat := none
  handle : Nat := 0
  blk : Nat := 0
  wave : Nat := 0
  cid : Option Nat := none
  pkts : List Packet := []
  total : Nat := 0
  firstAt : Option Nat := none
  /-- the clock of the last send of each packet -/
  lastAt : Tab Nat := []
  acked : List Nat := []
  /-- its entry has been rewritten and the message sent a second time (R459) -/
  again : Bool := false
  /-- the outcome (R109) -/
  code : Option Nat := none
  deriving DecidableEq, Repr

/-- A message on its way in (R460). -/
structure InMsg where
  src : Triple := {}
  fn : Nat := 0
  id : Nat := 0
  /-- its length -/
  total : Nat := 0
  got : List Nat := []
  bytes : Nat := 0
  /-- bitmaps returned, and the clock of the last -/
  acks : Nat := 0
  since : Nat := 0
  /-- complete or ended by DENIED -/
  done : Bool := false
  deriving DecidableEq, Repr

/-- A collective that has not completed (R466). -/
structure Coll where
  op : Nat := 0
  record : Nat := 0
  peers : List Nat := []
  blk : Nat := 0
  wave : Nat := 0
  /-- 0 scatter, 1 combined, 2 gathered (R477) -/
  phase : Nat := 0
  /-- bytes that have come of each rank's scatter and gather contribution -/
  got : Tab Nat := []
  got2 : Tab Nat := []
  sent : Nat := 0
  status : Option Nat := none
  deriving DecidableEq, Repr

/-- The packets of a pair and class that a receiver remembers, newest first (R461). -/
structure Seen where
  src : Triple
  dst : Nat
  tc : Nat
  nums : List Nat := []
  deriving DecidableEq, Repr

/-- A reservation of another module's wave at a home here (R117). -/
structure RemoteResv where
  src : Triple
  who : Nat
  line : Nat
  addr : Nat
  size : Nat
  deriving DecidableEq, Repr

/-! ### Port engine (R478 to R498) -/

/-- The states of a port (R492, R493). -/
inductive PortSt where
  | down | lock | summary | active | draining | quiet | mismatch | failed
  deriving DecidableEq, Repr

/-- A sequenced flit that is not acknowledged (R485): FSEQ, TYPE DRAIN, VC and payload. -/
structure SentFlit where
  fseq : Nat
  drain : Bool
  vc : Nat
  payload : List Byte
  sentAt : Nat
  deriving DecidableEq, Repr

/-- A key and its last generation (R491). -/
structure PortKey where
  kid : Nat := 0
  secret : List Byte := []
  lastgen : Nat := 0
  deriving DecidableEq, Repr

/-- One direction's key, salt and counter (R482, R483). -/
structure Crypt where
  key : List Byte := []
  salt : List Byte := []
  count : Nat := 0
  deriving DecidableEq, Repr

/-- A port (R492, R493). -/
structure Port where
  /-- MINW resets to 2 -/
  pctl : DWord := 0x80
  ppeer : DWord := 0
  state : PortSt := .down
  tries : Nat := 0
  width : Nat := 0
  mcode : Nat := 0
  kid : Nat := 0
  kgen : Nat := 0
  perr : DWord := 0
  pkey : Tab DWord := []
  current : PortKey := {}
  pending : Option PortKey := none
  /-- the clock of the state's entry and of the write of RECONF -/
  stateAt : Nat := 0
  reconfAt : Nat := 0
  /-- the lanes with FEC lock -/
  lock : BitVec 32 := 0
  /-- the partner's summary; summaries sent; own START sent and the partner's received -/
  partner : Option (List Byte) := none
  summaries : Nat := 0
  startSent : Bool := false
  startGot : Bool := false
  tx : Crypt := {}
  rx : Crypt := {}
  /-- packets of each VC that have not started; bytes of a started packet to send; bytes received of a packet not yet whole -/
  txq : Tab (List Packet) := []
  txBytes : Tab (List Byte) := []
  rxBytes : Tab (List Byte) := []
  /-- flits in sequence: sent and not acknowledged, oldest first; the next FSEQ; those to send again -/
  sent : List SentFlit := []
  fseq : Nat := 0
  again : List Nat := []
  /-- replays since ACK advanced, and the ACK last replayed for with its clock -/
  replays : Nat := 0
  nakFor : Option (Nat × Nat) := none
  /-- E, and the receiver waits for a replay -/
  expect : Nat := 0
  waiting : Bool := false
  /-- VCs the partner paused, and the clock of the last intact slot -/
  paused : BitVec 8 := 0
  intactAt : Nat := 0
  silent : Bool := false
  /-- slots received, and those whose tag failed with a good CRC (R484) -/
  slots : Nat := 0
  tagFails : List Nat := []
  drainSent : Bool := false
  drainGot : Bool := false
  /-- the last slot sent -/
  out : List Byte := []
  deriving DecidableEq, Repr

/-! ### Migration engine (R429 to R455) -/

/-- A session's state (R432). -/
inductive MgState where
  | idle | round | drain | save | ship | rebind | forward | receiving | restore
  deriving DecidableEq, Repr

/-- A Foehn session (R432). -/
structure Session where
  mgctl : DWord := 0
  /-- SHARE 16, MAXR 8, THRATE 64 -/
  mgshr : DWord := 0x00400810
  mgsave : DWord := 0
  state : MgState := .idle
  round : Nat := 0
  outcome : Nat := 0
  abandons : Nat := 0
  dcnt : Nat := 0
  bytes : Nat := 0
  blackout : Nat := 0
  drainUs : Nat := 0
  /-- LULL was written during the round -/
  lull : Bool := false
  /-- the partner has accepted -/
  joined : Bool := false
  /-- the guest PA from which the round goes on; blocks sent and not acknowledged -/
  nextGpa : Nat := 0
  flight : List Nat := []
  /-- the 4 KiB blocks whose bits went from 0 to 1 in this round, once for each change by a write tagged with the function (R434) -/
  changed : List Nat := []
  throttled : Bool := false
  /-- clocks of the entry to DRAIN, SAVE, REBIND and FORWARD -/
  drainAt : Nat := 0
  stateAt : Nat := 0
  /-- channels that owe a MARK_ACK, and peers that owe a REBIND acknowledgement -/
  marks : List (Triple × Nat) := []
  rebinds : List Triple := []
  /-- the image as saved, its poison and its acknowledgement -/
  image : List Byte := []
  imageAcked : Bool := false
  deriving DecidableEq, Repr

/-- A function that has moved away (R452): its new triple, and the clock at which forwarding ends. -/
structure Moved where
  fn : Nat
  new : Triple
  until_ : Nat
  deriving DecidableEq, Repr

/-! ### Management (R499 to R512) -/

/-- A log slot (R508, R509). -/
structure Elog where
  elogs : DWord := 0
  eloga : DWord := 0
  einj : DWord := 0
  einja : DWord := 0
  deriving DecidableEq, Repr

/-- The states of the eviction handshake (R510). -/
inductive EvState where
  | idle | migrate | drain | safe | failed
  deriving DecidableEq, Repr

/-- The management controller and the module's own registers. -/
structure Mgmt where
  powered : Bool := false
  powerAt : Nat := 0
  /-- the fallback binding of R499 -/
  smbus : Bool := false
  i3cStarted : Bool := false
  rdy0 : DWord := 0
  rdy1 : DWord := 0
  rdy2 : DWord := 0
  /-- PWR, TJ and T of R505; PWRCAP -/
  pwr : Nat := 0
  tj : Nat := 0
  throttle : Nat := 0
  pwrcap : DWord := 5000
  /-- core power has been removed (R507) -/
  tripped : Bool := false
  elog : Tab Elog := []
  /-- EVICTCTL.SAVE, the handshake's state and the clock of GO; functions moved, and those under way with their sessions -/
  save : Nat := 0
  ev : EvState := .idle
  goAt : Nat := 0
  evlist : Tab DWord := []
  done : List Nat := []
  /-- function, session, and the clock of the last ARM request -/
  arming : List (Nat × Nat × Nat) := []
  /-- outcome slots as numbers of 256 bits (R503) -/
  outA : Nat := 0
  outB : Nat := 0
  /-- the firmware images in use, by number (R500) -/
  firmware : Tab (List Byte) := []
  /-- the SPDM session: what has been asked, in order, and the answers given (R500) -/
  spdm : List Nat := []
  answers : List (List Byte) := []
  /-- the Limpador ports taken down (R37) -/
  hostDown : BitVec 2 := 0
  deriving DecidableEq, Repr

/-! ### Waits (R42) -/

/-- Why lanes are blocked. -/
inductive Why where
  /-- an access stalled on an edge (R328), a task's on the regions `on` (R332); it issues again -/
  | edge (on : List Nat)
  /-- until promoted (R324); the instruction issues again -/
  | promote
  /-- TDEFER: the clock of the limit, if any, and q -/
  | tdefer (limit : Option Nat) (q : Nat)
  /-- REND waits to commit (R329) -/
  | rend
  /-- RBEGIN waits for a SID and a core place (R310) -/
  | admission
  /-- RBEGIN waits for the serial token (R331) -/
  | token
  /-- WAITB: the barrier and the parity (R213) -/
  | waitb (b : Nat) (parity : Bool)
  /-- RPUSH and RPOP: the ring and the end (R216) -/
  | ringEnd (c : Nat) (push : Bool)
  /-- a ring copy whose ring's wait list is full (R225); it issues again -/
  | ringRoom (c : Nat)
  /-- WAITK: the mask, and NB of each token at issue (R241) -/
  | waitk (mask : Nat) (nbs : Tab Nat)
  /-- an ordered task that was dispatched without a SID or a core place (R310) -/
  | admitTask
  /-- GANGWAIT.W: the ticket and the clock of its limit (R391) -/
  | gang (ticket limit : Nat)
  /-- a posted HOSTCALL waits until its record is produced, stalled on a full or disabled ring or not (R354, R368) -/
  | record (id : Nat) (stalled : Bool)
  /-- CNTWAIT: the counter, the target and the clock of its limit (R474) -/
  | cnt (ctr : Nat) (target : DWord) (limit : Nat)
  /-- FFENCE (R473) -/
  | ffence
  /-- WAITW: the lanes that have seen no differing value, and those that consumed poison (R123) -/
  | waitw (left bad : BitVec 32)
  /-- remote lanes without an outcome, and the causes of those that failed (R459) -/
  | remote (left : BitVec 32) (fails : List RemoteFail)
  deriving DecidableEq, Repr

/-- Lanes that blocked in one issue and resume together (R75). -/
structure Park where
  lanes : BitVec 32
  why : Why
  enc : Enc
  /-- the lanes the guard held in -/
  acting : BitVec 32
  nextPc : DWord
  since : Nat := 0
  deriving DecidableEq, Repr

/-- A wave (R15, R72, R73). -/
structure Wave where
  /-- %wave -/
  idx : Nat := 0
  role : Role := .vector
  /-- the wave belongs to a declared role, whose number it is -/
  roleNo : Option Nat := none
  /-- %stage -/
  stage : Nat := 0
  /-- %tstamp -/
  tstamp : DWord := 0
  /-- declared window W -/
  window : Nat := 8
  /-- emulation window E; 0 when the wave has none (R356) -/
  emWindow : Nat := 0
  emdepth : Nat := 0
  lanes : Tab Lane := []
  /-- v registers: key register × 32 + lane -/
  v : Tab PWord := []
  s : Tab PWord := []
  masks : Tab (BitVec 32) := []
  arrived : Tab (BitVec 32) := []
  forkSerial : Word := 0
  joinlost : Word := 0
  fpctl : Word := 0
  ow : Tab Word := []
  /-- oldest-waiting batch first (R77) -/
  batches : List Batch := []
  /-- issues of other batches since the first batch became the oldest-waiting one (R77) -/
  others : Nat := 0
  frames : List Frame := []
  /-- instructions counted for WATCHDOG (R362) -/
  wdCount : Nat := 0
  waits : Tab Park := []
  nextWait : Nat := 0
  acc : List Access := []
  doneMask : BitVec 32 := 0
  /-- the number of the instruction that each lane of the done-mask is done with -/
  doneGrp : Tab Nat := []
  /-- poison consumed by instructions that have not completed (R115) -/
  late : List Late := []
  resv : Option Resv := none
  /-- a reservation at a peer's home (R117): the VDN, the offset and the size -/
  rresv : Option (Nat × Nat × Nat) := none
  /-- the lanes and the record of a fault the wave is stopped on -/
  stopped : Option TrapRec := none
  /-- the number of the next memory instruction -/
  nextGrp : Nat := 0
  /-- scales that peers have answered, by lane, with their VAs, for the LDX or STX that asked (R180) -/
  scales : Tab (Nat × PWord) := []
  parked : Bool := false
  /-- every fibre has ended (R87) -/
  ended : Bool := false
  /-- evicted at a blocking point (R383) -/
  evicted : Bool := false
  /-- the lines that WAITWs of an evicted wave watch; none once one of them is written (R123) -/
  watch : List Nat := []
  spec : SpecWave := {}
  /-- k0 to k7 (R231) -/
  tokens : Tab Token := []
  /-- D0 to D3, those loaded (R277, R288) -/
  descs : Tab Desc := []
  /-- generations of the tag slots (R280) -/
  tagGen : Tab Nat := []
  /-- the input ring of an elastic wave (R382) -/
  elastic : Option Nat := none
  deriving DecidableEq, Repr

/-- A block, or a task, which is a block of one wave (R16, R22). -/
structure Block where
  fn : Nat := 0
  /-- the physical core where the block is resident -/
  core : Option Nat := none
  /-- BLK, the block handle (R350) -/
  handle : Nat := 0
  ticket : Word := 0
  x : Nat := 0
  y : Nat := 0
  z : Nat := 0
  nblk : Nat := 1
  waves : Tab Wave := []
  /-- bytes of scratch, and where the allocation starts in the core's slice -/
  scratch : Nat := 0
  scrBase : Nat := 0
  /-- the bytes of a saved block's scratch (offset and byte) and its poisoned granules -/
  image : List Cell := []
  imagePoison : List Nat := []
  /-- a save is under way (R355, R384) -/
  saving : Bool := false
  /-- trap records that hold the block, by record id -/
  holds : List Nat := []
  /-- answers that arrived while the block was being saved (R355): record and action -/
  answers : List (TrapRec × Nat × DWord) := []
  abandoned : Bool := false
  /-- saved by a reclaim or a slice end: it goes to the head of the restore queue (R386) -/
  toHead : Bool := false
  /-- idempotent-clean (R385) -/
  clean : Bool := false
  /-- the task that runs as this block (R22) -/
  task : Option Task := none
  /-- NBAR and NRING (R16) -/
  nbar : Nat := 0
  nring : Nat := 0
  bars : Tab Bar := []
  rings : Tab Ring := []
  /-- copy commands by number -/
  copies : Tab CopyCmd := []
  stream : Option Stream := none
  /-- the 2,048 words of each tile, row by row (R257); a tile not listed holds zeros (log 6) -/
  tiles : Tab (List Word) := []
  /-- the poisoned 8-byte units of the accumulator memory (R37) -/
  tileBad : List Nat := []
  /-- stack commands by number -/
  stackCmds : Tab StackCmd := []
  /-- phase number, variant choice (size and variant) and estimate in µs with its clock (R389, R390) -/
  phase : Word := 0
  choice : Option (Word × Option Nat) := none
  estimate : Option (Nat × Nat) := none
  /-- the clock of the placement, and the clock ticks of earlier residency (R384, R393) -/
  placedAt : Nat := 0
  /-- the clock of the placement of the launch that runs its code (R48) -/
  codeFrom : Nat := 0
  residency : Nat := 0
  /-- EXPDUR of its launch (R384) -/
  expdur : Nat := 0
  /-- the clock by which its save must have ended (R384) -/
  saveBy : Option Nat := none
  deriving DecidableEq, Repr

/-- A physical core. -/
structure Core where
  l1 : Tab L1Word := []
  /-- fetch blocks by host address over 32 (R48) -/
  icache : Tab (List Byte) := []
  tlb : List TlbEntry := []
  /-- the words whose owner the core is, by word address, rising (R131, R137) -/
  owns : List Nat := []
  /-- the spawn counter (R293) -/
  spawnCount : Tab Nat := []
  /-- CBKT and CDEBT of each function, and CPOOL (R246) -/
  cbkt : Tab Bucket := []
  cpool : Bucket := { rate := 0 }
  /-- the function that the pool served first in the last cycle in which it served one (R247) -/
  poolTurn : Nat := 0
  /-- the next of the two kinds to dispatch: ordered tasks (R295); tasks ahead of blocks (R380) -/
  ordNext : Bool := false
  taskNext : Bool := false
  deriving DecidableEq, Repr

/-- A function: its registers (R352, R356, R403, R370, R412 and the chapters that name them) and its service state. -/
structure Fn where
  rsvwrite : Word := 0
  trbase : DWord := 0
  /-- LSIZE resets to 4 -/
  trctl : Word := 8
  trprod : Word := 0
  trcons : Word := 0
  embase : DWord := 0
  emctl : Word := 2
  odis : Tab DWord := []
  s1root : DWord := 0
  s2root : DWord := 0
  tlbstat : Word := 0
  s2stat : Word := 0
  tfbase : DWord := 0
  /-- invalidations accepted and not completed, oldest first: stage, page (none: all) -/
  inval : List (Nat × Option Nat) := []
  /-- trap records waiting to be produced, oldest first -/
  recs : List TrapRec := []
  /-- records waiting for an answer -/
  waiting : List WaitingRec := []
  /-- the clock at which the function became ready (R83), and the count at which %clock resumed there (R450) -/
  readyAt : Nat := 0
  clockAdd : Nat := 0
  /-- FCFG; function 0 reads EN = 1 whatever this holds (R414) -/
  fcfg : DWord := 0
  /-- FSTAT.RESETTING and FSTAT.FATAL (R414) -/
  resetting : Bool := false
  fatal : Bool := false
  tctl : DWord := 64
  tovf : DWord := 0
  /-- TOVF written while records lie in the area (R296) -/
  tovfNext : Option DWord := none
  domains : Tab Domain := []
  /-- the block and wave that hold the serial token (R331) -/
  token : Option (Nat × Nat) := none
  /-- VDNCTL, VDNBASE, VDNSTAT and FABCTL (R457) -/
  vdnctl : DWord := 0
  vdnbase : DWord := 0
  vdnstat : DWord := 0
  fabctl : DWord := 1000
  /-- SCBASE0 to SCBASE7 (R179) -/
  scbase : Tab DWord := []
  /-- interrupts signalled through the host adapter card (R354, R425) -/
  irqs : Nat := 0
  /-- launch queues (R370) -/
  queues : Tab Queue := []
  /-- the queue to serve next among those of equal priority (R380) -/
  turn : Nat := 0
  /-- EVBASE, EVCTL, EVPROD and EVCONS (R422); LSIZE resets to 4 -/
  evbase : DWord := 0
  evctl : Word := 8
  evprod : Word := 0
  evcons : Word := 0
  /-- VESTAT, VEMASK, VESEV, VEFEP and VEHDR0 to VEHDR3 (R425) -/
  vestat : DWord := 0
  vemask : DWord := 0
  vesev : DWord := 2
  vefep : DWord := 0
  vehdr : Tab DWord := []
  /-- C0 to C4095 (R462) -/
  counters : Tab DWord := []
  /-- W0 to W1023 (R463) -/
  windows : Tab Window := []
  /-- L0 to L63 (R465) -/
  lists : Tab WorkList := []
  colls : List Coll := []
  /-- entries of the VDN table that a cache holds (R457) -/
  vdnCache : Tab DWord := []
  /-- packets discarded by R463 since the last STALE_DROP (R467) -/
  stale : Nat := 0
  /-- Foehn stops the function's issue (R437) -/
  stopIssue : Bool := false
  /-- a receiving session holds READY at 0 (R433), or the function has moved away (R452) -/
  notReady : Bool := false
  /-- the copy buckets are capped at this RATE (R435) -/
  capRate : Option Nat := none
  deriving DecidableEq, Repr

/-- An event that waits to be recorded (R423, R424): the functions whose rings take it, and its owner tag. -/
structure Event where
  rings : List Nat
  func : Nat
  code : Nat
  /-- the class of R425 -/
  cls : Option Nat := none
  obj : Nat := 0
  addr : DWord := 0
  info : DWord := 0
  hdr : List DWord := []
  deriving DecidableEq, Repr

/-- Who issues: a wave's batch, named by its block, wave and one member lane, or a block's stream. -/
inductive Agent where
  | wave (blk wave lane : Nat)
  | stream (blk : Nat)
  deriving DecidableEq, Repr

/-- Why the machine stops with a fault. -/
inductive Fault where
  /-- An encoded instruction is executed while no live batch or stream is the issuer.  Raised by every wave and stream
  instruction; safe: no step of the machine issues without an issuer. -/
  | noIssuer
  deriving DecidableEq, Repr

/-- Why the machine gives an instruction no meaning. -/
inductive Refusal where
  /-- The instruction has no meaning in the model yet.  Raised by Dispatch only; safe. -/
  | notModelled (mnemonic : String)
  deriving DecidableEq, Repr

/-- A step that an engine, the host or a peer is to make, with its arguments. -/
structure Post where
  step : Instr
  args : List Nat := []
  data : List Byte := []
  deriving DecidableEq, Repr

/-- The state of the device. -/
structure State where
  /-- memory by host address (module comment) -/
  mem : List Cell := []
  /-- the poisoned granules, by their first address (R37, R39) -/
  poisoned : List Nat := []
  /-- what fetch blocks of HBM held before a write to them: address over 32, the clock of the write, and the bytes (R48) -/
  codeOld : List (Nat × Nat × List Byte) := []
  fns : Tab Fn := []
  blocks : Tab Block := []
  cores : Tab Core := []
  /-- the L2 TLB of each cluster (R401) -/
  clusters : Tab Cluster := []
  /-- who issued last or is issuing -/
  cur : Option Agent := none
  /-- the agent that must issue next, if one is named -/
  forced : Option Agent := none
  /-- steps of engines, the host and peers that are to happen next, first first -/
  agenda : List Post := []
  /-- the arguments of the step under way, if it is an engine's, the host's or a peer's -/
  args : List Nat := []
  data : List Byte := []
  /-- core cycles since power-good -/
  clock : Nat := 0
  /-- draws made from the free constants of Config -/
  tick : Nat := 0
  /-- the number the next block, record, access or command takes -/
  serial : Nat := 0
  /-- CLOWN of each cluster (R415) -/
  clown : Tab DWord := []
  /-- SPART of each physical core (R418) -/
  spart : Tab DWord := []
  /-- queued tasks in spawn order (R294, R295) -/
  tasks : List Task := []
  /-- continuations parked at their homes (R298) -/
  conts : List Cont := []
  /-- the commands that have come to each stack and that it has not served, oldest first: block and number (R286) -/
  stackQ : Tab (List (Nat × Nat)) := []
  /-- speculative units by SID (R310) -/
  units : Tab SpecUnit := []
  /-- speculative versions, oldest first (R313) -/
  versions : List Version := []
  /-- launches in the order of their acceptance -/
  launches : List Launch := []
  /-- saved blocks whose records are answered, head first (R386) -/
  restores : List Nat := []
  /-- clusters that drain, with the clock of the deadline (R384) -/
  draining : Tab Nat := []
  /-- events that wait to be recorded, oldest first -/
  events : List Event := []
  /-- the former holder of each cluster that a reclaim is taking back (R417) -/
  former : Tab Nat := []
  /-- the module's own group and member (R456) -/
  grp : Nat := 0
  member : Nat := 0
  /-- packets that wait to be routed (R495), and those for this module that no engine has taken -/
  egress : List Packet := []
  inbox : List Packet := []
  /-- allowances below 256 (R487) -/
  channels : List Channel := []
  msgs : List OutMsg := []
  inmsgs : List InMsg := []
  /-- the next ORD sequence number of a channel, and what receivers remember (R461) -/
  seqOut : List (Channel) := []
  seen : List Seen := []
  rresvs : List RemoteResv := []
  /-- functions of peers whose messages this module holds (R437) -/
  marked : List Triple := []
  ports : Tab Port := []
  /-- the active bank, and the two banks of RTGRP and RTMEM (R494) -/
  rtAct : Bool := false
  rtgrp : Tab DWord := []
  rtmem : Tab DWord := []
  rtgrpB : Tab DWord := []
  rtmemB : Tab DWord := []
  /-- DBMAP (R429) and the sessions (R432) -/
  dbmap : DWord := 0
  sessions : Tab Session := []
  moved : List Moved := []
  /-- CALIDX, the shadow, the calendars and what waits to be copied in (R420) -/
  calidx : Nat := 0
  calShadow : Tab Nat := []
  cals : Tab (Tab Nat) := []
  calWait : Tab (Tab Nat) := []
  mgmt : Mgmt := {}
  /-- check units whose stored check bits were flipped (R509): the first address, and whether two bits were -/
  faulty : List (Nat × Bool) := []
  deriving DecidableEq, Repr

/-- The machine right after reset. -/
def State.reset : State := {}

end Sys2Proof.Machine
end

