-- ==== Sys2Proof/Machine/Ops.lean ====
section
/-!
DEFINITION. Sys2Proof/Machine/Ops.lean: the named operations over the state: tables of the device, bytes of memory, lanes and
batches of a wave (R70 to R82), registers and latches (R50 to R55, R71), and taking a trap (R349 to R355).
-/

namespace Sys2Proof.Machine

open Host

/-! ### Free values and choices -/

/-- Draw one of two permitted outcomes (log 4). -/
def State.drawBool (s : State) : Bool × State := (Config.freeBool s.tick, { s with tick := s.tick + 1 })

/-- Draw a number below n, 0 where n is 0 (log 4). -/
def State.drawPick (s : State) (n : Nat) : Nat × State := (Config.freePick s.tick % n, { s with tick := s.tick + 1 })

/-- Draw a free 32-bit value (log 3). -/
def State.drawWord (s : State) : Word × State := (Config.freeWord s.tick, { s with tick := s.tick + 1 })

/-- Take the next serial number. -/
def State.drawSerial (s : State) : Nat × State := (s.serial, { s with serial := s.serial + 1 })

/-! ### Steps of the engines -/

/-- Put a step on the agenda. -/
def State.post (s : State) (i : Instr) (args : List Nat) (data : List Byte) : State :=
  { s with agenda := s.agenda ++ [{ step := i, args := args, data := data }] }

/-- Argument n of the step under way; 0 where it has none. -/
def State.arg (s : State) (n : Nat) : Nat := s.args.getD n 0

/-! ### Lane masks -/

/-- The lanes of a mask, lowest first. -/
def lanesOf (m : BitVec 32) : List Nat := (List.range 32).filter (fun l => m.getLsbD l)

/-- The mask of one lane. -/
def laneBit (l : Nat) : BitVec 32 := (1#32) <<< l

/-- The mask of a list of lanes. -/
def maskOf (ls : List Nat) : BitVec 32 := ls.foldl (fun m l => m ||| laneBit l) 0

/-- The lowest lane of a mask, 0 for the empty mask. -/
def lowLane (m : BitVec 32) : Nat := (lanesOf m).headD 0

/-! ### Sets of numbers -/

/-- A rising list with `k` in it. -/
def setInsert (l : List Nat) (k : Nat) : List Nat :=
  match l with
  | [] => [k]
  | a :: r => if a = k then a :: r else if k < a then k :: a :: r else a :: setInsert r k

/-- A rising list without `k`. -/
def setErase (l : List Nat) (k : Nat) : List Nat := l.filter (fun a => a != k)

/-! ### Tables of the device -/

def State.fn (s : State) (f : Nat) : Fn := s.fns.get {} f
def State.setFn (s : State) (f : Nat) (x : Fn) : State := { s with fns := s.fns.set f x }
def State.block (s : State) (b : Nat) : Block := s.blocks.get {} b
def State.setBlock (s : State) (b : Nat) (x : Block) : State := { s with blocks := s.blocks.set b x }
def State.core (s : State) (c : Nat) : Core := s.cores.get {} c
def State.setCore (s : State) (c : Nat) (x : Core) : State := { s with cores := s.cores.set c x }
def State.cluster (s : State) (k : Nat) : Cluster := s.clusters.get {} k
def State.setCluster (s : State) (k : Nat) (x : Cluster) : State := { s with clusters := s.clusters.set k x }
def State.wave (s : State) (b w : Nat) : Wave := (s.block b).waves.get {} w
def State.setWave (s : State) (b w : Nat) (x : Wave) : State :=
  s.setBlock b { s.block b with waves := (s.block b).waves.set w x }

/-- Change every wave of a block. -/
def Block.mapWaves (b : Block) (f : Wave → Wave) : Block := { b with waves := b.waves.map (fun (k, w) => (k, f w)) }

/-- Change every wave of the device. -/
def State.mapWaves (s : State) (f : Wave → Wave) : State := { s with blocks := s.blocks.map (fun (k, b) => (k, b.mapWaves f)) }

/-- The core a block is on; 0 where it is resident nowhere. -/
def State.coreOf (s : State) (b : Nat) : Nat := (s.block b).core.getD 0

/-! ### Memory (R26 to R28, R37 to R39) -/

/-- The first host address of the slices. -/
def sliceBase : Nat := 2 ^ 40

/-- The host address of an offset in a physical core's slice. -/
def sliceAddr (core off : Nat) : Nat := sliceBase + core * 2 ^ 24 + off

/-- What an address nothing has written reads as (log 2). -/
def emptyByte : Byte := 0

/-- The byte at an address of a memory. -/
def memGet (m : List Cell) (a : Nat) : Byte :=
  match m with
  | [] => emptyByte
  | (i, b) :: r => if i = a then b else if a < i then emptyByte else memGet r a

/-- The memory with a byte at an address; a byte that reads as unlisted is not listed. -/
def memSet (m : List Cell) (a : Nat) (b : Byte) : List Cell :=
  match m with
  | [] => if b = emptyByte then [] else [(a, b)]
  | (i, c) :: r =>
    if i = a then (if b = emptyByte then r else (a, b) :: r)
    else if a < i then (if b = emptyByte then (i, c) :: r else (a, b) :: (i, c) :: r)
    else (i, c) :: memSet r a b

/-- The canonical form of a memory: addresses strictly rise and no cell holds what an unlisted address reads as. -/
def Memory.wf (m : List Cell) : Bool :=
  match m with
  | [] => true
  | [(_, b)] => decide (b ≠ emptyByte)
  | (i, b) :: (j, c) :: r => decide (b ≠ emptyByte) && decide (i < j) && Memory.wf ((j, c) :: r)

/-- Bytes into a memory from an address on. -/
def memSetBytes (m : List Cell) (a : Nat) (bs : List Byte) : List Cell :=
  match bs with
  | [] => m
  | b :: r => memSetBytes (memSet m a b) (a + 1) r

/-- n bytes of a memory from an address on. -/
def memBytes (m : List Cell) (a n : Nat) : List Byte := (List.range n).map (fun i => memGet m (a + i))

/-- The poison granule of an address: 64 bytes of HBM, 8 bytes of SRAM (R37). -/
def granule (a : Nat) : Nat := if a < sliceBase then 64 else 8

/-- The first address of the granule an address lies in. -/
def granuleAt (a : Nat) : Nat := a - a % granule a

/-- The granules that n bytes from an address touch. -/
def granules (a n : Nat) : List Nat :=
  if n = 0 then [] else
    let g := granule a
    let lo := granuleAt a
    (List.range ((a + n - 1 - lo) / g + 1)).map (fun i => lo + i * g)

/-- One byte of memory. -/
def State.byteAt (s : State) (a : Nat) : Byte := memGet s.mem a

/-- n bytes of memory, at their homes (R127). -/
def State.bytesAt (s : State) (a n : Nat) : List Byte := memBytes s.mem a n

/-- The little-endian number in n bytes of memory (R2). -/
def natOfBytes (bs : List Byte) : Nat := bs.foldr (fun b acc => b.toNat + 256 * acc) 0

/-- The n bytes of a number, lowest first (R2). -/
def bytesOfNat (n w : Nat) : List Byte :=
  match n with
  | 0 => []
  | n + 1 => BitVec.ofNat 8 w :: bytesOfNat n (w / 256)

def State.natAt (s : State) (a n : Nat) : Nat := natOfBytes (s.bytesAt a n)
def State.wordAt (s : State) (a : Nat) : Word := BitVec.ofNat 32 (s.natAt a 4)
def State.dwordAt (s : State) (a : Nat) : DWord := BitVec.ofNat 64 (s.natAt a 8)

/-- Some granule that n bytes from an address touch is poisoned (R39). -/
def State.poisonAt (s : State) (a n : Nat) : Bool := (granules a n).any (fun g => s.poisoned.contains g)

/-- The poisoned granules after a write: poisoned data poisons every granule it touches, clean data clears those it
writes whole (R39). -/
def poisonAfter (p : List Nat) (a n : Nat) (poison : Bool) : List Nat :=
  (granules a n).foldl
    (fun p g => if poison then setInsert p g
      else if decide (a ≤ g) && decide (g + granule a ≤ a + n) then setErase p g else p) p

/-- Another core's copy of a word loses its owned bit when a write to the word is performed (R129), and the core no longer owns the
word (R131). -/
def Core.disown (c : Core) (a n : Nat) : Core :=
  { c with
    l1 := c.l1.map (fun (k, w) => if decide (4 * k < a + n) && decide (a < 4 * k + 4) then (k, { w with owned := false }) else (k, w))
    owns := c.owns.filter (fun k => !(decide (4 * k < a + n) && decide (a < 4 * k + 4))) }

/-- A store of the core is performed: the home registers it as the owner of the words (R131). -/
def Core.own (c : Core) (a n : Nat) : Core :=
  { c with owns := (List.range ((a + n + 3) / 4 - a / 4)).foldl (fun l i => setInsert l (a / 4 + i)) c.owns }

/-- A write is performed: its core owns the words, and every other core loses its owned bits of them. -/
def disownAll (cs : Tab Core) (writer : Option Nat) (a n : Nat) : Tab Core :=
  let ds : Tab Core := cs.map (fun (k, c) => if writer == some k then (k, c) else (k, c.disown a n))
  match writer with
  | none => ds
  | some k => ds.set k ((ds.get {} k).own a n)

/-- Discard the core's copy of the words an atomic names (R114). -/
def State.dropL1 (s : State) (core a n : Nat) : State :=
  let c := s.core core
  s.setCore core { c with l1 := c.l1.filter (fun (k, _) => !(decide (4 * k < a + n) && decide (a < 4 * k + 4))) }

/-- The line at an address is one that n bytes from another address touch. -/
def onLine (line a n : Nat) : Bool := decide (line < a + n) && decide (a < line + 128)

/-- A write clears the reservations on its line (R118), and wakes the evicted waves that watch it (R123). -/
def Wave.dropResv (w : Wave) (a n : Nat) : Wave :=
  let w1 := if w.watch.any (fun l => onLine l a n) then { w with watch := [] } else w
  match w1.resv with
  | none => w1
  | some r => if onLine r.line a n then { w1 with resv := none } else w1

/-- Every wave loses its reservation on a line the bytes touch. -/
def Block.dropResv (b : Block) (a n : Nat) : Block := { b with waves := b.waves.map (fun (k, w) => (k, w.dropResv a n)) }

/-! ### Dirty bits and injected errors (R429, R430, R509) -/

/-- The byte of the bitmap that holds the bit of a 4 KiB block, and the bit's place (R429). -/
def State.dirtyPlace (s : State) (blk : Nat) : Nat × Nat := (s.dbmap.toNat / 2 ^ 25 % 2 ^ 27 * 2 ^ 25 + blk / 8, blk % 8)

/-- The dirty bit of a 4 KiB block. -/
def State.dirtyBit (s : State) (blk : Nat) : Bool := let (a, i) := s.dirtyPlace blk; (memGet s.mem a).getLsbD i

/-- Write the dirty bit of a 4 KiB block. -/
def State.setDirty (s : State) (blk : Nat) (b : Bool) : State :=
  let (a, i) := s.dirtyPlace blk
  let x := memGet s.mem a
  let m : Byte := (1#8) <<< i
  { s with mem := memSet s.mem a (if b then x ||| m else x &&& ~~~m) }

/-- The 4 KiB blocks that n bytes from an address touch. -/
def dirtyBlocks (a n : Nat) : List Nat := if n = 0 then [] else (List.range ((a + n - 1) / 4096 - a / 4096 + 1)).map (fun i => a / 4096 + i)

/-- A bit goes from 0 to 1 by a write tagged with a function (R410, R434): the function's sessions that run count it. -/
def State.markDirty (s : State) (fn blk : Nat) : State :=
  if s.dirtyBit blk then s
  else
    let s1 := s.setDirty blk true
    { s1 with sessions := s1.sessions.map (fun (k, x) =>
        (k, if (x.state == .round || x.state == .drain) && x.mgctl.toNat / 2 ^ 16 % 64 == fn then { x with changed := x.changed ++ [blk] } else x)) }

/-- A write to HBM on behalf of a function sets the dirty bits of its blocks (R430). -/
def State.noteWrite (s : State) (fn a n : Nat) : State :=
  if s.dbmap.getLsbD 0 && decide (a < sliceBase) then (dirtyBlocks a n).foldl (fun s b => s.markDirty fn b) s else s

/-- The check units of accumulator memory are numbered as addresses beyond every host PA (R37, R257): core by core, 256 KiB each. -/
def accBase : Nat := 2 ^ 60
def accAddr (core off : Nat) : Nat := accBase + core * 2 ^ 18 + off

/-- The check unit that an armed log slot names (R508, R509): a host PA of HBM, or an offset in a slice or the accumulator memory of a core
of the slot's cluster. -/
def injectAt (slot : Nat) (e : Elog) : Option Nat :=
  let kind := e.einj.toNat / 4 % 8
  if !e.einj.getLsbD 0 then none
  else if slot < 16 ∧ kind = 0 then some (granuleAt e.einja.toNat)
  else if 16 ≤ slot ∧ slot < 48 ∧ kind = 1 then
    some (granuleAt (sliceAddr (8 * (slot - 16) + e.einj.toNat / 32 % 8) (e.einja.toNat % 2 ^ 24)))
  else if 16 ≤ slot ∧ slot < 48 ∧ kind = 2 then
    some (granuleAt (accAddr (8 * (slot - 16) + e.einj.toNat / 32 % 8) (e.einja.toNat % 2 ^ 18)))
  else none

/-- A write performed to check units: their check bits are formed anew, or stored with flipped bits where a slot is armed for
the unit (R509); two flipped bits poison it (R37). -/
def State.formChecks (s : State) (a n : Nat) : State :=
  let gs := granules a n
  let hits := s.mgmt.elog.filterMap (fun (k, e) => match injectAt k e with | some u => if gs.contains u then some (k, u, e.einj.getLsbD 1) else none | none => none)
  let s1 := if s.faulty.isEmpty then s else { s with faulty := s.faulty.filter (fun (u, _) => !gs.contains u) }
  hits.foldl (fun s (k, u, dbl) =>
    let e := s.mgmt.elog.get {} k
    { s with
      mgmt := { s.mgmt with elog := s.mgmt.elog.set k { e with einj := e.einj &&& ~~~(1 : DWord) } }
      faulty := s.faulty ++ [(u, dbl)]
      poisoned := if dbl then setInsert s.poisoned u else s.poisoned }) s1

/-- The units of a core's accumulator memory start afresh with a block (R137). -/
def State.clearTiles (s : State) (core : Nat) : State :=
  { s with faulty := s.faulty.filter (fun (u, _) => !(decide (accAddr core 0 ≤ u) && decide (u < accAddr (core + 1) 0))) }

/-- What fetches may still return after a write of n bytes to HBM (R48): the fetch blocks that it touches, as they stood. -/
def State.codeAfter (s : State) (a n : Nat) : List (Nat × Nat × List Byte) :=
  if s.blocks.isEmpty || decide (sliceBase ≤ a) || n == 0 then s.codeOld
  else s.codeOld ++ (List.range ((a + n - 1) / 32 - a / 32 + 1)).map (fun i => (a / 32 + i, s.clock, s.bytesAt (32 * (a / 32 + i)) 32))

/-- The bytes, the poison, the owned bits and the reservations of a write performed at its home (R127, R128). -/
def State.putHome (s : State) (writer : Option Nat) (a : Nat) (bs : List Byte) (poison : Bool) : State :=
  { s with
    mem := memSetBytes s.mem a bs
    poisoned := poisonAfter s.poisoned a bs.length poison
    codeOld := s.codeAfter a bs.length
    cores := disownAll s.cores writer a bs.length
    blocks := s.blocks.map (fun (k, b) => (k, b.dropResv a bs.length))
    rresvs := s.rresvs.filter (fun r => !(decide (r.line < a + bs.length) && decide (a < r.line + 128))) }

/-- A write performed at its home on behalf of a function (R410): its dirty bits are set first (R430). -/
def State.writeHome (s : State) (fn : Nat) (writer : Option Nat) (a : Nat) (bs : List Byte) (poison : Bool) : State :=
  ((s.noteWrite fn a bs.length).putHome writer a bs poison).formChecks a bs.length

/-! ### Lanes and batches (R70 to R82) -/

def Wave.lane (w : Wave) (l : Nat) : Lane := w.lanes.get {} l
def Wave.setLane (w : Wave) (l : Nat) (x : Lane) : Wave := { w with lanes := w.lanes.set l x }
def Wave.mapLanes (w : Wave) (m : BitVec 32) (f : Nat → Lane → Lane) : Wave :=
  (lanesOf m).foldl (fun w l => w.setLane l (f l (w.lane l))) w

/-- The lanes whose condition satisfies a test. -/
def Wave.lanesWhere (w : Wave) (p : Cond → Bool) : BitVec 32 :=
  maskOf ((List.range 32).filter (fun l => p (w.lane l).cond))

/-- The live lanes, those in a frame included (R70). -/
def Wave.live (w : Wave) : BitVec 32 := w.lanesWhere (fun c => c != .idle)

/-- The live lanes of the running context: a handler's fibres while one runs. -/
def Wave.liveHere (w : Wave) : BitVec 32 := w.lanesWhere (fun c => c != .idle && c != .stacked)

/-- A lane whose latches are lost: every lane of the four latches becomes invalid (R54). -/
def Lane.loseLatches (x : Lane) : Lane := { x with latches := x.latches.map (fun (k, y) => (k, { y with valid := false })) }

/-- Group lanes by equal PC and window base, the groups in order of their lowest lane (R75). -/
def groupLanes (w : Wave) (ls : List Nat) : List (BitVec 32) :=
  ls.foldl
    (fun gs l =>
      let same (g : BitVec 32) : Bool :=
        (w.lane (lowLane g)).pc == (w.lane l).pc && (w.lane (lowLane g)).base == (w.lane l).base
      if gs.any same then gs.map (fun g => if same g then g ||| laneBit l else g) else gs ++ [laneBit l]) []

/-- A mask is complete when somebody waits and every fibre it names has arrived (R79). -/
def Wave.complete (w : Wave) (n : Nat) : Bool :=
  w.arrived.get 0 n != 0 && (w.masks.get 0 n &&& ~~~(w.arrived.get 0 n)) == 0

/-- Release a mask (R79): the fibres become runnable, by PC and base in batches of their own, and lose their latches. -/
def Wave.release (w : Wave) (n : Nat) : Wave :=
  let a := w.arrived.get 0 n
  let w1 := w.mapLanes a (fun _ x => { x.loseLatches with cond := .runnable })
  { w1 with arrived := w1.arrived.set n 0, batches := w1.batches ++ (groupLanes w1 (lanesOf a)).map (fun g => ⟨g⟩) }

/-- Release every complete mask, lowest first (R79). -/
def Wave.releaseComplete (w : Wave) : Wave :=
  (List.range 8).foldl (fun w n => if w.complete n then w.release n else w) w

/-- The partial release (R80), if every live fibre of the running context is joined. -/
def Wave.partialRelease (w : Wave) : Option Wave :=
  if w.liveHere != 0 && w.lanesWhere (fun c => match c with | .joined _ => true | _ => false) == w.liveHere then
    match (List.range 8).find? (fun n => w.arrived.get 0 n != 0) with
    | none => none
    | some n =>
      let w := w.release n
      some { w with joinlost := if w.joinlost == 0xFFFFFFFF then w.joinlost else w.joinlost + 1 }
  else none

/-- Evaluate R79 and then R80, until neither applies: each partial release empties one arrival set. -/
def Wave.settleJoins (fuel : Nat) (w : Wave) : Wave :=
  match fuel with
  | 0 => w.releaseComplete
  | k + 1 => (w.releaseComplete.partialRelease).elim w.releaseComplete (settleJoins k)

/-- The issuing batch after an issue (R75): its members that are runnable, by PC and base.  A batch whose membership
changed loses its latches (R54); the parts are the wave's most recently issued batches (R77).  Members that all wait stay
together. -/
def Wave.repartition (w : Wave) (old now : BitVec 32) : Wave :=
  let rest := w.batches.filter (fun b => b.mask &&& old == 0)
  let run := (lanesOf now).filter (fun l => (w.lane l).cond == .runnable)
  let gs := groupLanes w run
  let whole := gs == [old] || (run.isEmpty && (lanesOf old).all (fun l => (w.lane l).cond != .idle))
  let w1 := if whole then w else w.mapLanes now (fun _ x => x.loseLatches)
  { w1 with batches := rest ++ gs.map (fun g => ⟨g⟩) }

/-- An access that only takes a value. -/
def AccKind.readsOnly (k : AccKind) : Bool :=
  match k with
  | .load .. | .waitw .. => true
  | _ => false

/-- End fibres (R78, R89): the lanes become idle, leave the masks and arrival sets and their loads are discarded. -/
def Wave.endLanes (w : Wave) (m : BitVec 32) : Wave :=
  let w1 := w.mapLanes m (fun _ x => { x with cond := .idle })
  { w1 with
    masks := w1.masks.map (fun (k, x) => (k, x &&& ~~~m))
    arrived := w1.arrived.map (fun (k, x) => (k, x &&& ~~~m))
    batches := (w1.batches.map (fun b => ⟨b.mask &&& ~~~m⟩)).filter (fun (b : Batch) => b.mask != 0)
    acc := (w1.acc.filter (fun a => !(m.getLsbD a.lane && a.kind.readsOnly))).map
      (fun a => if m.getLsbD a.lane then { a with dst := .none } else a) }

/-! ### Registers and latches (R50, R53, R55, R71) -/

/-- The register limit L (R71). -/
def Wave.limit (w : Wave) : Nat := if w.emdepth = 0 then w.window else w.window + w.emdepth * w.emWindow

/-- The v register of a lane by its number in the allocation. -/
def Wave.vAt (w : Wave) (reg lane : Nat) : PWord := w.v.get {} (reg * 32 + lane)
def Wave.setVAt (w : Wave) (reg lane : Nat) (x : PWord) : Wave := { w with v := w.v.set (reg * 32 + lane) x }

/-- An s register. -/
def Wave.sAt (w : Wave) (r : Nat) : PWord := w.s.get {} r
def Wave.setS (w : Wave) (r : Nat) (x : PWord) : Wave := { w with s := w.s.set r x }

/-- Read register `code` of a lane's window; beyond the limit ACCESS_FAULT (R71). -/
def Wave.readV (w : Wave) (l code : Nat) : Except Cause PWord :=
  let r := (w.lane l).base + code
  if r < w.limit then .ok (w.vAt r l) else .error .accessFault

/-- Read a lane of a latch (R55). -/
def Wave.readLatch (w : Wave) (l latch : Nat) : Except Cause PWord :=
  let x := (w.lane l).latches.get {} latch
  if x.valid then .ok x.val else if x.nwb then .error .latchLost else w.readV l x.tag.toNat

/-- Read an operand code: a latch, a v register or an s register (R50, R55). -/
def Wave.readSrc (w : Wave) (l : Nat) (latch : Bool) (code : BitVec 8) : Except Cause PWord :=
  if latch then w.readLatch l code.toNat
  else if code.toNat < 192 then w.readV l code.toNat
  else .ok (w.sAt (code.toNat - 192))

/-- Read n consecutive registers from a code on, lowest first. -/
def Wave.readGroup (w : Wave) (l : Nat) (code n : Nat) : Except Cause (List PWord) :=
  (List.range n).mapM (fun i => w.readSrc l false (BitVec.ofNat 8 (code + i)))

/-- The 64-bit value of two words, low word first, and whether either is poisoned. -/
def pairVal (lo hi : PWord) : DWord × Bool := (hi.val ++ lo.val, lo.poison || hi.poison)

/-- Read a 64-bit operand (R50). -/
def Wave.readPair (w : Wave) (l : Nat) (code : BitVec 8) : Except Cause (DWord × Bool) := do
  let lo ← w.readSrc l false code
  let hi ← w.readSrc l false (code + 1)
  .ok (pairVal lo hi)

/-- The pair of s registers from a code (192 and above). -/
def Wave.sPair (w : Wave) (code : BitVec 8) : DWord × Bool :=
  pairVal (w.sAt (code.toNat - 192)) (w.sAt (code.toNat - 191))

/-- Write words to consecutive s registers from a code on. -/
def Wave.writeS (w : Wave) (code : BitVec 8) (xs : List PWord) : Wave :=
  xs.zipIdx.foldl (fun w (x, i) => w.setS (code.toNat - 192 + i) x) w

/-- A v result of one lane (R53): the words go to the destination unless NWB is set, and the latch DLT names takes the
first word. -/
def Wave.writeV (w : Wave) (l : Nat) (e : Enc) (xs : List PWord) : Wave :=
  let x := w.lane l
  let ll : LatchLane := { val := xs.headD {}, tag := e.dst, nwb := e.nwb, valid := true }
  let w1 := w.setLane l { x with latches := x.latches.set e.dlt.toNat ll }
  if e.nwb then w1
  else xs.zipIdx.foldl (fun w (y, i) => w.setVAt (x.base + e.dst.toNat + i) l y) w1

/-- The n registers of a v destination lie below the limit (R71). -/
def Wave.dstOk (w : Wave) (l : Nat) (e : Enc) (n : Nat) : Bool := decide ((w.lane l).base + e.dst.toNat + n ≤ w.limit)

/-- Predicate bit n of a lane. -/
def Lane.q (x : Lane) (n : Nat) : Bool := n == 31 || x.pred.getLsbD n

/-- Set predicate n of a lane; q31 ignores writes (R14). -/
def Lane.setQ (x : Lane) (n : Nat) (b : Bool) : Lane :=
  if n == 31 then x
  else { x with pred := if b then x.pred ||| laneBit n else x.pred &&& ~~~(laneBit n) }

/-- The guard of a lane (R52). -/
def Lane.guard (x : Lane) (e : Enc) : Bool := x.q e.prd.toNat != e.pneg

/-! ### The context of an issue -/

/-- What an issue works on: the wave, the address of the instruction and of the next one (R46), the batch's members and
those whose guard holds (R52). -/
structure Ctx where
  blk : Nat
  wave : Nat
  pc : DWord
  nextPc : DWord
  members : BitVec 32
  acting : BitVec 32
  deriving DecidableEq, Repr

/-- The leader: the lowest member whose guard holds (R74). -/
def Ctx.leader (c : Ctx) : Nat := lowLane c.acting

/-- The next sequential PC (R46). -/
def seqPc (pc : DWord) (l : Len) : DWord :=
  let n := pc + (match l with | .l64 => 8 | .l96 => 12 | .l128 => 16)
  if n &&& 0x1F == 0x1C then n + 4 else n

/-- The batch of a wave that holds a lane. -/
def Wave.batchOf (w : Wave) (l : Nat) : Option Batch := w.batches.find? (fun b => b.mask.getLsbD l)

/-- The context in which the issuing wave executes an instruction; none where no live batch issues. -/
def State.ctx (s : State) (e : Enc) : Option Ctx :=
  match s.cur with
  | some (.wave b w l) =>
    match (s.wave b w).batchOf l with
    | none => none
    | some bt =>
      let wv := s.wave b w
      let pc := (wv.lane (lowLane bt.mask)).pc
      some { blk := b, wave := w, pc := pc, nextPc := seqPc pc e.len, members := bt.mask
             acting := maskOf ((lanesOf bt.mask).filter (fun l => (wv.lane l).guard e)) }
  | _ => none

def State.ctxWave (s : State) (c : Ctx) : Wave := s.wave c.blk c.wave
def State.setCtxWave (s : State) (c : Ctx) (w : Wave) : State := s.setWave c.blk c.wave w

/-- The function an issue belongs to. -/
def State.ctxFn (s : State) (c : Ctx) : Nat := (s.block c.blk).fn

/-! ### Traps (R349 to R355) -/

/-- What an instruction's fault says (R350, R351). -/
structure FaultInfo where
  cause : Cause
  lanes : BitVec 32 := 0
  perFibre : Bool := false
  fva : DWord := 0
  obj : BitVec 8 := 0
  aux : DWord := 0
  aux2 : Word := 0
  resume : Resume := .reissue
  syn : Option Syndrome := none
  deriving DecidableEq, Repr

/-- The code of a cause (R349). -/
def Cause.code (c : Cause) : Nat :=
  match c with
  | .none => 0x00 | .illegalLength => 0x01 | .illegalPlacement => 0x02 | .latchLost => 0x03 | .accessFault => 0x04
  | .pageFault => 0x05 | .align => 0x06 | .fmtMismatch => 0x07 | .barOverflow => 0x08 | .barUnderflow => 0x09
  | .ringMisuse => 0x0A | .doubleResolve => 0x0B | .spawnDepth => 0x0C | .tstampOrder => 0x0D | .emulNest => 0x0E
  | .remoteFail => 0x0F | .poison => 0x10 | .ringBadBase => 0x11 | .watchdog => 0x12 | .trapUser => 0x13
  | .capacity => 0x20 | .cycle => 0x21 | .nospec => 0x22 | .fault => 0x23 | .migrate => 0x24

/-- The record count of a ring whose control word holds LSIZE in [5:1] (R352, R370). -/
def ringSize (ctl : Word) : Nat :=
  let l := ctl.toNat / 2 % 32
  2 ^ (if 4 ≤ l ∧ l ≤ 16 then l else 4)

/-- The ring has room (R354). -/
def ringRoomFor (ctl prod cons : Word) : Bool := ctl.getLsbD 0 && decide ((prod - cons).toNat < ringSize ctl)

/-- A record that is raised now waits for room in the trap ring, behind the records that wait already (R354). -/
def Fn.trapStalls (f : Fn) : Bool := !ringRoomFor f.trctl (f.trprod + BitVec.ofNat 32 f.recs.length) f.trcons

/-- The trap record of a wave instruction's fault (R350, R351). -/
def State.trapRecord (s : State) (c : Ctx) (raw : Raw) (f : FaultInfo) : TrapRec :=
  { id := s.serial
    fn := s.ctxFn c
    cause := f.cause
    ans := true
    kind := 0
    depth := (s.ctxWave c).emdepth
    lane := if f.perFibre then lowLane f.lanes else 0
    pc := c.pc
    fva := f.fva
    iw0 := raw.w0
    iw1 := raw.w1
    iw2 := raw.w2
    blk := (s.block c.blk).handle
    wave := (s.ctxWave c).idx
    obj := f.obj
    aux := f.aux
    fmask := if f.perFibre then f.lanes else 0
    aux2 := f.aux2
    resume := f.resume
    syn := f.syn
    nextPc := c.nextPc
    byWave := true
    members := c.members
    blkId := c.blk
    stalled := (s.fn (s.ctxFn c)).trapStalls }

/-- Stop a block's wave on a record (R126, R355): the record waits to be produced, the block is held by it and is saved. -/
def State.stopOn (s : State) (blk wave : Nat) (r : TrapRec) : State :=
  let fn := s.fn r.fn
  let s1 := { s.setFn r.fn { fn with recs := fn.recs ++ [r] } with serial := s.serial + 1 }
  let b := s1.block blk
  s1.setBlock blk
    { b with
      waves := b.waves.set wave { b.waves.get {} wave with stopped := some r }
      saving := true
      holds := b.holds ++ [r.id] }

/-- Take the trap of a wave instruction: the shared entry of every fault of a wave outside a speculative unit. -/
def State.raiseTrap (s : State) (c : Ctx) (raw : Raw) (f : FaultInfo) : State :=
  s.stopOn c.blk c.wave (s.trapRecord c raw f)

end Sys2Proof.Machine
end

