-- ==== Sys2Proof/Machine/Formats.lean ====
section
/-!
DEFINITION. Sys2Proof/Machine/Formats.lean: the number formats of the conversion unit (R174 to R177), encoding and decoding with a
scale (R183 to R185), and stochastic rounding (R186, R187).
-/

namespace Sys2Proof.Machine

/-- A rounding: one of the four modes, or stochastic with the draw r (R182, R187). -/
inductive Rnd where
  | mode (rm : Rm)
  | sr (r : Nat)
  deriving DecidableEq, Repr

/-- One step of the generator (R186). -/
def srStep (x : Word) : Word :=
  let x := x ^^^ (x <<< 13)
  let x := x ^^^ (x >>> 17)
  x ^^^ (x <<< 5)

/-- The draw of a state after its step (R186). -/
def srDraw (x : Word) : Nat := x.toNat / 65536

/-- seed(v, lane) (R186). -/
def srSeed (v : Word) (lane : Nat) : Word :=
  let x := v ^^^ BitVec.ofNat 32 (lane * 0x01000193)
  if x == 0 then 1 else x

/-- The generator of a lane: its state, or the start value (R186). -/
def Lane.gen (x : Lane) (lane : Nat) : Word := x.sr.getD (srSeed 0 lane)

/-- The exponent and fraction widths of a float format code (R174). -/
def codeFmt (f : Nat) : Fmt :=
  match f with
  | 7 => F16
  | 8 => BF16
  | 9 => F32
  | 10 => ⟨4, 3⟩
  | 11 => ⟨5, 2⟩
  | 12 => ⟨3, 2⟩
  | 13 => ⟨2, 3⟩
  | _ => ⟨2, 1⟩

/-- The format is one of the narrow floats, which are scaled (R178). -/
def isNarrow (f : Nat) : Bool := decide (10 ≤ f) && decide (f ≤ 14)

/-- The largest finite magnitude's code of a narrow format (R174). -/
def narrowMax (f : Nat) : Nat :=
  match f with
  | 10 => 0x7E
  | 11 => 0x7B
  | 12 => 0x1F
  | 13 => 0x1F
  | _ => 7

/-- A pattern read without infinities and NaNs. -/
def Fmt.unpackFin (f : Fmt) (b : Nat) : FVal :=
  let neg := b / f.signBit % 2 == 1
  let ex := b / 2 ^ f.fbits % 2 ^ f.ebits
  let fr := b % 2 ^ f.fbits
  if ex == 0 then .fin neg fr f.qmin else .fin neg (2 ^ f.fbits + fr) (f.qmin + ((ex : Int) - 1))

/-- The value of a float code (R174). -/
def codeVal (f c : Nat) : FVal :=
  match f with
  | 10 => if c % 128 = 127 then .nan false else (codeFmt 10).unpackFin c
  | 12 | 13 | 14 => (codeFmt f).unpackFin c
  | _ => (codeFmt f).unpack c

/-- The magnitude is rounded up (R182, R187). -/
def rndUp (rnd : Rnd) (neg : Bool) (n rem unit : Nat) : Bool :=
  match rnd with
  | .mode rm => roundsUp rm neg n rem unit false
  | .sr r => decide (65536 ≤ rem * 65536 / unit + r)

/-- A nonzero magnitude m × 2^e rounded to a format's precision with its subnormal spacing and no upper limit: the code,
inexact, and tiny (R144, R183, R187). -/
def encMag (f : Fmt) (rnd : Rnd) (neg : Bool) (m : Nat) (e : Int) : Nat × Bool × Bool :=
  let top : Int := e + bitLen m - 1
  let q := max (top - f.fbits) f.qmin
  let (n, rem, unit) := quantize m e q
  let n1 := if rndUp rnd neg n rem unit then n + 1 else n
  let (n2, q2) := if n1 = 2 ^ (f.fbits + 1) then (2 ^ f.fbits, q + 1) else (n1, q)
  let code := if n2 < 2 ^ f.fbits then n2 else (q2 - f.qmin + 1).toNat * 2 ^ f.fbits + (n2 - 2 ^ f.fbits)
  let (un, urem, uunit) := quantize m e (top - f.fbits)
  let carries := rndUp rnd neg un urem uunit && decide (un + 1 = 2 ^ (f.fbits + 1))
  let tiny := match rnd with
    | .mode _ => decide (top < f.emin) && !(decide (top = f.emin - 1) && carries)
    | .sr _ => decide (code < 2 ^ f.fbits)
  (code, rem != 0, tiny)

/-- The special row of a NaN (R183): `neg` is its sign. -/
def encNan (f : Nat) (neg sig scaled : Bool) : Nat × Flags :=
  if f ≤ 9 then ((codeFmt f).nan, { invalid := sig })
  else if scaled then (0, { invalid := true })
  else match f with
    | 10 => ((if neg then 0x80 else 0) + 0x7F, { invalid := sig })
    | 11 => ((if neg then 0x80 else 0) + 0x7E, { invalid := sig })
    | _ => (0, { invalid := true })

/-- The code of an infinity or an overflow into a narrow format (R183). -/
def narrowTop (f : Nat) (neg nsat : Bool) : Nat × Flags :=
  let mag := if nsat then (match f with | 10 => 0x7F | 11 => 0x7E | _ => narrowMax f) else narrowMax f
  ((codeFmt f).sgn neg + mag, { overflow := true, inexact := true })

/-- Encode a value into a float format with a scale (R183).  `nanNeg` is the sign of a NaN. -/
def encodeFloat (v : FVal) (nanNeg : Bool) (f s : Nat) (scaled nsat : Bool) (rnd : Rnd) : Nat × Flags :=
  let g := codeFmt f
  if s = 255 then (if f ≤ 9 then (g.nan, { invalid := true }) else (0, { invalid := true }))
  else
    match v with
    | .nan sig => encNan f nanNeg sig scaled
    | .inf neg => if f ≤ 9 then (g.sgn neg + g.inf, Flags.none) else narrowTop f neg nsat
    | .fin neg m e =>
      if m = 0 then (g.sgn neg, Flags.none)
      else
        let e1 := e - ((s : Int) - 127)
        if f ≤ 9 then
          match rnd with
          | .mode rm => g.roundTo rm neg m e1 false
          | .sr _ =>
            let (code, inex, tiny) := encMag g rnd neg m e1
            if g.inf ≤ code then (g.sgn neg + g.inf, { overflow := true, inexact := true })
            else (g.sgn neg + code, { inexact := inex, underflow := inex && tiny })
        else
          let (code, inex, tiny) := encMag g rnd neg m e1
          if narrowMax f < code then narrowTop f neg nsat
          else (g.sgn neg + code, { inexact := inex, underflow := inex && tiny })

/-- A finite value divided by its scale and rounded to an integer: the integer and whether it changed. -/
def roundToInt (neg : Bool) (m : Nat) (e : Int) (rnd : Rnd) : Int × Bool :=
  let (n, rem, unit) := quantize m e 0
  let n1 := if rndUp rnd neg n rem unit then n + 1 else n
  (if neg then -(n1 : Int) else n1, rem != 0)

/-- The range of an integer format code 1 to 6 (R61). -/
def intRange (f : Nat) : Int × Int :=
  let b := match f with | 1 | 2 => 8 | 3 | 4 => 16 | _ => 32
  if f % 2 == 1 then (-(2 ^ (b - 1)), 2 ^ (b - 1) - 1) else (0, 2 ^ b - 1)

/-- The width of an integer format code 1 to 6. -/
def intWidth (f : Nat) : Nat := match f with | 1 | 2 => 8 | 3 | 4 => 16 | _ => 32

/-- A clamp. -/
def clampInt (lo hi t : Int) : Int := if t < lo then lo else if hi < t then hi else t

/-- Encode into an integer format (R184). -/
def encodeInt (v : FVal) (fromInt : Bool) (f s : Nat) (nsat : Bool) (rnd : Rnd) : Nat × Flags :=
  let (lo, hi) := intRange f
  let put (t : Int) : Nat := (t % 2 ^ (intWidth f)).toNat
  if s = 255 then (0, { invalid := true })
  else
    match v with
    | .nan _ => (0, { invalid := true })
    | .inf neg => (put (if neg then lo else hi), { invalid := true })
    | .fin neg m e =>
      let (t, inex) := roundToInt neg m (e - ((s : Int) - 127)) rnd
      let out := decide (t < lo) || decide (hi < t)
      if fromInt then
        if nsat then (put t, { inexact := inex })
        else (put (clampInt lo hi t), { inexact := inex, invalid := out })
      else if out then (put (clampInt lo hi t), { invalid := true })
      else (put t, { inexact := inex })

/-- Encode into T2 (R176, R184). -/
def encodeT2 (v : FVal) (s : Nat) (rnd : Rnd) : Nat × Flags :=
  if s = 255 then (0, { invalid := true })
  else
    match v with
    | .nan _ => (0, { invalid := true })
    | .inf neg => (if neg then 3 else 1, { invalid := true })
    | .fin neg m e =>
      let (t, inex) := roundToInt neg m (e - ((s : Int) - 127)) rnd
      let c := clampInt (-1) 1 t
      (if c = 0 then 0 else if c = 1 then 1 else 3, { inexact := inex || c != t })

/-- Encode a value into any format code 1 to 15 (R183, R184). -/
def encodeAny (v : FVal) (nanNeg fromInt : Bool) (f s : Nat) (scaled nsat : Bool) (rnd : Rnd) : Nat × Flags :=
  if f = 15 then encodeT2 v s rnd
  else if f ≤ 6 then encodeInt v fromInt f s nsat rnd
  else encodeFloat v nanNeg f s scaled nsat rnd

/-- Decode a float code into a float format (R185). -/
def decodeFloat (f c s : Nat) (dest : Fmt) (rm : Rm) : Nat × Flags :=
  if s = 255 then (dest.nan, Flags.none)
  else
    match codeVal f c with
    | .nan _ => (dest.nan, Flags.none)
    | .inf neg => (dest.sgn neg + dest.inf, Flags.none)
    | .fin neg m e => if m = 0 then (dest.sgn neg, Flags.none) else dest.roundTo rm neg m (e + ((s : Int) - 127)) false

/-- Decode a float code into a float format with stochastic rounding (R185, R187). -/
def decodeSr (f c s : Nat) (dest : Fmt) (r : Nat) : Nat × Flags :=
  if s = 255 then (dest.nan, Flags.none)
  else
    match codeVal f c with
    | .fin neg m e => encodeFloat (.fin neg m (e + ((s : Int) - 127))) false (if dest = BF16 then 8 else if dest = F16 then 7 else 9) 127 true false (.sr r)
    | _ => decodeFloat f c s dest .rne

/-- Decode an integer or T2 code into I32 (R185). -/
def decodeInt (f c : Nat) : Word × Flags :=
  match f with
  | 15 => (if c = 1 then 1 else if c = 3 then 0xFFFFFFFF else 0, { invalid := c == 2 })
  | 1 => ((BitVec.ofNat 8 c).signExtend 32, Flags.none)
  | 3 => ((BitVec.ofNat 16 c).signExtend 32, Flags.none)
  | _ => (BitVec.ofNat 32 c, Flags.none)

/-- The width of an element (R174, R176). -/
def elemBits (f : Nat) : Nat :=
  match f with
  | 1 | 2 | 10 | 11 => 8
  | 3 | 4 | 7 | 8 => 16
  | 5 | 6 | 9 => 32
  | 12 | 13 => 6
  | 14 => 4
  | _ => 2

/-- The bytes of an LDX or STX group: four elements (R194). -/
def groupBytes (f : Nat) : Nat := 4 * elemBits f / 8

/-- A group of four elements decoded in RNE to DT (R194): the words of the destination and the flags.  `sc` is the scale
byte; poison in the data or the scale poisons every word. -/
def decodeGroup (f dt : Nat) (sc : PWord) (xs : List PWord) : List PWord × Word :=
  let x := xs.foldr (fun y acc => y.val.toNat + 2 ^ 32 * acc) 0
  let p := sc.poison || xs.any (fun y => y.poison)
  let b := elemBits f
  let c (i : Nat) : Nat := x / 2 ^ (b * i) % 2 ^ b
  let fl (i : Nat) (dest : Fmt) : Nat × Flags := decodeFloat f (c i) (sc.val.toNat % 256) dest .rne
  let bits (l : List Flags) : Word := l.foldl (fun a g => a ||| g.bits) 0
  match dt with
  | 0 =>
    let rs := (List.range 4).map (fun i => fl i F32)
    (rs.map (fun r => ⟨BitVec.ofNat 32 r.1, p⟩), bits (rs.map (·.2)))
  | 3 =>
    let rs := (List.range 4).map (fun i => decodeInt f (c i))
    (rs.map (fun r => ⟨r.1, p⟩), bits (rs.map (·.2)))
  | d =>
    let dest := if d = 1 then BF16 else F16
    let rs := (List.range 4).map (fun i => fl i dest)
    let w (i : Nat) : Nat := (rs.getD (2 * i) (0, Flags.none)).1 + 65536 * (rs.getD (2 * i + 1) (0, Flags.none)).1
    ([⟨BitVec.ofNat 32 (w 0), p⟩, ⟨BitVec.ofNat 32 (w 1), p⟩], bits (rs.map (·.2)))

end Sys2Proof.Machine
end

