-- ==== Sys2Proof/Machine/Event.lean ====
section
/-!
DEFINITION. Sys2Proof/Machine/Event.lean: events that wait to be recorded (R424, R426).
-/

namespace Sys2Proof.Machine

open Host

/-! ### Events (R424, R426) -/

/-- The class of an event code (R424). -/
def eventClass (code : Nat) : Option Nat :=
  match code with
  | 0x01 | 0x02 | 0x03 => some 2
  | 0x04 | 0x0F => some 3
  | 0x08 => some 0
  | 0x09 => some 1
  | 0x0A => some 4
  | 0x0B => some 5
  | n => if 0x40 ≤ n ∧ n ≤ 0x7F then some 6 else none

/-- Post an event to rings, with the header of the packet whose transaction failed (R423). -/
def State.eventOf (s : State) (hdr : List DWord) (rings : List Nat) (func code obj : Nat) (addr info : DWord) : State :=
  { s with events := s.events ++
      [{ rings := rings.eraseDups, func := func, code := code, cls := eventClass code, obj := obj, addr := addr, info := info, hdr := hdr }] }

/-- Post an event that no packet caused. -/
def State.event (s : State) (rings : List Nat) (func code obj : Nat) (addr info : DWord) : State := s.eventOf [] rings func code obj addr info

/-- The events posted since a state are those of a packet's transaction (R423). -/
def State.causedBy (s s0 : State) (hdr : List DWord) : State :=
  { s with events := s.events.take s0.events.length ++ (s.events.drop s0.events.length).map (fun e => { e with hdr := hdr }) }

/-! ### Error logs (R40, R508) -/

/-- ELOGS with its fields. -/
def elogWord (uc ovf : Bool) (kind core func cnt syn : Nat) : DWord :=
  BitVec.ofNat 64 (1 + uc.toNat * 2 + ovf.toNat * 4 + kind % 8 * 8 + core % 8 * 2 ^ 6 + func % 64 * 2 ^ 9 + cnt % 2 ^ 16 * 2 ^ 16 + syn % 2 ^ 16 * 2 ^ 32)

/-- Log an error in a slot (R508): the first fills it, later ones are counted and set OVF.  The syndrome is free. -/
def State.logError (s : State) (slot kind core func addr : Nat) (uc : Bool) : State :=
  let e := s.mgmt.elog.get {} slot
  let (syn, s1) := s.drawWord
  let cnt := min 65535 (e.elogs.toNat / 2 ^ 16 % 2 ^ 16 + 1)
  let e1 := if e.elogs.getLsbD 0 then { e with elogs := (e.elogs &&& 0xFFFFFFFF0000FFFF) ||| 4 ||| BitVec.ofNat 64 (cnt * 2 ^ 16) }
    else { e with elogs := elogWord uc false kind core func 1 syn.toNat, eloga := BitVec.ofNat 64 addr }
  { s1 with mgmt := { s1.mgmt with elog := s1.mgmt.elog.set slot e1 } }

/-- The log slot, kind, core and logged address of a check unit (R508). -/
def unitLog (u : Nat) : Nat × Nat × Nat × Nat :=
  if u < sliceBase then (Config.stackOf u % 16, 0, 0, u)
  else if accBase ≤ u then
    let core := (u - accBase) / 2 ^ 18
    (16 + core / 8, 2, core % 8, (u - accBase) % 2 ^ 18)
  else
    let p := (u - sliceBase) / 2 ^ 24
    (16 + p / 8, 1, p % 8, (u - sliceBase) % 2 ^ 24)

/-- An error of a function's data is logged and reported to it (R40, R424).  The form of the event's INFO is free. -/
def State.tellError (s : State) (slot kind core fn addr : Nat) (uc : Bool) : State :=
  let s1 := s.logError slot kind core fn addr uc
  let info := Config.freeDWord s1.tick
  ({ s1 with tick := s1.tick + 1 } : State).event [fn] fn (if uc then 0x09 else 0x08) 0 0 info

/-- An access of a function meets the errors of check units (R37, R509). -/
def State.meetUnits (s : State) (fn : Nat) (us : List Nat) : State :=
  (s.faulty.filter (fun (u, _) => us.contains u)).foldl (fun s (u, dbl) =>
    let (slot, kind, core, addr) := unitLog u
    s.tellError slot kind core fn addr dbl) s

/-- The errors of the units that n bytes touch. -/
def State.meet (s : State) (fn a n : Nat) : State := if s.faulty.isEmpty then s else s.meetUnits fn (granules a n)

end Sys2Proof.Machine
end

