-- ==== Sys2Proof/Machine/Translate.lean ====
section
/-!
DEFINITION. Sys2Proof/Machine/Translate.lean: the translation unit (R394 to R409): page table entries, walks of both stages,
the ranges of R398, the TLBs and the faults of R406 with their syndromes (R407).
-/

namespace Sys2Proof.Machine

open Host

/-! ### Clusters and slices (R10, R27, R415, R418) -/

/-- OWNER of a cluster. -/
def State.clusterOwner (s : State) (k : Nat) : Nat := (s.clown.get 0 k).toNat % 64
/-- HOLDER of a cluster. -/
def State.clusterHolder (s : State) (k : Nat) : Nat := (s.clown.get 0 k).toNat / 64 % 64
/-- RECL of a cluster. -/
def State.clusterRecl (s : State) (k : Nat) : Bool := (s.clown.get 0 k).getLsbD 12

/-- The clusters a function owns, ascending (R27). -/
def State.clustersOf (s : State) (f : Nat) : List Nat := (List.range 32).filter (fun k => s.clusterOwner k == f)

/-- The number of logical cores of a function (R27). -/
def State.coreCount (s : State) (f : Nat) : Nat := 8 * (s.clustersOf f).length

/-- The physical core of a logical core (R27). -/
def State.physCore (s : State) (f n : Nat) : Option Nat :=
  ((s.clustersOf f)[n / 8]?).map (fun k => 8 * k + n % 8)

/-- The logical number, for a function, of a physical core. -/
def State.logCore (s : State) (f p : Nat) : Option Nat :=
  ((s.clustersOf f).findIdx? (fun k => k == p / 8)).map (fun j => 8 * j + p % 8)

/-- H of a core, in bytes (R10, R418). -/
def State.homeShare (s : State) (p : Nat) : Nat := (s.spart.get 0 p).toNat % 32 * 524288
/-- SPEC of a core (R418). -/
def State.specOn (s : State) (p : Nat) : Bool := (s.spart.get 0 p).getLsbD 8
/-- The addressable scratch share of a core (R10): 9,984 KiB less H, less the version area where speculation is on. -/
def State.scratchShare (s : State) (p : Nat) : Nat :=
  10223616 - s.homeShare p - (if s.specOn p then 1048576 else 0)

/-- A cluster's scratch serves another function than its owner (R416, R417). -/
def State.lent (s : State) (k : Nat) : Bool := s.clusterHolder k != s.clusterOwner k || s.clusterRecl k

/-- The HBM stack of a host PA is ready (R504). -/
def State.stackReady (s : State) (a : Nat) : Bool :=
  s.mgmt.rdy0.toNat % 65536 == 65535 || s.mgmt.rdy0.getLsbD (Config.stackOf a % 16)

/-- The HBM stack of a place is ready (R504): a stack-resident page names it by its address (R276). -/
def State.frameReady (s : State) (a : Nat) (stk : Bool) : Bool :=
  if stk then s.mgmt.rdy0.getLsbD (a / 65536 % 16) else s.stackReady a

/-- A cluster is ready (R504). -/
def State.clusterReady (s : State) (k : Nat) : Bool := s.mgmt.rdy0.getLsbD (16 + k)

/-- FCFG.EN of a function; function 0's reads 1 until core power is removed (R414, R507). -/
def State.enabled (s : State) (fn : Nat) : Bool := if fn = 0 then !s.mgmt.tripped else (s.fn fn).fcfg.getLsbD 0

/-- FSTAT.READY (R414, R433, R452, R504): enabled, not in reset, not held, and the owner of a cluster that is ready. -/
def State.ready (s : State) (fn : Nat) : Bool :=
  let f := s.fn fn
  s.enabled fn && !f.resetting && !f.notReady && (s.clustersOf fn).any s.clusterReady

/-- The home of an HBM line, as a logical core (R30). -/
def homeOf (n gpa : Nat) : Nat :=
  let l := gpa / 128 % 2 ^ 33
  let h := (l % 256) ^^^ (l / 256 % 256) ^^^ (l / 65536 % 256) ^^^ (l / 16777216 % 256) ^^^ (l / 2 ^ 32 % 2)
  h * n / 256

/-! ### Entries (R395, R396) -/

def pteV (e : DWord) : Bool := e.getLsbD 0
def pteR (e : DWord) : Bool := e.getLsbD 1
def pteW (e : DWord) : Bool := e.getLsbD 2
def pteX (e : DWord) : Bool := e.getLsbD 3
def pteA (e : DWord) : Bool := e.getLsbD 4
def pteD (e : DWord) : Bool := e.getLsbD 5
def pteSC (e : DWord) : Bool := e.getLsbD 6
def pteSTK (e : DWord) : Bool := e.getLsbD 7
def pteFMT (e : DWord) : Nat := e.toNat / 2 ^ 8 % 16
def pteBLK (e : DWord) : Nat := e.toNat / 2 ^ 12 % 4
def ptePS (e : DWord) : Bool := e.getLsbD 14
def pteSGRP (e : DWord) : Nat := e.toNat / 2 ^ 52 % 8
/-- ADDR, as the address it stands for. -/
def pteAddr (e : DWord) : Nat := e.toNat / 2 ^ 16 % 2 ^ 36 * 2 ^ 16

/-- What an entry is (R396). -/
inductive PteKind where
  | absent
  | malformed
  | table (a : Nat)
  | leaf
  deriving DecidableEq, Repr

/-- The kind of an entry at a level (R396).  In a stage-1 leaf bit 55 is bit 55 of the output (log 8). -/
def pteKind (stage level : Nat) (ignoreAddr : Bool) (e : DWord) : PteKind :=
  if !pteV e then .absent
  else
    let isLeaf := level == 0 || (level == 1 && ptePS e)
    if isLeaf then
      let rsv := e.getLsbD 15 || (if stage == 1 then decide (e.toNat / 2 ^ 56 ≠ 0) else decide (e.toNat / 2 ^ 55 ≠ 0))
      if rsv || (level == 0 && ptePS e) then .malformed
      else if level == 1 && decide (pteAddr e % 2 ^ 29 ≠ 0) then .malformed
      else if stage == 2 && (pteFMT e != 0 || pteBLK e != 0 || pteSGRP e != 0) then .malformed
      else if stage == 2 && !ignoreAddr && decide (2 ^ 40 ≤ pteAddr e) then .malformed
      else .leaf
    else if decide (e.toNat % 2 ^ 16 ≠ 1) || decide (e.toNat / 2 ^ 52 ≠ 0) then .malformed
    else .table (pteAddr e)

/-- An entry as a walk read it: its host address, its value and its level. -/
structure Pte where
  addr : Nat
  val : DWord
  level : Nat
  deriving DecidableEq, Repr

/-- The levels of a walk with the lowest bit of each index (R394). -/
def walkLevels : List (Nat × Nat) := [(2, 42), (1, 29), (0, 16)]

/-- The bytes a leaf of a level maps. -/
def pageSize (level : Nat) : Nat := if level == 1 then 2 ^ 29 else 2 ^ 16

/-! ### Walks (R399, R400) -/

/-- The stage-2 walk of a guest PA from a table on.  An error names the level and the type of R406. -/
def s2Walk (s : State) (levels : List (Nat × Nat)) (table gpa : Nat) (ignoreAddr : Bool) : Except (Nat × Nat) Pte :=
  match levels with
  | [] => .error (0, 2)
  | (lv, sh) :: rest =>
    let a := table + 8 * (gpa / 2 ^ sh % 8192)
    if !s.stackReady a then .error (lv, 3)
    else if s.poisonAt a 8 then .error (lv, 5)
    else
      let e := s.dwordAt a
      match pteKind 2 lv ignoreAddr e with
      | .absent => .error (lv, 0)
      | .malformed => .error (lv, 2)
      | .leaf => .ok ⟨a, e, lv⟩
      | .table t => s2Walk s rest t gpa ignoreAddr

/-- The stage-2 translation of a guest PA by a function's tables (R399). -/
def s2Translate (s : State) (fn gpa : Nat) (ignoreAddr : Bool) : Except (Nat × Nat) Pte :=
  let root := (s.fn fn).s2root
  if root.getLsbD 0 then s2Walk s walkLevels (pteAddr root) gpa ignoreAddr else .error (2, 0)

/-- The output address of a leaf for an input address. -/
def leafOut (p : Pte) (a : Nat) : Nat :=
  let z := pageSize p.level
  pteAddr p.val - pteAddr p.val % z + a % z

/-- How a walk of both stages fails: stage, level, type, the fault arose at a table entry, and the guest PA. -/
structure WalkFault where
  stage : Nat
  level : Nat
  type : Nat
  tab : Bool
  gpa : Nat
  deriving DecidableEq, Repr

/-- The entries a stage-2 walk reads, by host address (R399). -/
def s2Reads (s : State) (levels : List (Nat × Nat)) (table gpa : Nat) (ignoreAddr : Bool) : List Nat :=
  match levels with
  | [] => []
  | (lv, sh) :: rest =>
    let a := table + 8 * (gpa / 2 ^ sh % 8192)
    if !s.stackReady a then []
    else if s.poisonAt a 8 then [a]
    else
      match pteKind 2 lv ignoreAddr (s.dwordAt a) with
      | .table t => a :: s2Reads s rest t gpa ignoreAddr
      | _ => [a]

/-- The entries that the stage-2 translation of a guest PA reads. -/
def s2Trace (s : State) (fn gpa : Nat) (ignoreAddr : Bool) : List Nat :=
  let root := (s.fn fn).s2root
  if root.getLsbD 0 then s2Reads s walkLevels (pteAddr root) gpa ignoreAddr else []

/-- What a stage-1 walk did on its way: the stage-2 leaves it walked, with their guest pages, and the entries it read. -/
structure WalkTrace where
  used : List (Nat × Pte) := []
  reads : List Nat := []
  deriving DecidableEq, Repr

/-- The stage-2 leaf of a table's guest PA: one that is held (R401), or a walk's. -/
def tableLeaf (s : State) (fn g : Nat) (held : List TlbLeaf) (tr : WalkTrace) : Except (Nat × Nat) Pte × WalkTrace :=
  match held.find? (fun x => x.fn == fn && x.gpage == g / 65536) with
  | some x => (.ok ⟨0, x.leaf, x.level⟩, tr)
  | none =>
    let tr1 := { tr with reads := tr.reads ++ s2Trace s fn g false }
    match s2Translate s fn g false with
    | .error f => (.error f, tr1)
    | .ok p => (.ok p, { tr1 with used := tr1.used ++ [(g / 65536, p)] })

/-- The stage-1 walk of a VA (R399): each entry is read through stage 2, whose leaf may be a held one. -/
def s1Walk (s : State) (fn va : Nat) (held : List TlbLeaf) (levels : List (Nat × Nat)) (table : Nat) (tr : WalkTrace) :
    Except WalkFault Pte × WalkTrace :=
  match levels with
  | [] => (.error ⟨1, 0, 2, false, 0⟩, tr)
  | (lv, sh) :: rest =>
    let g := table + 8 * (va / 2 ^ sh % 8192)
    if 2 ^ 40 ≤ g then (.error ⟨1, lv, 3, false, 0⟩, tr)
    else
      match tableLeaf s fn g held tr with
      | (.error (l2, ty), tr1) => (.error ⟨2, l2, ty, true, g⟩, tr1)
      | (.ok p2, tr1) =>
        if !pteR p2.val then (.error ⟨2, 3, 1, true, g⟩, tr1)
        else
          let a := leafOut p2 g
          if !s.stackReady a then (.error ⟨1, lv, 3, false, 0⟩, tr1)
          else
            let tr2 := { tr1 with reads := tr1.reads ++ [a] }
            if s.poisonAt a 8 then (.error ⟨1, lv, 5, false, 0⟩, tr2)
            else
              let e := s.dwordAt a
              match pteKind 1 lv false e with
              | .absent => (.error ⟨1, lv, 0, false, 0⟩, tr2)
              | .malformed => (.error ⟨1, lv, 2, false, 0⟩, tr2)
              | .leaf => (.ok ⟨a, e, lv⟩, tr2)
              | .table t => s1Walk s fn va held rest t tr2

/-- The stage-1 translation of a VA (R399, R403). -/
def s1Translate (s : State) (fn va : Nat) (held : List TlbLeaf) : Except WalkFault Pte × WalkTrace :=
  let root := (s.fn fn).s1root
  if root.getLsbD 0 then s1Walk s fn va held walkLevels (root.toNat / 2 ^ 16 % 2 ^ 39 * 2 ^ 16) {}
  else (.error ⟨1, 2, 0, false, 0⟩, {})

/-- The guest PA a stage-1 leaf gives (R25, log 8). -/
def s1Out (p : Pte) (va : Nat) : Nat := leafOut p va + (if p.val.getLsbD 55 then 2 ^ 55 else 0)

/-! ### Ranges (R26, R398) -/

/-- What a guest PA names (R26, R27, R398). -/
inductive Range where
  | hbm
  | slice (n off : Nat)
  | notify (q off : Nat)
  | localScr (off : Nat)
  | fabric (vdn off : Nat)
  | none
  deriving DecidableEq, Repr

def notifyBase : Nat := 2 ^ 41
def localBase : Nat := 0x030000000000

/-- The range of a guest PA (R26, R28). -/
def rangeOf (gpa : Nat) : Range :=
  if 2 ^ 55 ≤ gpa then .fabric (gpa / 2 ^ 40 % 2 ^ 15) (gpa % 2 ^ 40)
  else if gpa < 2 ^ 40 then .hbm
  else if gpa < 2 ^ 40 + 2 ^ 32 then .slice ((gpa - 2 ^ 40) / 2 ^ 24) (gpa % 2 ^ 24)
  else if notifyBase ≤ gpa ∧ gpa < notifyBase + 65536 then .notify ((gpa - notifyBase) / 4096) (gpa % 4096)
  else if localBase ≤ gpa ∧ gpa < localBase + 2 ^ 40 then .localScr (gpa - localBase)
  else .none

/-- A range that stage 2 walks (R398). -/
def Range.walked (r : Range) : Bool :=
  match r with
  | .hbm | .slice .. | .notify .. => true
  | _ => false

/-- A range whose stage-2 leaf gives permissions only (R398). -/
def Range.permOnly (r : Range) : Bool :=
  match r with
  | .slice .. | .notify .. => true
  | _ => false

/-- Who asks for a translation: the function, its block if a block asks, and the physical core. -/
structure XReq where
  fn : Nat
  blk : Option Nat
  core : Nat
  deriving DecidableEq, Repr

/-- The place a range resolves to for a requester (R27, R29, R398, R416); none where it raises ACCESS_FAULT. -/
def placeOf (s : State) (q : XReq) (r : Range) (hpa : Nat) (stk : Bool) : Option Place :=
  match r with
  | .hbm => if s.frameReady hpa stk then some (.hbm hpa) else none
  | .slice n off =>
    match s.physCore q.fn n with
    | none => none
    | some p => if s.lent (p / 8) || decide (s.scratchShare p ≤ off) then none else some (.slice p off)
  | .notify n off => some (.notify n off)
  | .localScr off =>
    match q.blk with
    | none => none
    | some b => if off < (s.block b).scratch then some (.localScr off) else none
  | .fabric v off => some (.fabric v off)
  | .none => none

/-- The permissions an access needs (R397). -/
def Acc.allowed (a : Acc) (r w x : Bool) : Bool :=
  match a with
  | .read | .walk => r
  | .write => w
  | .readWrite => r && w
  | .fetch => x
  | .any => true

/-- The access writes. -/
def Acc.writes (a : Acc) : Bool := a == .write || a == .readWrite

/-- The cause of a fault type (R406). -/
def typeCause (ty : Nat) : Cause :=
  match ty with
  | 0 => .pageFault
  | 5 => .poison
  | _ => .accessFault

/-- A translation fault: its cause and its syndrome (R406, R407). -/
def xlatFault (va : Nat) (acc : Acc) (f : WalkFault) : Cause × Syndrome :=
  (typeCause f.type,
    { stage := f.stage, level := f.level, type := f.type, tab := f.tab, acc := if f.tab then .walk else acc, va := va
      gpa := if f.stage == 2 then f.gpa else 0 })

/-- Combine the leaves of both stages into a translation (R397, R398). -/
def combine (s : State) (q : XReq) (va : Nat) (acc : Acc) (l1 : Pte) (l2 : Option Pte) : Except WalkFault Xlat :=
  let gpa := s1Out l1 va
  let r := rangeOf gpa
  let bit (f : DWord → Bool) : Bool := f l1.val && (match l2 with | some p => f p.val | none => true)
  let hpa := match l2 with | some p => leafOut p gpa | none => 0
  match placeOf s q r hpa (pteSTK l1.val) with
  | none => .error ⟨1, 3, 3, false, 0⟩
  | some pl =>
    if acc == .fetch && r != .hbm then .error ⟨1, 3, 3, false, 0⟩
    else if !acc.allowed (bit pteR) (bit pteW) (bit pteX) then
      let own := acc.allowed (pteR l1.val) (pteW l1.val) (pteX l1.val)
      .error ⟨if own then 2 else 1, 3, 1, false, if own then gpa else 0⟩
    else if pteSTK l1.val && (match l2 with | some p => !pteSTK p.val | none => false) then .error ⟨2, 3, 4, false, gpa⟩
    else
      .ok
        { place := pl
          gpa := gpa
          r := bit pteR
          w := bit pteW
          x := bit pteX
          sc := pteSC l1.val || (match l2 with | some p => pteSC p.val | none => false)
          stk := pteSTK l1.val
          fmt := pteFMT l1.val
          blk := pteBLK l1.val
          sgrp := pteSGRP l1.val
          dirty := pteD l1.val && (match l2 with | some p => pteD p.val | none => true) }

/-- Set A, and D for a write, in an entry of a function's tables at its home (R400). -/
def State.markPte (s : State) (fn : Nat) (p : Pte) (dirty : Bool) : State :=
  let v := s.dwordAt p.addr ||| 0x10 ||| (if dirty then 0x20 else 0)
  if v == s.dwordAt p.addr then s else s.writeHome fn none p.addr (bytesOfNat 8 v.toNat) false

/-- The entry as it stands once A, and D for a write, are set. -/
def Pte.marked (p : Pte) (dirty : Bool) : Pte := { p with val := p.val ||| 0x10 ||| (if dirty then 0x20 else 0) }

/-- The entries that a walk read meet their errors, and a poisoned one is logged (R37, R40, R406). -/
def State.meetPtes (s : State) (fn : Nat) (reads : List Nat) : State :=
  reads.foldl (fun s a =>
    if s.poisonAt a 8 && !(s.faulty.any (fun p => p.1 == granuleAt a)) then
      let (slot, kind, core, addr) := unitLog (granuleAt a)
      s.logError slot kind core fn addr true
    else s.meet fn a 8) s

/-! ### TLBs (R401, R402) -/

/-- The TLB entry of a walk. -/
def tlbOf (fn va gpa : Nat) (l1 : Pte) (l2 : Option Pte) : TlbEntry :=
  { fn := fn, vpage := va / 65536, gpage := gpa / 65536, leaf1 := l1.val, level1 := l1.level
    leaf2 := (l2.map (·.val)).getD 0, level2 := (l2.map (·.level)).getD 0 }

/-- The entry translates a page of a function. -/
def TlbEntry.isFor (t : TlbEntry) (fn va : Nat) : Bool := t.fn == fn && t.vpage == va / 65536

/-- A cached entry serves an access of its page, but not a write where a leaf's D was 0 (R400, R401). -/
def TlbEntry.serves (t : TlbEntry) (fn va : Nat) (acc : Acc) : Bool :=
  t.isFor fn va && (!acc.writes || (pteD t.leaf1 && (t.leaf2 == 0 || pteD t.leaf2)))

/-- The result of a translation with the state the walk leaves. -/
abbrev XResult := Except (Cause × Syndrome) Xlat × State

/-- The leaves that an access of a page uses; `held` ones come from a TLB. -/
structure Leaves where
  l1 : Pte
  l2 : Option Pte
  held : Bool
  deriving DecidableEq, Repr

/-- The leaves of a TLB entry. -/
def TlbEntry.leaves (t : TlbEntry) : Leaves :=
  { l1 := ⟨0, t.leaf1, t.level1⟩, l2 := if t.leaf2 == 0 then none else some ⟨0, t.leaf2, t.level2⟩, held := true }

/-- A TLB takes an entry; it may keep what it held of the page instead, or drop any entry (R401). -/
def tlbTake (l : List TlbEntry) (cap : Nat) (t : TlbEntry) (keep : Bool) : List TlbEntry :=
  if keep then l else (t :: l.filter (fun u => !u.isFor t.fn (t.vpage * 65536))).take cap

/-- Draw whether a TLB keeps an older entry of the page; one that has none takes the new entry. -/
def State.drawKeep (s : State) (l : List TlbEntry) (t : TlbEntry) : Bool × State :=
  if l.any (fun u => u.isFor t.fn (t.vpage * 65536)) then s.drawBool else (false, s)

/-- A core's L1 TLB takes an entry. -/
def State.fillTlb (s : State) (core : Nat) (t : TlbEntry) : State :=
  let (keep, s1) := s.drawKeep (s.core core).tlb t
  let c := s1.core core
  s1.setCore core { c with tlb := tlbTake c.tlb 384 t keep }

/-- The L2 TLB of a core's cluster takes an entry; 8,192 entries of both kinds. -/
def State.fillL2 (s : State) (core : Nat) (t : TlbEntry) : State :=
  let (keep, s1) := s.drawKeep (s.cluster (core / 8)).tlb t
  let c := s1.cluster (core / 8)
  s1.setCluster (core / 8) { c with tlb := tlbTake c.tlb (8192 - c.leaves.length) t keep }

/-- The L2 TLB of a core's cluster takes the stage-2 leaves of the tables that a walk used. -/
def State.fillLeaves (s : State) (core fn : Nat) (used : List (Nat × Pte)) : State :=
  if used.isEmpty then s
  else
    let c := s.cluster (core / 8)
    let new := used.foldl (fun (l : List TlbLeaf) (g, p) =>
      { fn := fn, gpage := g, leaf := (p.marked false).val, level := p.level } ::
        l.filter (fun x => !(x.fn == fn && x.gpage == g))) c.leaves
    s.setCluster (core / 8) { c with leaves := new.take (8192 - c.tlb.length) }

/-- The held stage-2 leaves of a function's tables that a walk uses: a TLB may have dropped any of them (R401). -/
def State.heldLeaves (s : State) (core fn : Nat) : List TlbLeaf × State :=
  ((s.cluster (core / 8)).leaves.filter (fun x => x.fn == fn)).foldl
    (fun (acc : List TlbLeaf × State) x =>
      let (drop, s1) := acc.2.drawBool
      (if drop then acc.1 else acc.1 ++ [x], s1)) ([], s)

/-- Walk both stages to a page's leaves (R399 to R401): A is set in the table leaves that it walks, the errors of the entries it reads
are met, and the leaves of its tables are held where the walk succeeds. -/
def walkLeaves (s : State) (q : XReq) (va : Nat) : Except WalkFault Leaves × State :=
  let (held, s0) := s.heldLeaves q.core q.fn
  let (r1, tr) := s1Translate s0 q.fn va held
  let s1 := tr.used.foldl (fun s p => s.markPte q.fn p.2 false) (s0.meetPtes q.fn tr.reads)
  match r1 with
  | .error f => (.error f, s1)
  | .ok l1 =>
    let gpa := s1Out l1 va
    let r := rangeOf gpa
    if r.walked then
      let s2 := s1.meetPtes q.fn (s2Trace s0 q.fn gpa r.permOnly)
      match s2Translate s0 q.fn gpa r.permOnly with
      | .error (lv, ty) => (.error ⟨2, lv, ty, false, gpa⟩, s2)
      | .ok l2 => (.ok ⟨l1, some l2, false⟩, s2.fillLeaves q.core q.fn tr.used)
    else (.ok ⟨l1, none, false⟩, s1.fillLeaves q.core q.fn tr.used)

/-- An access by a page's leaves (R397, R400): where it may be made, A, and D for a write, are set in leaves that a walk read, and the
TLBs take the translation. -/
def useLeaves (s : State) (q : XReq) (va : Nat) (acc : Acc) (x : Leaves) : XResult :=
  match combine s q va acc x.l1 x.l2 with
  | .error f => (.error (xlatFault va acc f), s)
  | .ok y =>
    let d := acc.writes
    let t := tlbOf q.fn va (s1Out x.l1 va) (x.l1.marked d) (x.l2.map (·.marked d))
    if x.held then (.ok y, if (s.core q.core).tlb.any (fun u => u == t) then s else s.fillTlb q.core t)
    else
      let s1 := s.markPte q.fn x.l1 d
      let s2 := match x.l2 with | some p => s1.markPte q.fn p d | none => s1
      (.ok { y with dirty := y.dirty || d }, (s2.fillTlb q.core t).fillL2 q.core t)

/-- Walk both stages for an access. -/
def walkBoth (s : State) (q : XReq) (va : Nat) (acc : Acc) : XResult :=
  match walkLeaves s q va with
  | (.error f, s1) => (.error (xlatFault va acc f), s1)
  | (.ok x, s1) => useLeaves s1 q va acc x

/-- The entries that serve an access: of the core's L1 TLB and of its cluster's L2 TLB (R401). -/
def State.tlbHits (s : State) (q : XReq) (va : Nat) (acc : Acc) : List TlbEntry :=
  ((s.core q.core).tlb ++ (s.cluster (q.core / 8)).tlb).filter (fun t => t.serves q.fn va acc)

/-- What a page translates by: its leaves, or the fault of its walk. -/
abbrev PageXlat := Except WalkFault Leaves

/-- The leaves of a page for an access: a TLB entry that serves it, or a walk, since any entry may have been dropped (R401). -/
def pageXlat (s : State) (q : XReq) (va : Nat) (acc : Acc) : PageXlat × State :=
  match s.tlbHits q va acc with
  | [] => walkLeaves s q va
  | ts =>
    let (n, s1) := s.drawPick (ts.length + 1)
    match ts[n]? with
    | some t => (.ok t.leaves, s1)
    | none => walkLeaves s1 q va

/-- A fault of a page's walk, at another address of the page. -/
def WalkFault.at (f : WalkFault) (va : Nat) : WalkFault :=
  if f.stage == 2 && !f.tab then { f with gpa := f.gpa / 65536 * 65536 + va % 65536 } else f

/-- Translate an access by its page's leaves. -/
def translateBy (s : State) (q : XReq) (va : Nat) (acc : Acc) (p : PageXlat) : XResult :=
  match p with
  | .error f => (.error (xlatFault va acc (f.at va)), s)
  | .ok x => useLeaves s q va acc x

/-- Translate an access (R397 to R402). -/
def translate (s : State) (q : XReq) (va : Nat) (acc : Acc) : XResult :=
  if 2 ^ 55 ≤ va then (.error (.accessFault, ⟨1, 3, 3, false, acc, va, 0⟩), s)
  else
    let (p, s1) := pageXlat s q va acc
    translateBy s1 q va acc p

/-- The pages that one instruction has translated, by page and access: its lanes on one page use one translation (R402). -/
abbrev PageMemo := List (Nat × Acc × PageXlat)

/-- The leaves as an access that was made leaves them. -/
def Leaves.after (x : Leaves) (d : Bool) : Leaves := if x.held then x else ⟨x.l1.marked d, x.l2.map (·.marked d), true⟩

/-- Translate an access of one instruction (R402). -/
def translateMemo (s : State) (m : PageMemo) (q : XReq) (va : Nat) (acc : Acc) : XResult × PageMemo :=
  if 2 ^ 55 ≤ va then (translate s q va acc, m)
  else
    let (p, s1) := match m.find? (fun y => y.1 == va / 65536 && (y.2.1 == acc || acc == .read)) with
      | some y => (y.2.2, s)
      | none => pageXlat s q va acc
    let r := translateBy s1 q va acc p
    let p1 := match p, r.1 with
      | .ok x, .ok _ => .ok (x.after acc.writes)
      | p, _ => p
    (r, (va / 65536, acc, p1) :: m)

/-- The host address of a place; none for the notify and fabric apertures. -/
def Place.host (p : Place) (s : State) (blk : Option Nat) : Option Nat :=
  match p with
  | .hbm a => some a
  | .slice c off => some (sliceAddr c off)
  | .localScr off => blk.map (fun b => sliceAddr (s.coreOf b) ((s.block b).scrBase + off))
  | .notify .. => none
  | .fabric .. => none

/-- The requester of a wave's access. -/
def State.xreq (s : State) (blk : Nat) : XReq := { fn := (s.block blk).fn, blk := some blk, core := s.coreOf blk }

/-- Translate a local guest PA through stage 2 alone, as the engines that hold guest PAs do (R353, R372). -/
def s2Host (s : State) (fn gpa : Nat) (acc : Acc) : Except (Nat × Nat) Nat :=
  match rangeOf gpa with
  | .hbm =>
    match s2Translate s fn gpa false with
    | .error f => .error f
    | .ok p =>
      if !acc.allowed (pteR p.val) (pteW p.val) (pteX p.val) then .error (3, 1)
      else if !s.stackReady (leafOut p gpa) then .error (3, 3)
      else .ok (leafOut p gpa)
  | .slice n off =>
    match s2Translate s fn gpa true with
    | .error f => .error f
    | .ok p =>
      if acc.allowed (pteR p.val) (pteW p.val) (pteX p.val) then
        match s.physCore fn n with
        | none => .error (3, 3)
        | some c => if s.lent (c / 8) || decide (s.scratchShare c ≤ off) then .error (3, 3) else .ok (sliceAddr c off)
      else .error (3, 1)
  | _ => .error (3, 3)

end Sys2Proof.Machine
end

