-- ==== Sys2Proof/Machine/Send.lean ====
section
/-!
DEFINITION. Sys2Proof/Machine/Send.lean: the VDN table (R456, R457), packets handed to the port engine or looped back, and the requests
of remote memory accesses (R459).
-/

namespace Sys2Proof.Machine

open Host

/-! ### The VDN table (R456, R457) -/

/-- The triple an entry names. -/
def vdnTriple (e : DWord) : Triple :=
  { grp := e.toNat / 2 % 4096, mem := e.toNat / 2 ^ 13 % 32, func := e.toNat / 2 ^ 18 % 64 }

/-- RCLS and TC of an entry. -/
def vdnRcls (e : DWord) : Nat := e.toNat / 2 ^ 24 % 4
def vdnTc (e : DWord) : Nat := e.toNat / 2 ^ 26 % 4

/-- A malformed entry (R456). -/
def vdnMalformed (e : DWord) : Bool := vdnRcls e == 3 || decide (e.toNat / 2 ^ 28 ≠ 0)

/-- An entry that names a peer: valid and not malformed. -/
def vdnOk (e : DWord) : Bool := e.getLsbD 0 && !vdnMalformed e

/-- The host PA of an entry. -/
def State.vdnAddr (s : State) (fn v : Nat) : Nat := (s.fn fn).vdnbase.toNat / 2 ^ 16 % 2 ^ 36 * 2 ^ 16 + 8 * (v % 2 ^ 15)

/-- An entry as the table holds it. -/
def State.vdnEntry (s : State) (fn v : Nat) : DWord := s.dwordAt (s.vdnAddr fn v)

/-- Look an entry up: until a sync completes, a cached entry may serve (R457). -/
def State.vdnLookup (s : State) (fn v : Nat) : DWord × State :=
  let new := s.vdnEntry fn v
  let keep (s : State) : State := s.setFn fn { s.fn fn with vdnCache := (s.fn fn).vdnCache.set v new }
  match (s.fn fn).vdnCache.get? v with
  | none => (new, keep s)
  | some old =>
    if old = new then (old, s)
    else
      let (use, s1) := s.drawBool
      if use then (old, s1) else (new, keep s1)

/-- A function's own triple. -/
def State.ownTriple (s : State) (fn : Nat) : Triple := { grp := s.grp, mem := s.member, func := fn }

/-- A triple names a function of this module. -/
def State.isHere (s : State) (t : Triple) : Bool := t.grp == s.grp && t.mem == s.member

/-- The function's valid entries, by VDN (R456). -/
def State.vdnEntries (s : State) (fn : Nat) : List (Nat × DWord) :=
  let b := s.vdnAddr fn 0
  let vs := (s.mem.filter (fun (a, _) => decide (b ≤ a) && decide (a < b + 262144))).map (fun (a, _) => (a - b) / 8)
  (vs.eraseDups.map (fun v => (v, s.vdnEntry fn v))).filter (fun (_, e) => vdnOk e)

/-- A function's table names a triple (R458). -/
def State.names (s : State) (fn : Nat) (t : Triple) : Bool := (s.vdnEntries fn).any (fun (_, e) => vdnTriple e == t)

/-- A malformed entry is reported (R467). -/
def State.vdnBad (s : State) (fn v : Nat) : State := s.event [fn] fn 0x44 0 0 (BitVec.ofNat 64 v)

/-! ### Packets -/

/-- A traffic class of a function runs in SPRAY mode (R457). -/
def State.sprayOn (s : State) (fn tc : Nat) : Bool := (s.fn fn).fabctl.getLsbD (16 + tc % 4)

/-- A packet reaches this module. -/
def State.toInbox (s : State) (p : Packet) : State := { s with inbox := s.inbox ++ [{ p with since := s.clock }] }

/-- Hand a packet to the port engine; one for this module is looped back (R456). -/
def State.send (s : State) (p : Packet) : State :=
  if s.isHere p.dst then s.toInbox p else { s with egress := s.egress ++ [{ p with since := s.clock }] }

/-- Answer a packet: the answer goes back to its source, on a minimal route (R495). -/
def State.answerTo (s : State) (p : Packet) (b : Body) : State :=
  s.send { dst := p.src, src := p.dst, tc := p.tc, msgid := p.msgid, seq := p.seq, body := b, fresh := true }

/-! ### Messages under way (R460) -/

/-- A message under way. -/
def State.msg? (s : State) (fn id : Nat) : Option OutMsg := s.msgs.find? (fun m => m.fn == fn && m.id == id)

/-- Change a message under way. -/
def State.onMsg (s : State) (fn id : Nat) (f : OutMsg → OutMsg) : State :=
  { s with msgs := s.msgs.map (fun m => if m.fn == fn && m.id == id then f m else m) }

/-- A message's outcome, the first that is decided. -/
def State.msgCode (s : State) (fn id code : Nat) : State :=
  s.onMsg fn id (fun m => if m.code.isSome then m else { m with code := some code })

/-! ### Remote accesses (R459) -/

/-- The request of an access; `who` names the wave for LR and SC (R117). -/
def Access.request (a : Access) (who : Nat) (holds : Bool) : Body :=
  match a.kind with
  | .load n _ => .read n
  | .store bs p => .write bs p
  | .atom aop n op op2 p1 p2 => .atomic aop n op op2 p1 p2
  | .waitw n .. => .read n
  | .lr n => .lr n who
  | .sc bs p => .sc bs p who holds

/-- Change an access of a wave. -/
def State.onAccess (s : State) (blk wave id : Nat) (f : Access → Access) : State :=
  let w := s.wave blk wave
  s.setWave blk wave { w with acc := w.acc.map (fun a => if a.id == id then f a else a) }

/-- The access's request has left its source: its remote timeout runs from now on (R459, R495). -/
def State.accessLeft (s : State) (blk wave id : Nat) : State := s.onAccess blk wave id (fun a => { a with held := false, sentAt := s.clock })

/-- In a SPRAY class a request waits for those before it from the core to the line (R459). -/
def State.lineBusy (s : State) (a : Access) (v off : Nat) : Bool :=
  s.blocks.any (fun (_, b) => b.waves.any (fun (_, w) => w.acc.any (fun x =>
    x.core == a.core && decide (x.id < a.id) && (match x.remote with | some (u, o) => u == v && o / 128 == off / 128 | none => false))))

/-- The number of a wave within its module, for reservations. -/
def waveName (blk wave : Nat) : Nat := blk * 64 + wave

/-- Send the request of a remote access (R459): an entry that names no peer gives UNREACHABLE. -/
def State.sendAccess (s : State) (blk wave : Nat) (a : Access) : State :=
  match a.remote with
  | none => s
  | some (v, off) =>
    let fn := (s.block blk).fn
    let (e, s1) := s.vdnLookup fn v
    let own := s1.ownTriple fn
    if !vdnOk e then
      let s2 := if vdnMalformed e then s1.vdnBad fn v else s1
      s2.toInbox { dst := own, src := own, msgid := a.id, body := .response 2 [] false }
    else
      let spray := s1.sprayOn fn (vdnTc e)
      if spray && s1.lineBusy a v off then s1
      else
        let w := s1.wave blk wave
        let holds := match a.kind with | .sc bs _ => w.rresv == some (v, off, bs.length) | _ => false
        let p : Packet :=
          { dst := vdnTriple e, src := own, tc := vdnTc e, addr := off, msgid := a.id, rcls := vdnRcls e, spray := spray
            body := a.request (waveName blk wave) holds }
        let s2 := s1.setWave blk wave (match a.kind with
          | .lr _ | .sc .. => { w with resv := none, rresv := none }
          | _ => w)
        let s3 := s2.send p
        if s3.isHere p.dst then s3.accessLeft blk wave a.id else s3

/-- The wave that made a remote access, by the access's number. -/
def State.findAccess (s : State) (fn id : Nat) : Option (Nat × Nat × Access) :=
  s.blocks.findSome? (fun (k, b) =>
    if b.fn != fn then none
    else b.waves.findSome? (fun (i, w) => (w.acc.find? (fun a => a.id == id && a.remote.isSome)).map (fun a => (k, i, a))))

end Sys2Proof.Machine
end

