-- ==== Sys2Proof/Machine/Encoding.lean ====
section
/-!
DEFINITION. Sys2Proof/Machine/Encoding.lean: what each instruction's fields may hold (R49 to R63 and the encoding table
of each engine's chapter), and the opcode of each instruction.

`Instr.shape` gives, for an encoded instruction, which class each operand field holds, which modifier bits the
instruction uses and how it uses the latches; `none` where its FN or its length is not one that R63 lists.  A field the
shape leaves out must be 0 (R57).
-/

namespace Sys2Proof

/-- The class of code an operand field holds (R50, R51). -/
inductive Fld where
  | zero            -- unused: must be 0
  | v | vp | vq     -- one fibre register, an even pair, a quad
  | vgrp (n : Nat)  -- n consecutive fibre registers named by a multiple of n
  | s | sp | sq | s8  -- one uniform register, an even pair, a quad, a group of eight
  | vs | vsp | vsq  -- a fibre or a uniform register, pair, quad
  | vsgrp (n : Nat) -- n consecutive registers of either kind named by a multiple of n
  | code (n : Nat)  -- a code below n (predicate, mask, token, barrier, ring, tile, counter, special register)
  | adv             -- the advance of CALL: even, 2 to 190 (R84)
  | coord           -- s0 to s59, the first of five coordinates (R234)
  deriving DecidableEq, Repr

/-- A code lies in its class. -/
def Fld.holds (f : Fld) (c : Nat) : Bool :=
  match f with
  | .zero => c == 0
  | .v => decide (c < 192)
  | .vp => decide (c < 192) && c % 2 == 0
  | .vq => decide (c < 192) && c % 4 == 0
  | .vgrp n => decide (c < 192) && c % n == 0
  | .s => decide (192 ≤ c)
  | .sp => decide (192 ≤ c) && c % 2 == 0
  | .sq => decide (192 ≤ c) && c % 4 == 0
  | .s8 => decide (192 ≤ c) && c % 8 == 0
  | .vs => true
  | .vsp => c % 2 == 0
  | .vsq => c % 4 == 0
  | .vsgrp n => c % n == 0
  | .code n => decide (c < n)
  | .adv => c % 2 == 0 && decide (2 ≤ c) && decide (c ≤ 190)
  | .coord => decide (192 ≤ c) && decide (c ≤ 251)

/-- How an instruction uses DLT and NWB (R53). -/
inductive Prod where
  | none    -- no v result: DLT and NWB are 0
  | single  -- a 32-bit v result
  | multi   -- a v result of several registers: NWB is 0
  deriving DecidableEq, Repr

/-- Which fields an instruction uses. -/
structure Shape where
  dst : Fld := .zero
  s0 : Fld := .zero
  l0 : Bool := false
  s1 : Fld := .zero
  l1 : Bool := false
  s2 : Fld := .zero
  l2 : Bool := false
  /-- the MOD bits the instruction uses -/
  mods : BitVec 6 := 0
  /-- the EXT23 bits the instruction uses (IMM16 is 0x7FFF80) -/
  ext : BitVec 23 := 0
  /-- IMM32 is used -/
  imm32 : Bool := false
  prod : Prod := .none
  /-- any further condition of the instruction's entry -/
  also : Bool := true
  deriving DecidableEq, Repr

/-- The bits of EXT23 that IMM16 takes (R44). -/
def imm16Mask : BitVec 23 := 0x7FFF80

/-- IMM16, the signed 16-bit immediate (R44). -/
def Enc.imm16 (e : Enc) : BitVec 16 := e.ext.extractLsb' 7 16

/-- A source field with its latch bit lies in its class (R50, R55). -/
def srcHolds (f : Fld) (latch sl : Bool) (c : BitVec 8) : Bool :=
  if sl then latch && decide (c.toNat < 4) else f.holds c.toNat

/-- The fields of an encoding fit a shape (R57): every code in its class and every unused field 0. -/
def Shape.fits (h : Shape) (e : Enc) : Bool :=
  h.dst.holds e.dst.toNat &&
  srcHolds h.s0 h.l0 e.sl0 e.src0 &&
  srcHolds h.s1 h.l1 e.sl1 e.src1 &&
  srcHolds h.s2 h.l2 e.sl2 e.src2 &&
  e.mod &&& ~~~h.mods == 0 &&
  e.ext &&& ~~~h.ext == 0 &&
  (h.imm32 || e.imm32 == 0) &&
  (match h.prod with
    | .none => e.dlt == 0 && !e.nwb
    | .single => true
    | .multi => !e.nwb) &&
  h.also

/-- The fields of R44 that the length does not have hold 0. -/
def Enc.lenOk (e : Enc) : Bool :=
  match e.len with
  | .l64 => !e.sl2 && e.src2 == 0 && e.ext == 0 && e.imm32 == 0
  | .l96 => e.imm32 == 0
  | .l128 => true

/-- Choose the shape of each length; a length the instruction does not have has no shape. -/
def byLen (e : Enc) (a b c : Option Shape) : Option Shape :=
  match e.len with
  | .l64 => a
  | .l96 => b
  | .l128 => c

/-- A shape that stands only where a condition on FN holds. -/
def onlyIf (b : Bool) (h : Option Shape) : Option Shape := if b then h else none

/-- The 64-bit form takes SRC1, the 96-bit form IMM16 and the 128-bit form IMM32 in its place (R84, R145).
`lo` says what IMM16 may hold and `hi` what IMM32 may hold. -/
def immForms (e : Enc) (h : Shape) (lo hi : Bool) : Option Shape :=
  byLen e (some h)
    (some { h with s1 := .zero, l1 := false, ext := imm16Mask, also := h.also && lo })
    (some { h with s1 := .zero, l1 := false, imm32 := true, also := h.also && hi })

/-! ### Wave sequencer (R84) -/

/-- A branch or call: the target offset is IMM16 or IMM32. -/
def shapeTarget (e : Enc) (h : Shape) : Option Shape :=
  onlyIf (e.fn == 0) (byLen e none (some { h with ext := imm16Mask }) (some { h with imm32 := true }))

/-- An instruction of 64 bits with FN 0. -/
def shape64 (e : Enc) (h : Shape) : Option Shape :=
  onlyIf (e.fn == 0) (byLen e (some h) none none)

/-- Type field FN[5:3] and relation FN[2:0] of the compares (R62). -/
def Enc.cmpType (e : Enc) : Nat := e.fn.toNat / 8
/-- Relation FN[2:0] of the compares (R62). -/
def Enc.cmpRel (e : Enc) : Nat := e.fn.toNat % 8

/-- PCMP (R84, R94). -/
def shapePcmp (e : Enc) : Option Shape :=
  let t := e.cmpType
  let r := e.cmpRel
  let float := decide (2 ≤ t) && decide (t ≤ 4)
  let wide := t == 5 || t == 6
  onlyIf (decide (t ≤ 6) && (decide (r ≤ 5) || (r == 6 && float)))
    (immForms e
      { dst := .code 32, s0 := if wide then .vsp else .vs, l0 := !wide, s1 := if wide then .vsp else .vs, l1 := !wide }
      true (!(t == 3 || t == 4) || e.imm32.extractLsb' 16 16 == 0))

/-- The special registers that exist (R83). -/
def spDefined (c : Nat) : Bool := decide (c ≤ 16) || (decide (24 ≤ c) && decide (c ≤ 31))
/-- The special registers with one value for each fibre (R83). -/
def spFibre (c : Nat) : Bool := c == 0 || c == 7 || c == 15
/-- The 64-bit special registers (R83). -/
def spWide (c : Nat) : Bool := c == 8 || c == 9 || c == 12

/-- GETS (R84, R100). -/
def shapeGets (e : Enc) : Option Shape :=
  let c := e.src0.toNat
  let toV := decide (e.dst.toNat < 192)
  shape64 e
    { dst := if spFibre c then .v else if spWide c then .vsp else .vs
      s0 := .code 64
      prod := if toV then (if spWide c then .multi else .single) else .none
      also := spDefined c }

/-- SETS (R84, R101). -/
def shapeSets (e : Enc) : Option Shape :=
  let c := e.dst.toNat
  onlyIf (e.fn == 0 && (c == 14 || c == 15 || c == 16))
    (byLen e
      (some { dst := .code 64, s0 := if c == 15 then .vs else .s, l0 := c == 15 })
      none
      (some { dst := .code 64, imm32 := true }))

/-- The two-operand uniform instructions (R84). -/
def shapeUni (e : Enc) (dst : Fld) : Option Shape :=
  immForms e { dst := dst, s0 := .s, s1 := .s } true true

/-- SSH (R84, R103). -/
def shapeSsh (e : Enc) : Option Shape :=
  onlyIf (decide (e.fn.toNat < 4))
    (byLen e (some { dst := .s, s0 := .s, s1 := .s })
      (some { dst := .s, s0 := .s, ext := imm16Mask, also := decide (e.imm16.toNat < 32) }) none)

/-! ### Vector engine (R145 to R147) -/

/-- The lane layout of IT is 64 bits wide (R60). -/
def Enc.itWide (e : Enc) : Bool := e.fn == 6 || e.fn == 7
/-- The lane layout of IT is four bytes (R60). -/
def Enc.itByte (e : Enc) : Bool := e.fn == 4 || e.fn == 5

/-- IMM16 of an 8-bit packed type has its high byte 0 (R146). -/
def Enc.immByteOk (e : Enc) : Bool := !e.itByte || decide (e.imm16.toNat < 256)

/-- IADD, ISUB, IMUL, IMIN, IMAX (R145). -/
def shapeInt2 (e : Enc) (mods : BitVec 6) : Option Shape :=
  let x : Fld := if e.itWide then .vsp else .vs
  onlyIf (decide (e.fn.toNat < 8))
    (immForms e
      { dst := if e.itWide then .vp else .v, s0 := x, l0 := !e.itWide, s1 := x, l1 := !e.itWide, mods := mods
        prod := if e.itWide then .multi else .single }
      e.immByteOk true)

/-- IABS and INEG (R145). -/
def shapeInt1 (e : Enc) : Option Shape :=
  let w := e.fn == 6
  onlyIf (e.fn == 0 || e.fn == 2 || e.fn == 4 || e.fn == 6)
    (byLen e (some { dst := if w then .vp else .v, s0 := if w then .vsp else .vs, l0 := !w, mods := 1
                     prod := if w then .multi else .single }) none none)

/-- ISHL, ISHR, IROT (R145). -/
def shapeShift (e : Enc) : Option Shape :=
  let h : Shape :=
    { dst := if e.itWide then .vp else .v, s0 := if e.itWide then .vsp else .vs, l0 := !e.itWide, s1 := .vs, l1 := true
      prod := if e.itWide then .multi else .single }
  onlyIf (decide (e.fn.toNat < 8))
    (byLen e (some h) (some { h with s1 := .zero, l1 := false, ext := imm16Mask, also := e.immByteOk }) none)

/-- RM codes 0 to 4 (R145, R147). -/
def Enc.rmOk (e : Enc) : Bool := decide (e.mod.toNat % 8 < 5)

/-- Three 32-bit sources, the third in the extension word (R145). -/
def shapeTri (mods : BitVec 6) (also : Bool) : Shape :=
  { dst := .v, s0 := .vs, l0 := true, s1 := .vs, l1 := true, s2 := .vs, l2 := true, mods := mods, prod := .single
    also := also }

/-- FADD, FSUB, FMUL (R145). -/
def shapeF2 (e : Enc) : Option Shape :=
  onlyIf (decide (e.fn.toNat < 3))
    (immForms e
      { dst := .v, s0 := .vs, l0 := true, s1 := .vs, l1 := true, mods := 0x1F, prod := .single, also := e.rmOk }
      true (e.fn == 0 || e.imm32.extractLsb' 16 16 == 0))

/-- FFMA (R145). -/
def shapeFfma (e : Enc) : Option Shape :=
  onlyIf (decide (e.fn.toNat < 3))
    (byLen e none (some (shapeTri 0x3F e.rmOk))
      (some { shapeTri 0x3F (e.rmOk && (e.fn == 0 || e.imm32.extractLsb' 16 16 == 0)) with
              s1 := .zero, l1 := false, imm32 := true }))

/-- One 32-bit source, 64 bits long (R145). -/
def shapeV1 (e : Enc) (fnOk : Bool) (mods : BitVec 6) (also : Bool) : Option Shape :=
  onlyIf fnOk (byLen e (some { dst := .v, s0 := .vs, l0 := true, mods := mods, prod := .single, also := also }) none none)

/-- Two 32-bit sources, 64 bits long (R145). -/
def shapeV2 (e : Enc) (fnOk : Bool) (mods : BitVec 6) (also : Bool) : Option Shape :=
  onlyIf fnOk
    (byLen e (some { dst := .v, s0 := .vs, l0 := true, s1 := .vs, l1 := true, mods := mods, prod := .single, also := also })
      none none)

/-- BFE and BFI (R145): the field position is SRC1, or IMM16 where IMMF is 1.  Where IMMF is 0 the instruction leaves IMM16 unused, and a
nonzero one makes the encoding undefined (R57, log 164). -/
def shapeField (e : Enc) (base : Bool) (fnOk : Bool) : Option Shape :=
  let f := e.mod.getLsbD 0
  onlyIf fnOk
    (byLen e none
      (some { dst := .v, s0 := .vs, l0 := true, s1 := if f then .zero else .vs, l1 := !f
              s2 := if base then .vs else .zero, l2 := base, mods := 1, ext := if f then imm16Mask else 0
              prod := .single }) none)

/-- DADD, DMUL, DDIV and, with a third pair, DFMA (R145). -/
def shapeD (e : Enc) (three : Bool) : Option Shape :=
  let h : Shape :=
    { dst := .vp, s0 := .vsp, s1 := .vsp, s2 := if three then .vsp else .zero, mods := if three then 0x3F else 0x1F
      prod := .multi, also := e.rmOk }
  onlyIf (e.fn == 3) (if three then byLen e none (some h) none else byLen e (some h) none none)

/-- DCVT (R63, R145): by FN the destination and the source are one register or a pair. -/
def shapeDcvt (e : Enc) : Option Shape :=
  let f := e.fn.toNat
  let dw := !(f == 1 || f == 6 || f == 7)
  let sw := !(f == 0 || f == 2 || f == 3)
  onlyIf (decide (f < 10))
    (byLen e (some { dst := if dw then .vp else .v, s0 := if sw then .vsp else .vs, l0 := !sw, mods := 7
                     prod := if dw then .multi else .single, also := e.rmOk }) none none)

/-! ### Conversion unit (R188, R189) -/

/-- CVT (R188, R189). -/
def shapeCvt (e : Enc) : Option Shape :=
  let simm := e.ext.getLsbD 8
  let rndOk := decide ((e.mod.toNat / 4) % 8 < 6)
  onlyIf (decide (1 ≤ e.fn.toNat) && decide (e.fn.toNat < 16))
    (byLen e
      (some { dst := .v, s0 := .vs, l0 := true, mods := 0x3F, prod := .single, also := rndOk })
      (some { dst := .v, s0 := .vs, l0 := true, s1 := if simm then .zero else .vs, l1 := !simm, mods := 0x3F
              ext := 0x1FF, prod := .single, also := rndOk })
      none)

/-- The width in bits of an element format code (R61, R174): 0 where the code names none. -/
def fmtBits (f : Nat) : Nat :=
  match f with
  | 1 => 8 | 2 => 8 | 3 => 16 | 4 => 16 | 5 => 32 | 6 => 32 | 7 => 16 | 8 => 16 | 9 => 32
  | 10 => 8 | 11 => 8 | 12 => 6 | 13 => 6 | 14 => 4 | 15 => 2
  | _ => 0

/-- The narrow format codes 0xA to 0xE. -/
def fmtNarrow (f : Nat) : Bool := decide (10 ≤ f) && decide (f ≤ 14)

/-- The number of elements of PCVT (R191). -/
def Enc.pcvtCount (e : Enc) : Nat := 2 ^ e.fn.toNat

/-- The registers of PCVT's packed side (R191). -/
def Enc.pcvtPacked (e : Enc) : Nat :=
  if e.pcvtCount * fmtBits (e.ext.toNat % 16) ≤ 32 then 1 else 2

/-- The registers of PCVT's wide side (R191). -/
def Enc.pcvtWide (e : Enc) : Nat := if e.ext.getLsbD 5 then e.pcvtCount / 2 else e.pcvtCount

/-- PCVT (R188, R189, R191). -/
def shapePcvt (e : Enc) : Option Shape :=
  let d := e.ext.getLsbD 4
  let dn := if d then e.pcvtWide else e.pcvtPacked
  let sn := if d then e.pcvtPacked else e.pcvtWide
  onlyIf (decide (1 ≤ e.fn.toNat) && decide (e.fn.toNat ≤ 3))
    (byLen e none
      (some { dst := .vgrp dn, s0 := .vsgrp sn, l0 := sn == 1, s1 := .vs, l1 := true, mods := 0xF, ext := 0x3F
              prod := if dn == 1 then .single else .multi
              also := fmtNarrow (e.ext.toNat % 16) && decide (e.mod.toNat % 8 < 6) })
      none)

/-- SCALEQ (R188, R189, R192). -/
def shapeScaleq (e : Enc) : Option Shape :=
  onlyIf (decide (e.fn.toNat < 3))
    (byLen e (some { dst := .v, s0 := if e.fn == 2 then .vp else .v, mods := 0xF, prod := .single
                     also := fmtNarrow e.mod.toNat }) none none)

/-- TQUANT (R188, R193). -/
def shapeTquant (e : Enc) : Option Shape :=
  onlyIf (e.fn == 0)
    (byLen e none (some { dst := .v, s0 := .vsgrp 4, s1 := .vs, l1 := true, s2 := .vs, l2 := true, ext := 3, prod := .single })
      none)

/-- DT of LDX and STX, EXT23[6:5]. -/
def Enc.dt (e : Enc) : Nat := e.ext.toNat / 32 % 4

/-- The registers of an LDX or STX group (R194). -/
def Enc.dtRegs (e : Enc) : Nat := if e.dt == 0 || e.dt == 3 then 4 else 2

/-- LDX (R188, R194). -/
def shapeLdx (e : Enc) : Option Shape :=
  let st := e.fn.getLsbD 4
  let idx := e.mod.getLsbD 0
  let sq : BitVec 23 := if st then 0x7F else 0x60
  let h : Shape :=
    { dst := .vgrp e.dtRegs, s0 := .vsp, s1 := if idx then .vs else .zero, l1 := idx, mods := 0x1F
      prod := .multi }
  onlyIf (decide (e.fn.toNat < 32))
    (byLen e none (some { h with ext := imm16Mask ||| sq }) (some { h with ext := sq, imm32 := true }))

/-- STX (R188, R194). -/
def shapeStx (e : Enc) : Option Shape :=
  let st := e.fn.getLsbD 4
  let sq : BitVec 23 := if st then 0x7F else 0x60
  let h : Shape :=
    { dst := if st then .v else .zero, s0 := .vsp, s1 := .vsgrp e.dtRegs, mods := 0x2F
      prod := if st then .single else .none, also := decide (e.mod.toNat % 8 < 6) }
  onlyIf (decide (e.fn.toNat < 32))
    (byLen e none (some { h with ext := imm16Mask ||| sq }) (some { h with ext := sq, imm32 := true }))

/-! ### Memory engine (R110) -/

/-- SZ of the memory engine, FN[2:0] (R63). -/
def Enc.sz (e : Enc) : Nat := e.fn.toNat % 8
/-- The `.ST` bit FN[4] of the loads and stores (R63). -/
def Enc.stForm (e : Enc) : Bool := e.fn.getLsbD 4

/-- A fibre register, pair or quad by SZ. -/
def szV (z : Nat) : Fld := if z == 4 then .vq else if z == 3 then .vp else .v
/-- A uniform register, pair or quad by SZ. -/
def szS (z : Nat) : Fld := if z == 4 then .sq else if z == 3 then .sp else .s
/-- A register of either kind, pair or quad by SZ. -/
def szVS (z : Nat) : Fld := if z == 4 then .vsq else if z == 3 then .vsp else .vs
/-- The latch use of a v result by SZ (R110). -/
def szProd (z : Nat) : Prod := if z == 3 || z == 4 then .multi else .single

/-- The offset and status predicate of a memory instruction (R110): EXT23[4:0] is SQ only in a `.ST` form. -/
def memForms (e : Enc) (st : Bool) (h : Shape) : Option Shape :=
  let sq : BitVec 23 := if st then 0x1F else 0
  byLen e (if st then none else some h)
    (some { h with ext := imm16Mask ||| sq }) (some { h with ext := sq, imm32 := true })

/-- LD (R110). -/
def shapeLd (e : Enc) : Option Shape :=
  let i := e.mod.getLsbD 0
  onlyIf (decide (e.sz ≤ 4) && (!e.fn.getLsbD 3 || decide (e.sz ≤ 1)) && !e.fn.getLsbD 5)
    (memForms e e.stForm
      { dst := szV e.sz, s0 := .vsp, s1 := if i then .vs else .zero, l1 := i, mods := 0x1F, prod := szProd e.sz })

/-- ST (R110). -/
def shapeSt (e : Enc) : Option Shape :=
  onlyIf (decide (e.sz ≤ 4) && !e.fn.getLsbD 3 && !e.fn.getLsbD 5)
    (memForms e e.stForm
      { dst := if e.stForm then .v else .zero, s0 := .vsp, s1 := szVS e.sz, l1 := decide (e.sz ≤ 2), mods := 0x20
        prod := if e.stForm then .single else .none })

/-- LDU (R110). -/
def shapeLdu (e : Enc) : Option Shape :=
  onlyIf (decide (2 ≤ e.sz) && decide (e.sz ≤ 4) && !e.fn.getLsbD 3 && !e.fn.getLsbD 5)
    (memForms e e.stForm
      { dst := szS e.sz, s0 := .sp, s1 := if e.mod.getLsbD 0 then .s else .zero, mods := 0x1F })

/-- LDB (R110). -/
def shapeLdb (e : Enc) : Option Shape :=
  onlyIf (decide (2 ≤ e.sz) && decide (e.sz ≤ 4) && !e.fn.getLsbD 3 && !e.fn.getLsbD 5)
    (memForms e e.stForm
      { dst := szV e.sz, s0 := .sp, s1 := if e.mod.getLsbD 0 then .s else .zero, mods := 0x1F
        prod := szProd e.sz })

/-- STB (R110). -/
def shapeStb (e : Enc) : Option Shape :=
  onlyIf (decide (2 ≤ e.sz) && decide (e.sz ≤ 4) && !e.fn.getLsbD 3 && !e.fn.getLsbD 5)
    (memForms e e.stForm
      { dst := if e.stForm then .v else .zero, s0 := .sp, s1 := szV e.sz, l1 := e.sz == 2, mods := 0x20
        prod := if e.stForm then .single else .none })

/-- AOP of ATOM and RED, FN[3:0] (R63). -/
def Enc.aop (e : Enc) : Nat := e.fn.toNat % 16

/-- ATOM (R110, R63): CAS takes SRC2 and exists at 96 and 128 bits; FADD is a word operation. -/
def shapeAtom (e : Enc) : Option Shape :=
  let w := !e.fn.getLsbD 4
  let st := e.fn.getLsbD 5
  let cas := e.aop == 9
  let x : Fld := if w then .vs else .vsp
  let h : Shape :=
    { dst := if w then .v else .vp, s0 := .vsp, s1 := x, l1 := w, s2 := if cas then x else .zero, l2 := cas && w
      mods := 0x30, prod := if w then .single else .multi }
  onlyIf (decide (e.aop ≤ 12) && (e.aop != 10 || w) && !(cas && e.len == .l64)) (memForms e st h)

/-- RED (R110, R63). -/
def shapeRed (e : Enc) : Option Shape :=
  let w := !e.fn.getLsbD 4
  let st := e.fn.getLsbD 5
  onlyIf (decide (e.aop ≤ 12) && e.aop != 8 && e.aop != 9 && (e.aop != 10 || w))
    (memForms e st
      { dst := if st then .v else .zero, s0 := .vsp, s1 := if w then .vs else .vsp, l1 := w, mods := 0x20
        prod := if st then .single else .none })

/-- LR, SC and WAITW take SZ 2 or 3 and lengths 64 and 96 (R63). -/
def lrForms (e : Enc) (h : Shape) : Option Shape :=
  onlyIf ((e.sz == 2 || e.sz == 3) && !e.fn.getLsbD 3 && !e.fn.getLsbD 5 && e.len != .l128) (memForms e e.stForm h)

/-- LR (R110). -/
def shapeLr (e : Enc) : Option Shape := lrForms e { dst := szS e.sz, s0 := .vsp, mods := 0x10 }
/-- SC (R110). -/
def shapeSc (e : Enc) : Option Shape := lrForms e { dst := .s, s0 := .vsp, s1 := szVS e.sz, mods := 0x20 }
/-- WAITW (R110). -/
def shapeWaitw (e : Enc) : Option Shape :=
  lrForms e { dst := szV e.sz, s0 := .vsp, s1 := szVS e.sz, l1 := e.sz == 2, mods := 0x10, prod := szProd e.sz }

/-- PREF (R110). -/
def shapePref (e : Enc) : Option Shape :=
  let i := e.mod.getLsbD 0
  onlyIf (decide (e.fn.toNat < 2))
    (memForms e false { s0 := .vsp, s1 := if i then .vs else .zero, l1 := i, mods := 0xF })

/-! ### Sync unit (R210) -/

/-- An IMM16 that is 1 to 33 (R210). -/
def Enc.immCount (e : Enc) : Bool := decide (1 ≤ e.imm16.toNat) && decide (e.imm16.toNat ≤ 33)

/-- BARINIT, ARRIVE, ARRIVEX (R210): SRC1 in the 64-bit form, IMM16 in the 96-bit form. -/
def shapeBar (e : Enc) (s1 : Fld) (immOk : Bool) : Option Shape :=
  onlyIf (e.fn == 0)
    (byLen e (some { s0 := .code 128, s1 := s1 }) (some { s0 := .code 128, ext := imm16Mask, also := immOk }) none)

/-- WAITB and TESTB (R210): with PS the parity is read from SRC1. -/
def shapeWaitb (e : Enc) (fnOk : Bool) (dst : Fld) : Option Shape :=
  let ps := e.mod.getLsbD 1
  onlyIf fnOk
    (byLen e (some { dst := dst, s0 := .code 128, s1 := if ps then .s else .zero, mods := 3 }) none none)

/-- RINIT (R210). -/
def shapeRinit (e : Enc) : Option Shape :=
  let ns := e.ext.toNat / 16 % 256
  let ok := decide (e.ext.toNat % 16 ≤ 10) && ns != 0 && (e.ext.getLsbD 19 || e.ext.toNat / 4096 % 128 == 0)
  onlyIf (e.fn == 0)
    (byLen e none (some { s0 := .code 32, s1 := .s, ext := 0x0FFFFF, also := ok })
      (some { s0 := .code 32, ext := 0x0FFFFF, imm32 := true, also := ok }))

/-! ### Copy engine (R234) -/

/-- An address pair, or a scratch offset register where the local bit is set (R234). -/
def locFld (loc : Bool) : Fld := if loc then .s else .sp

/-- CPY (R234). -/
def shapeCpy (e : Enc) : Option Shape :=
  let h : Shape := { s0 := locFld (e.mod.getLsbD 3), s1 := locFld (e.mod.getLsbD 4), mods := 0x1F }
  onlyIf (e.fn == 0) (byLen e none (some { h with s2 := .s }) (some { h with imm32 := true }))

/-- CPYT (R234). -/
def shapeCpyt (e : Enc) (st : Bool) : Option Shape :=
  let bar := e.mod.getLsbD 3
  let ring := e.mod.getLsbD 4
  onlyIf (e.fn == (if st then 1 else 0))
    (byLen e none
      (some { s0 := .sp, s1 := .coord, s2 := if ring then .code 32 else .s
              mods := if st then 7 else if bar then 8 else if ring then 0x10 else 0x1F
              ext := if bar then 0x7F else 0 })
      none)

/-- CPYR (R234). -/
def shapeCpyr (e : Enc) : Option Shape :=
  let ring := e.mod.getLsbD 2
  onlyIf (e.fn == 0)
    (byLen e none
      (some { s0 := if ring then .code 32 else locFld (e.mod.getLsbD 0), s1 := locFld (e.mod.getLsbD 1), s2 := .s
              mods := if ring then 6 else 7, ext := if ring then 0 else 0x7F })
      none)

/-- CPYS (R234). -/
def shapeCpys (e : Enc) : Option Shape :=
  onlyIf (e.fn == 0) (byLen e none (some { s0 := .sp, s1 := .s, s2 := .s, mods := 0xF, ext := 0x1F }) none)

/-! ### Matrix stream (R250, R262) -/

/-- A stream instruction is unguarded (R250). -/
def Enc.plain (e : Enc) : Bool := e.prd == 31 && !e.pneg

/-- MMA and MMAT (R262). -/
def shapeMma (e : Enc) (even : Bool) : Option Shape :=
  onlyIf (e.fn == 0)
    (byLen e none
      (some { dst := .code 32, s0 := .code 32, s1 := .code 32, mods := 0x1F, ext := 0xFFFF
              also := e.plain && e.src0 != e.src1 && (!even || e.dst.toNat % 2 == 0) })
      none)

/-- MSTX (R262). -/
def shapeMstx (e : Enc) : Option Shape :=
  onlyIf (decide (1 ≤ e.fn.toNat) && decide (e.fn.toNat ≤ 14))
    (byLen e none
      (some { dst := .code 32, s0 := .code 32, mods := 0x1F, ext := 0xFF
              also := e.plain && decide (e.mod.toNat % 8 < 5) }) none)

/-- MBRA (R262). -/
def shapeMbra (e : Enc) (nz : Bool) : Option Shape :=
  onlyIf (e.fn == (if nz then 1 else 0))
    (byLen e none (some { s0 := if nz then .code 4 else .zero, ext := imm16Mask, also := e.plain }) none)

/-- MXRD and MXWR (R262): the tile form and the state form by MOD[0]. -/
def shapeMx (e : Enc) (dst s0 : Fld) (state : Bool) : Option Shape :=
  onlyIf (e.mod.getLsbD 0 == state)
    (shape64 e { dst := dst, s0 := s0, s1 := .s, mods := 1 })

/-! ### Stack, task, speculation, trap, dispatcher and fabric engines -/

/-- SMV and SMVB (R284). -/
def shapeSmv (e : Enc) (nonzero : Bool) : Option Shape :=
  onlyIf (e.fn == 0)
    (byLen e none
      (some { dst := .s, s0 := .s, s1 := .s, s2 := .s, mods := 0xF, ext := 0x7FFFFF
              also := !nonzero || e.imm16 != 0 }) none)

/-- SMVCFG (R284). -/
def shapeSmvcfg (e : Enc) : Option Shape :=
  onlyIf (e.fn == 0)
    (byLen e none (some { dst := .code 4, s0 := .sp, ext := imm16Mask }) (some { dst := .code 4, s0 := .sp, imm32 := true }))

/-- TSPAWN (R300). -/
def shapeTspawn (e : Enc) (ord : Bool) : Option Shape :=
  let h : Shape := { dst := .s, s0 := .s8, s1 := if ord then .sp else .zero, mods := if ord then 3 else 0 }
  onlyIf (e.fn == (if ord then 1 else 0))
    (byLen e none (some { h with ext := imm16Mask }) (some { h with imm32 := true }))

/-- TEXIT (R300). -/
def shapeTexit (e : Enc) : Option Shape :=
  let r := e.mod.getLsbD 0
  shape64 e { s0 := if r then .sp else .zero, s1 := if r then .sp else .zero, mods := 1 }

/-- FRESOLVE and FPOISON (R300). -/
def shapeFres (e : Enc) (s1 : Fld) : Option Shape :=
  onlyIf (e.fn == 0 || e.fn == 1)
    (byLen e (some { dst := if e.fn == 1 then .code 32 else .zero, s0 := .sp, s1 := s1 }) none none)

/-- RBEGIN (R338). -/
def shapeRbegin (e : Enc) (ser : Bool) : Option Shape :=
  onlyIf (e.fn == (if ser then 1 else 0)) (byLen e (some { dst := .code 32 }) none none)

/-- TDEFER (R338). -/
def shapeTdefer (e : Enc) : Option Shape :=
  onlyIf (e.fn == 0) (byLen e (some {}) (some { dst := .code 32, ext := imm16Mask }) none)

/-- TRAP (R364). -/
def shapeTrap (e : Enc) : Option Shape :=
  onlyIf (e.fn == 0) (byLen e (some { s0 := .s }) (some { ext := imm16Mask }) none)

/-- HOSTCALL (R364). -/
def shapeHostcall (e : Enc) (wait : Bool) : Option Shape :=
  let h : Shape := { dst := if wait then .sp else .zero, s0 := .sp, mods := 1 }
  onlyIf (e.fn == 0 && e.mod.getLsbD 0 == wait)
    (byLen e (some { h with s1 := .s }) (some { h with ext := imm16Mask }) none)

/-- PHASE (R387). -/
def shapePhase (e : Enc) : Option Shape :=
  onlyIf (e.fn == 0)
    (byLen e (some { s0 := if e.mod.getLsbD 0 then .s else .zero, mods := 1 }) (some { ext := imm16Mask }) none)

/-- WRARM, CNTADD and CNTWAIT (R469): a pair in the 64-bit form, IMM16 in the 96-bit form. -/
def shapeCnt (e : Enc) (dst : Fld) : Option Shape :=
  byLen e (some { dst := dst, s0 := .s, s1 := .sp }) (some { dst := dst, s0 := .s, ext := imm16Mask }) none

/-- COLL (R469). -/
def shapeColl (e : Enc) (f : BitVec 6) : Option Shape :=
  onlyIf (e.fn == f) (byLen e none (some { s0 := .sp }) none)

namespace Instr

/-- The opcode and the fields of an encoded instruction (R63); `none` for a step of an engine. -/
def form (i : Instr) : Option (BitVec 8 × Enc) :=
  match i with
  | .nop e => some (0x00, e)
  | .bra e => some (0x01, e)
  | .brx e => some (0x02, e)
  | .call e => some (0x03, e)
  | .ret e => some (0x04, e)
  | .exit e => some (0x05, e)
  | .fork e => some (0x06, e)
  | .quit e => some (0x07, e)
  | .split e => some (0x08, e)
  | .join e => some (0x09, e)
  | .drop e => some (0x0A, e)
  | .yield e => some (0x0B, e)
  | .pcmp e => some (0x0C, e)
  | .plog e => some (0x0D, e)
  | .pmov e => some (0x0E, e)
  | .pmovRd e => some (0x0E, e)
  | .pmovWr e => some (0x0E, e)
  | .pldm e => some (0x0F, e)
  | .voteSome e => some (0x10, e)
  | .voteEvery e => some (0x10, e)
  | .voteMask e => some (0x10, e)
  | .voteSame e => some (0x10, e)
  | .gets e => some (0x11, e)
  | .sets e => some (0x12, e)
  | .sadd e => some (0x13, e)
  | .ssub e => some (0x14, e)
  | .smul e => some (0x15, e)
  | .slog e => some (0x16, e)
  | .ssh e => some (0x17, e)
  | .scmp e => some (0x18, e)
  | .smov e => some (0x19, e)
  | .sli e => some (0x1A, e)
  | .launch e => some (0x1C, e)
  | .schsel e => some (0x1D, e)
  | .gangwait e => some (0x1E, e)
  | .phase e => some (0x1F, e)
  | .iadd e => some (0x20, e)
  | .isub e => some (0x21, e)
  | .imul e => some (0x22, e)
  | .imulh e => some (0x23, e)
  | .imad e => some (0x24, e)
  | .imin e => some (0x25, e)
  | .imax e => some (0x26, e)
  | .iabs e => some (0x27, e)
  | .ineg e => some (0x28, e)
  | .idp4 e => some (0x29, e)
  | .ishl e => some (0x2A, e)
  | .ishr e => some (0x2B, e)
  | .irot e => some (0x2C, e)
  | .bitfn e => some (0x2D, e)
  | .popc e => some (0x2E, e)
  | .clz e => some (0x2F, e)
  | .brev e => some (0x30, e)
  | .bfe e => some (0x31, e)
  | .bfi e => some (0x32, e)
  | .sel e => some (0x33, e)
  | .mov e => some (0x34, e)
  | .movi e => some (0x35, e)
  | .fadd e => some (0x38, e)
  | .fsub e => some (0x39, e)
  | .fmul e => some (0x3A, e)
  | .ffma e => some (0x3B, e)
  | .fmin e => some (0x3C, e)
  | .fmax e => some (0x3D, e)
  | .fabs e => some (0x3E, e)
  | .fneg e => some (0x3F, e)
  | .frnd e => some (0x40, e)
  | .fcls e => some (0x41, e)
  | .frcp e => some (0x42, e)
  | .frsq e => some (0x43, e)
  | .fsqrt e => some (0x44, e)
  | .fex2 e => some (0x45, e)
  | .flg2 e => some (0x46, e)
  | .fsin e => some (0x47, e)
  | .fcos e => some (0x48, e)
  | .hadd2 e => some (0x49, e)
  | .hmul2 e => some (0x4A, e)
  | .hfma2 e => some (0x4B, e)
  | .hmin2 e => some (0x4C, e)
  | .hmax2 e => some (0x4D, e)
  | .bperm e => some (0x4E, e)
  | .nlut e => some (0x4F, e)
  | .shfl e => some (0x50, e)
  | .lscan e => some (0x51, e)
  | .lred e => some (0x52, e)
  | .dadd e => some (0x58, e)
  | .dmul e => some (0x59, e)
  | .dfma e => some (0x5A, e)
  | .ddiv e => some (0x5B, e)
  | .dcvt e => some (0x5C, e)
  | .cvt e => some (0x60, e)
  | .pcvt e => some (0x61, e)
  | .scaleq e => some (0x62, e)
  | .tquant e => some (0x63, e)
  | .ldx e => some (0x64, e)
  | .stx e => some (0x65, e)
  | .srseed e => some (0x66, e)
  | .ld e => some (0x70, e)
  | .st e => some (0x71, e)
  | .ldu e => some (0x72, e)
  | .ldb e => some (0x73, e)
  | .stb e => some (0x74, e)
  | .atom e => some (0x75, e)
  | .red e => some (0x76, e)
  | .lr e => some (0x77, e)
  | .sc e => some (0x78, e)
  | .acq e => some (0x79, e)
  | .rel e => some (0x7A, e)
  | .fence e => some (0x7B, e)
  | .waitw e => some (0x7C, e)
  | .pref e => some (0x7D, e)
  | .barinit e => some (0x90, e)
  | .arrive e => some (0x91, e)
  | .arrivex e => some (0x92, e)
  | .waitb e => some (0x93, e)
  | .testb e => some (0x94, e)
  | .barinv e => some (0x95, e)
  | .rinit e => some (0x96, e)
  | .rpush e => some (0x97, e)
  | .rpop e => some (0x98, e)
  | .rdoneFill e => some (0x99, e)
  | .rdoneFree e => some (0x99, e)
  | .rpeek e => some (0x9A, e)
  | .rstat e => some (0x9B, e)
  | .cpy e => some (0xA0, e)
  | .cpytLd e => some (0xA1, e)
  | .cpytSt e => some (0xA1, e)
  | .cpyr e => some (0xA2, e)
  | .cpys e => some (0xA3, e)
  | .seal e => some (0xA4, e)
  | .waitk e => some (0xA5, e)
  | .testk e => some (0xA6, e)
  | .cpyq e => some (0xA7, e)
  | .mma e => some (0xB0, e)
  | .mmat e => some (0xB1, e)
  | .mzero e => some (0xB2, e)
  | .mldx e => some (0xB3, e)
  | .mstx e => some (0xB4, e)
  | .mwaitb e => some (0xB5, e)
  | .marrive e => some (0xB6, e)
  | .mloop e => some (0xB7, e)
  | .mbra e => some (0xB8, e)
  | .mbraNz e => some (0xB8, e)
  | .mend e => some (0xB9, e)
  | .myield e => some (0xBA, e)
  | .mxrd e => some (0xBB, e)
  | .mxrdS e => some (0xBB, e)
  | .mxwr e => some (0xBC, e)
  | .mxwrS e => some (0xBC, e)
  | .smv e => some (0xC0, e)
  | .smvb e => some (0xC1, e)
  | .smvcfg e => some (0xC2, e)
  | .smvq e => some (0xC3, e)
  | .smvcan e => some (0xC4, e)
  | .tspawn e => some (0xC8, e)
  | .tspawnOrd e => some (0xC8, e)
  | .texit e => some (0xC9, e)
  | .taff e => some (0xCA, e)
  | .fnew e => some (0xCB, e)
  | .fresolve e => some (0xCC, e)
  | .fpoison e => some (0xD0, e)
  | .fawait e => some (0xCD, e)
  | .fjoin2 e => some (0xCE, e)
  | .fget e => some (0xCF, e)
  | .odom e => some (0xD4, e)
  | .cdom e => some (0xD5, e)
  | .rbegin e => some (0xD6, e)
  | .rbeginSer e => some (0xD6, e)
  | .rend e => some (0xD7, e)
  | .rabort e => some (0xD8, e)
  | .rstatSpec e => some (0xD9, e)
  | .tfront e => some (0xDA, e)
  | .tdefer e => some (0xDB, e)
  | .depq e => some (0xDC, e)
  | .trap e => some (0xE0, e)
  | .emrd e => some (0xE1, e)
  | .emwr e => some (0xE2, e)
  | .emret e => some (0xE3, e)
  | .emskip e => some (0xE4, e)
  | .hostcall e => some (0xE5, e)
  | .hostcallWait e => some (0xE5, e)
  | .xop e => some (0xFF, e)
  | .wrpost e => some (0xE8, e)
  | .wrarm e => some (0xE9, e)
  | .wrcan e => some (0xEA, e)
  | .collAllreduce e => some (0xEB, e)
  | .collAllgather e => some (0xEB, e)
  | .collReducescatter e => some (0xEB, e)
  | .collAlltoall e => some (0xEB, e)
  | .collBroadcast e => some (0xEB, e)
  | .vdnq e => some (0xEC, e)
  | .ffence e => some (0xED, e)
  | .cntadd e => some (0xEE, e)
  | .cntwait e => some (0xEF, e)
  | _ => none

/-- The shape of an encoded instruction (R84, R110, R145, R188, R210, R234, R262, R284, R300, R338, R364, R387, R469);
`none` where its FN or length is not listed in R63, and for a step of an engine. -/
def shape (i : Instr) : Option Shape :=
  match i with
  | .nop e => onlyIf (e.fn == 0) (some {})
  | .bra e => shapeTarget e {}
  | .brx e => shape64 e { s0 := .vsp }
  | .call e => shapeTarget e { dst := .adv }
  | .ret e => shape64 e {}
  | .exit e => shape64 e {}
  | .fork e => onlyIf (e.fn == 0) (byLen e (some { dst := .s, s0 := .s }) (some { dst := .s, s0 := .s, ext := imm16Mask }) none)
  | .quit e => shape64 e {}
  | .split e => shape64 e { dst := .code 8 }
  | .join e => shape64 e { s0 := .code 8 }
  | .drop e => shape64 e { s0 := .code 8 }
  | .yield e => shape64 e {}
  | .pcmp e => shapePcmp e
  | .plog e => onlyIf (decide (e.fn.toNat < 4)) (byLen e (some { dst := .code 32, s0 := .code 32, s1 := .code 32, mods := 3 }) none none)
  | .pmov e => shape64 e { dst := .code 32, s0 := .code 32, mods := 1 }
  | .pmovRd e => onlyIf (e.fn == 1) (byLen e (some { dst := .v, prod := .single }) none none)
  | .pmovWr e => onlyIf (e.fn == 2) (byLen e (some { s0 := .v, l0 := true }) none none)
  | .pldm e => shape64 e { dst := .code 32, s0 := .s }
  | .voteSome e => shape64 e { dst := .code 32, s0 := .code 32, mods := 1 }
  | .voteEvery e => onlyIf (e.fn == 1) (byLen e (some { dst := .code 32, s0 := .code 32, mods := 1 }) none none)
  | .voteMask e => onlyIf (e.fn == 2) (byLen e (some { dst := .s, s0 := .code 32, mods := 1 }) none none)
  | .voteSame e => onlyIf (e.fn == 3) (byLen e (some { dst := .code 32, s0 := .code 32, mods := 1 }) none none)
  | .gets e => shapeGets e
  | .sets e => shapeSets e
  | .sadd e => onlyIf (e.fn == 0) (shapeUni e .s)
  | .ssub e => onlyIf (e.fn == 0) (shapeUni e .s)
  | .smul e => onlyIf (e.fn == 0) (shapeUni e .s)
  | .slog e => onlyIf (decide (e.fn.toNat < 4)) (shapeUni e .s)
  | .ssh e => shapeSsh e
  | .scmp e => onlyIf (decide (e.cmpType ≤ 1) && decide (e.cmpRel ≤ 5)) (shapeUni e (.code 32))
  | .smov e => shape64 e { dst := .s, s0 := .vs }
  | .sli e => onlyIf (e.fn == 0) (byLen e none none (some { dst := .s, imm32 := true }))
  | .launch e => shape64 e { dst := .s, s0 := .sp, s1 := .s }
  | .schsel e => shape64 e { dst := .sq, s0 := .sp }
  | .gangwait e => shape64 e { dst := .code 32, s0 := .s, s1 := if e.mod.getLsbD 0 then .s else .zero, mods := 1 }
  | .phase e => shapePhase e
  | .iadd e => shapeInt2 e 1
  | .isub e => shapeInt2 e 1
  | .imul e => shapeInt2 e 0
  | .imulh e => shapeV2 e (decide (e.fn.toNat < 2)) 0 true
  | .imad e => onlyIf (decide (e.fn.toNat < 2)) (byLen e none (some (shapeTri 0 true)) (some { shapeTri 0 true with s1 := .zero, l1 := false, imm32 := true }))
  | .imin e => shapeInt2 e 0
  | .imax e => shapeInt2 e 0
  | .iabs e => shapeInt1 e
  | .ineg e => shapeInt1 e
  | .idp4 e => onlyIf (decide (e.fn.toNat < 4)) (byLen e none (some (shapeTri 1 true)) none)
  | .ishl e => shapeShift e
  | .ishr e => shapeShift e
  | .irot e => shapeShift e
  | .bitfn e => onlyIf (e.fn == 0) (byLen e none (some { shapeTri 0 true with ext := 0xFF }) (some { shapeTri 0 true with s2 := .zero, l2 := false, ext := 0xFF, imm32 := true }))
  | .popc e => onlyIf (e.fn == 1 || e.fn == 7) (byLen e (some { dst := .v, s0 := if e.fn == 7 then .vsp else .vs, l0 := e.fn == 1, prod := .single }) none none)
  | .clz e => onlyIf (e.fn == 1 || e.fn == 7) (byLen e (some { dst := .v, s0 := if e.fn == 7 then .vsp else .vs, l0 := e.fn == 1, prod := .single }) none none)
  | .brev e => onlyIf (e.fn == 1 || e.fn == 7) (byLen e (some { dst := if e.fn == 7 then .vp else .v, s0 := if e.fn == 7 then .vsp else .vs, l0 := e.fn == 1, prod := if e.fn == 7 then .multi else .single }) none none)
  | .bfe e => shapeField e false (decide (e.fn.toNat < 2))
  | .bfi e => shapeField e true (e.fn == 0)
  | .sel e => shapeV2 e (e.fn == 0) 0x3F true
  | .mov e => onlyIf (e.fn == 0 || e.fn == 1) (byLen e (some { dst := if e.fn == 1 then .vp else .v, s0 := if e.fn == 1 then .vsp else .vs, l0 := e.fn == 0, prod := if e.fn == 1 then .multi else .single }) none none)
  | .movi e => onlyIf (e.fn == 0) (byLen e none (some { dst := .v, ext := imm16Mask, prod := .single }) (some { dst := .v, imm32 := true, prod := .single }))
  | .fadd e => shapeF2 e
  | .fsub e => shapeF2 e
  | .fmul e => shapeF2 e
  | .ffma e => shapeFfma e
  | .fmin e => shapeV2 e (decide (e.fn.toNat < 3)) 0x18 true
  | .fmax e => shapeV2 e (decide (e.fn.toNat < 3)) 0x18 true
  | .fabs e => shapeV1 e (decide (e.fn.toNat < 3)) 0 true
  | .fneg e => shapeV1 e (decide (e.fn.toNat < 3)) 0 true
  | .frnd e => shapeV1 e (decide (e.fn.toNat < 3)) 7 e.rmOk
  | .fcls e => shapeV1 e (decide (e.fn.toNat < 3)) 0 true
  | .frcp e => shapeV1 e (decide (e.fn.toNat < 3)) 7 e.rmOk
  | .frsq e => shapeV1 e (decide (e.fn.toNat < 3)) 7 e.rmOk
  | .fsqrt e => shapeV1 e (decide (e.fn.toNat < 3)) 7 e.rmOk
  | .fex2 e => shapeV1 e (e.fn == 0) 7 e.rmOk
  | .flg2 e => shapeV1 e (e.fn == 0) 7 e.rmOk
  | .fsin e => shapeV1 e (e.fn == 0) 7 e.rmOk
  | .fcos e => shapeV1 e (e.fn == 0) 7 e.rmOk
  | .hadd2 e => shapeV2 e (e.fn == 1 || e.fn == 2) 0x1F e.rmOk
  | .hmul2 e => shapeV2 e (e.fn == 1 || e.fn == 2) 0x1F e.rmOk
  | .hfma2 e => onlyIf (e.fn == 1 || e.fn == 2) (byLen e none (some (shapeTri 0x3F e.rmOk)) none)
  | .hmin2 e => shapeV2 e (e.fn == 1 || e.fn == 2) 0x18 true
  | .hmax2 e => shapeV2 e (e.fn == 1 || e.fn == 2) 0x18 true
  | .bperm e => shape64 e { dst := .v, s0 := .vsp, s1 := .vs, l1 := true, prod := .single }
  | .nlut e => onlyIf (e.fn == 0 || e.fn == 1) (byLen e (some { dst := .v, s0 := .vs, l0 := true, s1 := .vsq, prod := .single }) none none)
  | .shfl e => onlyIf (decide (e.fn.toNat < 4)) (byLen e (some { dst := .v, s0 := .v, s1 := .vs, l1 := true, mods := 7, prod := .single, also := e.rmOk }) (some { dst := .v, s0 := .v, ext := imm16Mask, mods := 7, prod := .single, also := e.rmOk && decide (e.imm16.toNat < 32) }) none)
  | .lscan e => onlyIf (decide (e.fn.toNat < 16)) (byLen e (some { dst := .v, s0 := .v, prod := .single }) none none)
  | .lred e => onlyIf (decide (e.fn.toNat < 8)) (byLen e (some { dst := .v, s0 := .v, prod := .single }) none none)
  | .dadd e => shapeD e false
  | .dmul e => shapeD e false
  | .dfma e => shapeD e true
  | .ddiv e => shapeD e false
  | .dcvt e => shapeDcvt e
  | .cvt e => shapeCvt e
  | .pcvt e => shapePcvt e
  | .scaleq e => shapeScaleq e
  | .tquant e => shapeTquant e
  | .ldx e => shapeLdx e
  | .stx e => shapeStx e
  | .srseed e => shape64 e { s0 := .vs, l0 := true }
  | .ld e => shapeLd e
  | .st e => shapeSt e
  | .ldu e => shapeLdu e
  | .ldb e => shapeLdb e
  | .stb e => shapeStb e
  | .atom e => shapeAtom e
  | .red e => shapeRed e
  | .lr e => shapeLr e
  | .sc e => shapeSc e
  | .acq e => shape64 e {}
  | .rel e => shape64 e {}
  | .fence e => shape64 e {}
  | .waitw e => shapeWaitw e
  | .pref e => shapePref e
  | .barinit e => shapeBar e .s e.immCount
  | .arrive e => shapeBar e .zero e.immCount
  | .arrivex e => shapeBar e .s true
  | .waitb e => shapeWaitb e (e.fn == 0 || e.fn == 1) (if e.fn == 1 then .code 32 else .zero)
  | .testb e => shapeWaitb e (e.fn == 0) (.code 32)
  | .barinv e => shape64 e { s0 := .code 128 }
  | .rinit e => shapeRinit e
  | .rpush e => shape64 e { dst := .sp, s0 := .code 32 }
  | .rpop e => shape64 e { dst := .sp, s0 := .code 32 }
  | .rdoneFill e => shape64 e { s0 := .code 32, s1 := .s }
  | .rdoneFree e => onlyIf (e.fn == 1) (byLen e (some { s0 := .code 32, s1 := .s }) none none)
  | .rpeek e => shape64 e { dst := .sp, s0 := .code 32 }
  | .rstat e => shape64 e { dst := .sp, s0 := .code 32 }
  | .cpy e => shapeCpy e
  | .cpytLd e => shapeCpyt e false
  | .cpytSt e => shapeCpyt e true
  | .cpyr e => shapeCpyr e
  | .cpys e => shapeCpys e
  | .seal e => shape64 e { dst := .s, s0 := .code 8 }
  | .waitk e => shape64 e { dst := if e.mod.getLsbD 0 then .code 32 else .zero, s0 := .code 256, mods := 1 }
  | .testk e => shape64 e { dst := .code 32, s0 := .code 256, s1 := if e.mod.getLsbD 0 then .code 32 else .zero, mods := 1 }
  | .cpyq e => shape64 e { dst := .sp, s0 := .code 8 }
  | .mma e => shapeMma e false
  | .mmat e => shapeMma e true
  | .mzero e => shape64 e { dst := .code 32, mods := 0x1F, also := e.plain && decide (e.dst.toNat + e.mod.toNat + 1 ≤ 32) }
  | .mldx e => onlyIf (e.fn == 0) (byLen e none (some { dst := .code 32, s0 := .code 32, mods := 3, ext := 0x3F, also := e.plain }) none)
  | .mstx e => shapeMstx e
  | .mwaitb e => shape64 e { s0 := .code 128, mods := 1, also := e.plain }
  | .marrive e => shape64 e { s0 := .code 128, also := e.plain }
  | .mloop e => onlyIf (e.fn == 0) (byLen e none (some { dst := .code 4, ext := imm16Mask, also := e.plain }) none)
  | .mbra e => shapeMbra e false
  | .mbraNz e => shapeMbra e true
  | .mend e => shape64 e { also := e.plain }
  | .myield e => shape64 e { also := e.plain }
  | .mxrd e => shapeMx e .v (.code 32) false
  | .mxrdS e => shapeMx e .v .zero true
  | .mxwr e => shapeMx e (.code 32) .v false
  | .mxwrS e => shapeMx e .zero .v true
  | .smv e => shapeSmv e true
  | .smvb e => shapeSmv e false
  | .smvcfg e => shapeSmvcfg e
  | .smvq e => shape64 e { dst := .s, s0 := .s }
  | .smvcan e => shape64 e { s0 := .s }
  | .tspawn e => shapeTspawn e false
  | .tspawnOrd e => shapeTspawn e true
  | .texit e => shapeTexit e
  | .taff e => shape64 e { dst := .s, s0 := .sp }
  | .fnew e => shape64 e { s0 := .sp }
  | .fresolve e => shapeFres e .sp
  | .fpoison e => shapeFres e .s
  | .fawait e => shape64 e { dst := .s, s0 := .s8, s1 := .sp }
  | .fjoin2 e => onlyIf (e.fn == 0) (byLen e none (some { dst := .s, s0 := .s8, s1 := .sp, s2 := .sp }) none)
  | .fget e => shape64 e { dst := .sq, s0 := .sp }
  | .odom e => shape64 e { mods := 3 }
  | .cdom e => shape64 e { dst := .code 32, mods := 3 }
  | .rbegin e => shapeRbegin e false
  | .rbeginSer e => shapeRbegin e true
  | .rend e => shape64 e {}
  | .rabort e => shape64 e {}
  | .rstatSpec e => shape64 e { dst := .sp }
  | .tfront e => shape64 e { dst := .sq, mods := 3 }
  | .tdefer e => shapeTdefer e
  | .depq e => shape64 e { dst := .sq }
  | .trap e => shapeTrap e
  | .emrd e => shape64 e { dst := .v, s0 := .s, prod := .single }
  | .emwr e => shape64 e { s0 := .s, s1 := .vs, l1 := true }
  | .emret e => shape64 e {}
  | .emskip e => shape64 e {}
  | .hostcall e => shapeHostcall e false
  | .hostcallWait e => shapeHostcall e true
  | .wrpost e => shape64 e { dst := .s, s0 := .sp, s1 := .s }
  | .wrarm e => onlyIf (e.fn == 0) (shapeCnt e .zero)
  | .wrcan e => shape64 e { dst := .s, s0 := .s }
  | .collAllreduce e => shapeColl e 0
  | .collAllgather e => shapeColl e 1
  | .collReducescatter e => shapeColl e 2
  | .collAlltoall e => shapeColl e 3
  | .collBroadcast e => shapeColl e 4
  | .vdnq e => shape64 e { dst := .sp, s0 := .s }
  | .ffence e => shape64 e {}
  | .cntadd e => onlyIf (e.fn == 0) (shapeCnt e .zero)
  | .cntwait e => onlyIf (e.fn == 0 || e.fn == 1) (shapeCnt e (if e.fn == 1 then .code 32 else .zero))
  | _ => none

end Instr

/-- The instructions an opcode names, each with the FN values and the modifier that select it (R63). -/
structure OpRow where
  opc : Nat
  ctor : Enc → Instr

/-- The constructors of each opcode, in the order of R63.  An opcode with several rows of the opcode table has several
lines; the shape of each line takes its own FN and modifier values. -/
def opRows : List OpRow :=
  [⟨0x00, .nop⟩, ⟨0x01, .bra⟩, ⟨0x02, .brx⟩, ⟨0x03, .call⟩, ⟨0x04, .ret⟩, ⟨0x05, .exit⟩, ⟨0x06, .fork⟩, ⟨0x07, .quit⟩] ++
  [⟨0x08, .split⟩, ⟨0x09, .join⟩, ⟨0x0A, .drop⟩, ⟨0x0B, .yield⟩, ⟨0x0C, .pcmp⟩, ⟨0x0D, .plog⟩, ⟨0x0E, .pmov⟩, ⟨0x0E, .pmovRd⟩] ++
  [⟨0x0E, .pmovWr⟩, ⟨0x0F, .pldm⟩, ⟨0x10, .voteSome⟩, ⟨0x10, .voteEvery⟩, ⟨0x10, .voteMask⟩, ⟨0x10, .voteSame⟩, ⟨0x11, .gets⟩, ⟨0x12, .sets⟩] ++
  [⟨0x13, .sadd⟩, ⟨0x14, .ssub⟩, ⟨0x15, .smul⟩, ⟨0x16, .slog⟩, ⟨0x17, .ssh⟩, ⟨0x18, .scmp⟩, ⟨0x19, .smov⟩, ⟨0x1A, .sli⟩] ++
  [⟨0x1C, .launch⟩, ⟨0x1D, .schsel⟩, ⟨0x1E, .gangwait⟩, ⟨0x1F, .phase⟩, ⟨0x20, .iadd⟩, ⟨0x21, .isub⟩, ⟨0x22, .imul⟩, ⟨0x23, .imulh⟩] ++
  [⟨0x24, .imad⟩, ⟨0x25, .imin⟩, ⟨0x26, .imax⟩, ⟨0x27, .iabs⟩, ⟨0x28, .ineg⟩, ⟨0x29, .idp4⟩, ⟨0x2A, .ishl⟩, ⟨0x2B, .ishr⟩] ++
  [⟨0x2C, .irot⟩, ⟨0x2D, .bitfn⟩, ⟨0x2E, .popc⟩, ⟨0x2F, .clz⟩, ⟨0x30, .brev⟩, ⟨0x31, .bfe⟩, ⟨0x32, .bfi⟩, ⟨0x33, .sel⟩] ++
  [⟨0x34, .mov⟩, ⟨0x35, .movi⟩, ⟨0x38, .fadd⟩, ⟨0x39, .fsub⟩, ⟨0x3A, .fmul⟩, ⟨0x3B, .ffma⟩, ⟨0x3C, .fmin⟩, ⟨0x3D, .fmax⟩] ++
  [⟨0x3E, .fabs⟩, ⟨0x3F, .fneg⟩, ⟨0x40, .frnd⟩, ⟨0x41, .fcls⟩, ⟨0x42, .frcp⟩, ⟨0x43, .frsq⟩, ⟨0x44, .fsqrt⟩, ⟨0x45, .fex2⟩] ++
  [⟨0x46, .flg2⟩, ⟨0x47, .fsin⟩, ⟨0x48, .fcos⟩, ⟨0x49, .hadd2⟩, ⟨0x4A, .hmul2⟩, ⟨0x4B, .hfma2⟩, ⟨0x4C, .hmin2⟩, ⟨0x4D, .hmax2⟩] ++
  [⟨0x4E, .bperm⟩, ⟨0x4F, .nlut⟩, ⟨0x50, .shfl⟩, ⟨0x51, .lscan⟩, ⟨0x52, .lred⟩, ⟨0x58, .dadd⟩, ⟨0x59, .dmul⟩, ⟨0x5A, .dfma⟩] ++
  [⟨0x5B, .ddiv⟩, ⟨0x5C, .dcvt⟩, ⟨0x60, .cvt⟩, ⟨0x61, .pcvt⟩, ⟨0x62, .scaleq⟩, ⟨0x63, .tquant⟩, ⟨0x64, .ldx⟩, ⟨0x65, .stx⟩] ++
  [⟨0x66, .srseed⟩, ⟨0x70, .ld⟩, ⟨0x71, .st⟩, ⟨0x72, .ldu⟩, ⟨0x73, .ldb⟩, ⟨0x74, .stb⟩, ⟨0x75, .atom⟩, ⟨0x76, .red⟩] ++
  [⟨0x77, .lr⟩, ⟨0x78, .sc⟩, ⟨0x79, .acq⟩, ⟨0x7A, .rel⟩, ⟨0x7B, .fence⟩, ⟨0x7C, .waitw⟩, ⟨0x7D, .pref⟩, ⟨0x90, .barinit⟩] ++
  [⟨0x91, .arrive⟩, ⟨0x92, .arrivex⟩, ⟨0x93, .waitb⟩, ⟨0x94, .testb⟩, ⟨0x95, .barinv⟩, ⟨0x96, .rinit⟩, ⟨0x97, .rpush⟩, ⟨0x98, .rpop⟩] ++
  [⟨0x99, .rdoneFill⟩, ⟨0x99, .rdoneFree⟩, ⟨0x9A, .rpeek⟩, ⟨0x9B, .rstat⟩, ⟨0xA0, .cpy⟩, ⟨0xA1, .cpytLd⟩, ⟨0xA1, .cpytSt⟩, ⟨0xA2, .cpyr⟩] ++
  [⟨0xA3, .cpys⟩, ⟨0xA4, .seal⟩, ⟨0xA5, .waitk⟩, ⟨0xA6, .testk⟩, ⟨0xA7, .cpyq⟩, ⟨0xB0, .mma⟩, ⟨0xB1, .mmat⟩, ⟨0xB2, .mzero⟩] ++
  [⟨0xB3, .mldx⟩, ⟨0xB4, .mstx⟩, ⟨0xB5, .mwaitb⟩, ⟨0xB6, .marrive⟩, ⟨0xB7, .mloop⟩, ⟨0xB8, .mbra⟩, ⟨0xB8, .mbraNz⟩, ⟨0xB9, .mend⟩] ++
  [⟨0xBA, .myield⟩, ⟨0xBB, .mxrd⟩, ⟨0xBB, .mxrdS⟩, ⟨0xBC, .mxwr⟩, ⟨0xBC, .mxwrS⟩, ⟨0xC0, .smv⟩, ⟨0xC1, .smvb⟩, ⟨0xC2, .smvcfg⟩] ++
  [⟨0xC3, .smvq⟩, ⟨0xC4, .smvcan⟩, ⟨0xC8, .tspawn⟩, ⟨0xC8, .tspawnOrd⟩, ⟨0xC9, .texit⟩, ⟨0xCA, .taff⟩, ⟨0xCB, .fnew⟩, ⟨0xCC, .fresolve⟩] ++
  [⟨0xCD, .fawait⟩, ⟨0xCE, .fjoin2⟩, ⟨0xCF, .fget⟩, ⟨0xD0, .fpoison⟩, ⟨0xD4, .odom⟩, ⟨0xD5, .cdom⟩, ⟨0xD6, .rbegin⟩, ⟨0xD6, .rbeginSer⟩] ++
  [⟨0xD7, .rend⟩, ⟨0xD8, .rabort⟩, ⟨0xD9, .rstatSpec⟩, ⟨0xDA, .tfront⟩, ⟨0xDB, .tdefer⟩, ⟨0xDC, .depq⟩, ⟨0xE0, .trap⟩, ⟨0xE1, .emrd⟩] ++
  [⟨0xE2, .emwr⟩, ⟨0xE3, .emret⟩, ⟨0xE4, .emskip⟩, ⟨0xE5, .hostcall⟩, ⟨0xE5, .hostcallWait⟩, ⟨0xE8, .wrpost⟩, ⟨0xE9, .wrarm⟩, ⟨0xEA, .wrcan⟩] ++
  [⟨0xEB, .collAllreduce⟩, ⟨0xEB, .collAllgather⟩, ⟨0xEB, .collReducescatter⟩, ⟨0xEB, .collAlltoall⟩, ⟨0xEB, .collBroadcast⟩, ⟨0xEC, .vdnq⟩, ⟨0xED, .ffence⟩, ⟨0xEE, .cntadd⟩] ++
  [⟨0xEF, .cntwait⟩, ⟨0xFF, .xop⟩]

end Sys2Proof
end

