-- ==== Sys2Proof/WellFormed.lean ====
section
/-!
DEFINITION. Sys2Proof/WellFormed.lean: which terms of `Instr` are instructions or steps at all.

An encoded instruction is well formed when its fields are ones R57 does not call undefined (the role check of R21 needs
the wave and is the machine's).  0xFF is never assigned (R57), so every pattern of it is an XOP.
-/

namespace Sys2Proof

/-- The instruction is a term the encoding or the engine's step allows (R57). -/
def Instr.wellFormed (i : Instr) : Bool :=
  match i.form with
  | none => true
  | some (opc, e) =>
    e.lenOk && (opc == 0xFF || (match i.shape with
      | none => false
      | some h => h.fits e))

end Sys2Proof
end

