-- ==== Sys2Proof/Decode.lean ====
section
/-!
DEFINITION. Sys2Proof/Decode.lean: from the bytes of memory to an instruction (R43 to R58), and back.

`decode` is total on any list of bytes.  It names why a list is no instruction: too few bytes, LEN = 11
(ILLEGAL_LENGTH, step 3 of R58), or an undefined encoding with its opcode and fields, which the handler serves (step 6).
-/

namespace Sys2Proof

/-- What bytes read as (R58). -/
inductive Decoded where
  | instr (i : Instr)
  | undefined (opc : BitVec 8) (e : Enc)
  | illegalLength
  | short
  deriving DecidableEq, Repr

/-- The little-endian number in a list of bytes (R2). -/
def leNat (bs : List Byte) : Nat :=
  match bs with
  | [] => 0
  | b :: r => b.toNat + 256 * leNat r

/-- The n bytes of a number, lowest first (R2). -/
def leBytes (n w : Nat) : List Byte :=
  match n with
  | 0 => []
  | n + 1 => BitVec.ofNat 8 w :: leBytes n (w / 256)

/-- A field of an instruction word: `n` bits from bit `lo`. -/
def bitField (w lo n : Nat) : BitVec n := BitVec.ofNat n (w >>> lo)

/-- One bit of an instruction word. -/
def bitFlag (w lo : Nat) : Bool := w.testBit lo

/-- The length named by bits [1:0] (R43). -/
def lenOf (w : Nat) : Option Len :=
  match w % 4 with
  | 0 => some .l64
  | 1 => some .l96
  | 2 => some .l128
  | _ => none

/-- Length in bytes (R43). -/
def Len.bytes (l : Len) : Nat :=
  match l with
  | .l64 => 8
  | .l96 => 12
  | .l128 => 16

/-- LEN (R43). -/
def Len.code (l : Len) : BitVec 2 :=
  match l with
  | .l64 => 0
  | .l96 => 1
  | .l128 => 2

/-- The fields of an instruction word of a given length (R43, R44). -/
def fieldsOf (l : Len) (w : Nat) : Enc :=
  { len := l
    ver := bitField w 2 2
    fn := bitField w 12 6
    stall := bitField w 18 4
    yld := bitFlag w 22
    dlt := bitField w 23 2
    nwb := bitFlag w 25
    dst := bitField w 26 8
    sl0 := bitFlag w 34
    src0 := bitField w 35 8
    sl1 := bitFlag w 43
    src1 := bitField w 44 8
    prd := bitField w 52 5
    pneg := bitFlag w 57
    mod := bitField w 58 6
    sl2 := bitFlag w 64
    src2 := bitField w 65 8
    ext := bitField w 73 23
    imm32 := bitField w 96 32 }

/-- The opcode of an instruction word (R43). -/
def opcOf (w : Nat) : BitVec 8 := bitField w 4 8

/-- The instruction that an opcode and its fields name (R63), if the encoding is a defined one (R57). -/
def decodeFields (opc : BitVec 8) (e : Enc) : Option Instr :=
  (opRows.find? (fun r => r.opc == opc.toNat && (r.ctor e).wellFormed)).map (fun r => r.ctor e)

/-- Decode an instruction word whose length is known to lie in it. -/
def decodeWord (l : Len) (w : Nat) : Decoded :=
  let e := fieldsOf l (w % 2 ^ (8 * l.bytes))
  match decodeFields (opcOf w) e with
  | some i => .instr i
  | none => .undefined (opcOf w) e

/-- Decode the instruction at the head of a list of bytes (R58, steps 3 and 6). -/
def decode (bs : List Byte) : Decoded :=
  match bs with
  | [] => .short
  | b :: _ =>
    match lenOf b.toNat with
    | none => .illegalLength
    | some l => if bs.length < l.bytes then .short else decodeWord l (leNat (bs.take l.bytes))

/-- The word of an opcode and its fields (R43, R44). -/
def packFields (opc : BitVec 8) (e : Enc) : Nat :=
  e.len.code.toNat + e.ver.toNat * 2 ^ 2 + opc.toNat * 2 ^ 4 + e.fn.toNat * 2 ^ 12 + e.stall.toNat * 2 ^ 18 +
  e.yld.toNat * 2 ^ 22 + e.dlt.toNat * 2 ^ 23 + e.nwb.toNat * 2 ^ 25 + e.dst.toNat * 2 ^ 26 +
  e.sl0.toNat * 2 ^ 34 + e.src0.toNat * 2 ^ 35 + e.sl1.toNat * 2 ^ 43 + e.src1.toNat * 2 ^ 44 +
  e.prd.toNat * 2 ^ 52 + e.pneg.toNat * 2 ^ 57 + e.mod.toNat * 2 ^ 58 + e.sl2.toNat * 2 ^ 64 +
  e.src2.toNat * 2 ^ 65 + e.ext.toNat * 2 ^ 73 + e.imm32.toNat * 2 ^ 96

/-- The bytes of an encoded instruction (R43, R44); none for a step of an engine, which has no encoding. -/
def encode (i : Instr) : Option (List Byte) :=
  match i.form with
  | none => none
  | some (opc, e) => some (leBytes e.len.bytes (packFields opc e))

/-- The instruction read from a word of `nbits` bits, every further bit 0: the word is laid out in bytes, the lowest
first, and given to `decode`. -/
def decodeTableWord (nbits w : Nat) : Option Instr :=
  match decode (leBytes 16 (w % 2 ^ nbits)) with
  | .instr i => some i
  | _ => none

end Sys2Proof
end

