-- ==== Sys2Proof/Machine/Emulation.lean ====
section
/-!
DEFINITION. Sys2Proof/Machine/Emulation.lean: entering and leaving the emulation handler (R356 to R363), the shared operations of
every encoding to emulate and of EMRET and EMSKIP.
-/

namespace Sys2Proof.Machine

open Host

/-- E, the emulation window of a depth (R356). -/
def emRegs (emctl : Word) : Nat :=
  let n := emctl.toNat % 16
  8 * (if n = 0 then 1 else if 8 < n then 8 else n)

/-- The operand words (R358). -/
def operandWords (opc : BitVec 8) (e : Enc) (raw : Raw) (stream disabled : Bool) (members acting : BitVec 32) (pc : DWord) :
    Tab Word :=
  let b (x : Bool) (n : Nat) : Nat := if x then 2 ^ n else 0
  let len := match e.len with | .l64 => 0 | .l96 => 1 | .l128 => 2
  let w0 := opc.toNat + e.fn.toNat * 2 ^ 8 + e.ver.toNat * 2 ^ 14 + len * 2 ^ 16 + e.dlt.toNat * 2 ^ 18 + b e.nwb 20 +
    b e.pneg 21 + e.prd.toNat * 2 ^ 22 + b stream 27 + b disabled 28
  let w1 := e.dst.toNat + e.src0.toNat * 2 ^ 8 + e.src1.toNat * 2 ^ 16 + e.src2.toNat * 2 ^ 24
  let w2 := b e.sl0 0 + b e.sl1 1 + b e.sl2 2 + e.mod.toNat * 2 ^ 3 + e.ext.toNat * 2 ^ 9
  [(0, BitVec.ofNat 32 w0), (1, BitVec.ofNat 32 w1), (2, BitVec.ofNat 32 w2), (3, raw.w1), (4, raw.w2), (5, members),
    (6, acting), (7, pc.setWidth 32)]

/-- What a frame keeps of a lane. -/
def Lane.toFrame (x : Lane) : FrameLane :=
  { cond := x.cond, pc := x.pc, base := x.base, pred := x.pred, fpstat := x.fpstat, latches := x.latches }

/-- A lane restored from a frame. -/
def Lane.fromFrame (x : Lane) (f : FrameLane) : Lane :=
  { x with cond := f.cond, pc := f.pc, base := f.base, pred := f.pred, fpstat := f.fpstat, latches := f.latches }

/-- The count of issues that pass over the oldest-waiting batch, once the members of an emulated instruction have issued it (R77); an
instruction of the stream is none of the wave's issues. -/
def Wave.othersAfter (w : Wave) (members : BitVec 32) (stream : Bool) : Nat :=
  if stream then w.others
  else match w.batches with
    | b :: _ => if b.mask &&& members != 0 then 0 else w.others + 1
    | [] => 0

/-- The frame of an entry (R357). -/
def Wave.frameOf (w : Wave) (members : BitVec 32) (nextPc : DWord) (stream : Bool) : Frame :=
  { lanes := (List.range 32).map (fun l => (l, (w.lane l).toFrame))
    batches := w.batches
    sregs := w.s
    masks := w.masks
    arrived := w.arrived
    fpctl := w.fpctl
    joinlost := w.joinlost
    ow := w.ow
    members := members
    nextPc := nextPc
    stream := stream
    count := w.wdCount
    others := w.othersAfter members stream
    doneMask := w.doneMask
    doneGrp := w.doneGrp }

/-- Enter the handler at the next depth (R357, R363): `fibres` become the handler's fibres, q0 of each is its guard. -/
def Wave.enter (w : Wave) (entry : DWord) (fibres : BitVec 32) (guards : BitVec 32) (frame : Frame) (ow : Tab Word) : Wave :=
  let d := w.emdepth
  let lanes := (List.range 32).map (fun l =>
    let x := w.lane l
    if fibres.getLsbD l then
      (l, { x with cond := .runnable, pc := entry, base := w.window + d * w.emWindow
                   pred := predReset ||| (if guards.getLsbD l then 1 else 0), latches := [], fpstat := 0 })
    else (l, if x.cond == .idle then x else { x with cond := .stacked }))
  { w with
    lanes := lanes
    batches := [⟨fibres⟩]
    s := []
    masks := []
    arrived := []
    joinlost := 0
    ow := ow
    emdepth := d + 1
    frames := frame :: w.frames
    wdCount := 0
    doneMask := 0
    doneGrp := []
    others := 0 }

/-- The handler's entry VA (R356). -/
def Fn.emEntry (f : Fn) : DWord := f.embase &&& 0x007FFFFFFFFFFFFC

/-- Take the emulation entry of a wave's own instruction, or EMUL_NEST (R357, R361). -/
def State.emulate (s : State) (c : Ctx) (raw : Raw) (opc : BitVec 8) (e : Enc) (disabled : Bool) : State ⊕ FaultInfo :=
  let w := s.ctxWave c
  if w.emdepth = 2 ∨ w.emWindow = 0 then .inr { cause := .emulNest }
  else
    let ow := operandWords opc e raw false disabled c.members c.acting c.pc
    let f := w.frameOf c.members c.nextPc false
    .inl (s.setCtxWave c (w.enter (s.fn (s.ctxFn c)).emEntry c.members c.acting f ow))

/-- The PC check of R86. -/
def pcFault (t : DWord) : Option Cause :=
  if t.toNat / 2 ^ 55 ≠ 0 then some .accessFault
  else if t &&& 3 != 0 then some .align
  else if t &&& 0x1F == 0x1C then some .illegalPlacement
  else none

/-- The pending write of a target and lane. -/
def Frame.pend (f : Frame) (t : EmTarget) (l : Nat) : Option PWord :=
  (f.pending.find? (fun p => p.target == t && p.lane == l)).map (·.val)

/-- Apply one pending write to the wave and the frame (R359, R360); PCs are applied apart. -/
def applyPending (wf : Wave × Frame) (p : EmWrite) : Wave × Frame :=
  let (w, f) := wf
  let x := f.lanes.get {} p.lane
  let setLane (y : FrameLane) : Wave × Frame := (w, { f with lanes := f.lanes.set p.lane y })
  match p.target with
  | .v r => (w.setVAt r p.lane p.val, f)
  | .s r => (w, { f with sregs := f.sregs.set r p.val })
  | .latchVal n =>
    setLane { x with latches := x.latches.set n { (x.latches.get {} n) with val := p.val, valid := true } }
  | .latchMeta n =>
    let y := x.latches.get {} n
    let y' := { y with tag := p.val.val.setWidth 8, nwb := p.val.val.getLsbD 8, valid := p.val.val.getLsbD 9 }
    setLane { x with latches := x.latches.set n y' }
  | .pred => setLane { x with pred := p.val.val ||| predReset }
  | .fpstat => setLane { x with fpstat := p.val.val &&& 0x1F }
  | .fpctl => (w, { f with fpctl := p.val.val &&& 3 })
  | .pcLo => (w, f)
  | .pcHi => (w, f)

/-- The PC a fibre of the frame goes on at (R360). -/
def Frame.resumePc (f : Frame) (commit : Bool) (l : Nat) : DWord :=
  let x := f.lanes.get {} l
  if commit && ((f.pend .pcLo l).isSome || (f.pend .pcHi l).isSome) then
    let lo : Word := match f.pend .pcLo l with | some v => v.val | none => x.pc.setWidth 32
    let hi : Word := match f.pend .pcHi l with | some v => v.val | none => (x.pc >>> 32).setWidth 32
    hi ++ lo
  else f.nextPc

/-- The wave with its frame restored (R360). -/
def Wave.restore (w : Wave) (f : Frame) (rest : List Frame) : Wave :=
  { w with
    lanes := (List.range 32).map (fun l => (l, (w.lane l).fromFrame (f.lanes.get {} l)))
    batches := f.batches
    s := f.sregs
    masks := f.masks
    arrived := f.arrived
    fpctl := f.fpctl
    joinlost := f.joinlost
    ow := f.ow
    emdepth := w.emdepth - 1
    frames := rest
    wdCount := f.count
    doneMask := f.doneMask
    doneGrp := f.doneGrp
    others := f.others }

/-- Leave the handler of a wave's own instruction (R360): `commit` for EMRET.  The new PCs are checked first. -/
def Wave.leave (w : Wave) (commit : Bool) : Wave ⊕ Cause :=
  match w.frames with
  | [] => .inl w
  | f :: rest =>
    let bad := (lanesOf f.members).findSome? (fun l => pcFault (f.resumePc commit l))
    match (if f.stream then none else bad) with
    | some c => .inr c
    | none =>
      let (w1, f1) := if commit then f.pending.foldl applyPending (w, f) else (w, f)
      let w2 := w1.restore f1 rest
      if f.stream then .inl w2
      else
        let w3 := (lanesOf f.members).foldl (fun w l => w.setLane l { w.lane l with pc := f.resumePc commit l }) w2
        .inl (w3.repartition f.members f.members)

/-- The stream PC that a handler of a stream instruction leaves (R363). -/
def Frame.streamPc (f : Frame) (commit : Bool) (pc : DWord) : DWord :=
  if commit && ((f.pend .pcLo 0).isSome || (f.pend .pcHi 0).isSome) then
    let lo : Word := match f.pend .pcLo 0 with | some v => v.val | none => pc.setWidth 32
    let hi : Word := match f.pend .pcHi 0 with | some v => v.val | none => (pc >>> 32).setWidth 32
    hi ++ lo
  else f.nextPc

/-- Leave the handler of a wave (R360, R363): one that served the stream resumes it. -/
def State.leaveHandler (s : State) (blk wave : Nat) (commit : Bool) : State ⊕ Cause :=
  let w := s.wave blk wave
  match w.leave commit with
  | .inr c => .inr c
  | .inl w1 =>
    match w.frames with
    | f :: _ =>
      if f.stream then
        match (s.block blk).stream with
        | some m =>
          let t := f.streamPc commit m.pc
          match pcFault t with
          | some c => .inr c
          | none =>
            let s1 := s.setWave blk wave w1
            .inl (s1.setBlock blk { s1.block blk with stream := some { m with pc := t, emul := none } })
        | none => .inl (s.setWave blk wave w1)
      else .inl (s.setWave blk wave w1)
    | [] => .inl (s.setWave blk wave w1)

/-! ### Waits (R42, R75) -/

/-- Block lanes at a blocking point: they keep their PC and leave their batch at the end of the issue. -/
def Wave.park (w : Wave) (p : Park) : Wave :=
  let w1 := w.mapLanes p.lanes (fun _ x => { x with cond := .blocked w.nextWait })
  { w1 with waits := w1.waits.set w1.nextWait p, nextWait := w1.nextWait + 1 }

/-- The instruction of a wait issues again when the wait is over. -/
def Why.reissues (y : Why) : Bool :=
  match y with
  | .edge _ | .promote | .ringRoom _ => true
  | _ => false

/-- The change of a waiting lane, in the running context or in the frame that holds it. -/
def Wave.onWaiter (w : Wave) (n l : Nat) (f : Lane → Lane) : Wave :=
  if (w.lane l).cond == .blocked n then w.setLane l (f (w.lane l))
  else
    { w with
      frames := w.frames.map (fun fr =>
        let y := fr.lanes.get {} l
        if y.cond == .blocked n then { fr with lanes := fr.lanes.set l (f (({} : Lane).fromFrame y)).toFrame } else fr) }

/-- The lanes of a wait that is over go on (R75), at their instruction again or at the next: as one batch of the context
that holds them.  A running handler that waited counts from 0 again; the count of a context below is kept (R362). -/
def Wave.wakeAt (w : Wave) (n : Nat) (again : Bool) : Wave :=
  match w.waits.get? n with
  | none => w
  | some p =>
    let go (x : Lane) : Lane := { x with cond := .runnable, pc := if again then x.pc else p.nextPc }
    let here := p.lanes &&& w.lanesWhere (fun c => c == .blocked n)
    let w1 := (lanesOf p.lanes).foldl (fun w l => w.onWaiter n l go) { w with waits := w.waits.erase n }
    let waited := match p.why with | .record _ stalled => stalled | _ => true
    if here != 0 then { w1 with batches := w1.batches ++ [⟨here⟩], wdCount := if waited then 0 else w1.wdCount }
    else
      { w1 with
        frames := (w.frames.zip w1.frames).map (fun (f0, f1) =>
          let m := p.lanes &&& maskOf ((List.range 32).filter (fun l => (f0.lanes.get {} l).cond == .blocked n))
          if m != 0 then { f1 with batches := f1.batches ++ [⟨m⟩] } else f1) }

/-- The lanes of a wait that is over go on as its reason says. -/
def Wave.wake (w : Wave) (n : Nat) : Wave :=
  match w.waits.get? n with
  | none => w
  | some p => w.wakeAt n p.why.reissues

/-- The context of a wait, for a record of its instruction. -/
def waitCtx (blk wave : Nat) (w : Wave) (p : Park) : Ctx :=
  { blk := blk, wave := wave, pc := (w.lane (lowLane p.lanes)).pc, nextPc := p.nextPc, members := p.lanes, acting := p.acting }

/-- A wait shrinks when some of its lanes end. -/
def Wave.waitOf (w : Wave) (l : Nat) : Option Nat :=
  match (w.lane l).cond with
  | .blocked n => some n
  | _ => none

/-- The numbers of the waits whose reason satisfies a test. -/
def Wave.waitsWhere (w : Wave) (p : Why → Bool) : List Nat := (w.waits.filter (fun (_, x) => p x.why)).map (·.1)

/-- Wake every wait of a wave whose reason satisfies a test. -/
def Wave.wakeWhere (w : Wave) (p : Why → Bool) : Wave := (w.waitsWhere p).foldl (fun w n => w.wake n) w

end Sys2Proof.Machine
end

