-- ==== Sys2Proof/Machine/Abort.lean ====
section
/-!
DEFINITION. Sys2Proof/Machine/Abort.lean: speculative units: keys, the frontier, the directory's versions, dependence edges,
aborts and their cascade (R310 to R333), and a write from outside every unit (R333).
-/

namespace Sys2Proof.Machine

open Host

/-! ### Keys and the frontier (R317, R321) -/

/-- The key of an ordered task: the timestamp above the tie (R317). -/
def Task.key (t : Task) : Option Nat := t.ord.map (fun o => o.ts.toNat * 2 ^ 32 + t.serial.toNat)

/-- The key of a unit that is an ordered task. -/
def SpecUnit.key (u : SpecUnit) : Option Nat := u.task.bind Task.key

/-- The tasks of a domain that are unfinished (R321): queued ones and those that a block runs. -/
def State.unfinished (s : State) (fn d : Nat) : List Task :=
  let of (t : Task) : Bool := t.fn == fn && (match t.ord with | some o => o.dom == d | none => false)
  s.tasks.filter of ++ (s.blocks.filterMap (fun (_, b) => if b.waves.all (fun (_, w) => w.ended) then none else b.task)).filter of

/-- FRONT of a domain (R321); all ones where no task is unfinished. -/
def State.front (s : State) (fn d : Nat) : Nat :=
  (s.unfinished fn d).foldl (fun m t => match t.key with | some k => min m k | none => m) (2 ^ 96 - 1)

/-- UNF of a domain (R316). -/
def State.unf (s : State) (fn d : Nat) : Nat := (s.unfinished fn d).length

def State.unit (s : State) (sid : Nat) : SpecUnit := s.units.get {} sid
def State.setUnit (s : State) (sid : Nat) (u : SpecUnit) : State := { s with units := s.units.set sid u }

/-- The unit is the frontier task of its domain (R321). -/
def State.isFrontier (s : State) (u : SpecUnit) : Bool :=
  match u.task with
  | some t => (match t.ord, t.key with
    | some o, some k => !u.finished && k == s.front u.fn o.dom
    | _, _ => false)
  | none => false

/-! ### Edges (R325 to R328) -/

/-- The hash of a SID (R326). -/
def sidHash (s : Nat) : Nat := (s ^^^ (s / 64)) % 64

/-- ANC and DEPTH of a unit from its predecessors as they stand (R326, R327). -/
def State.reckon (s : State) (u : SpecUnit) : SpecUnit :=
  { u with
    anc := u.deps.foldl (fun a (_, p) => a ||| (s.unit p).anc ||| (BitVec.ofNat 64 (2 ^ sidHash p))) 0
    depth := u.deps.foldl (fun d (_, p) => max d ((s.unit p).depth + 1)) 0 }

/-- Carry ANC and DEPTH to every unit reachable from one whose own changed (R326): a depth is at most 8, so eight rounds
reach them all. -/
def State.reckonAll (s : State) : State :=
  (List.range 9).foldl (fun s _ => { s with units := s.units.map (fun (k, u) => (k, if u.deps.isEmpty then u else
    let r := s.reckon u
    { u with anc := u.anc ||| r.anc, depth := max u.depth r.depth })) }) s

/-- A free slot of DEP0 to DEP3. -/
def SpecUnit.freeDep (u : SpecUnit) : Option Nat := (List.range 4).find? (fun i => (u.deps.get? i).isNone)

/-- What a requested edge comes to (R326). -/
inductive EdgeAns where
  | granted (s : State)
  | cycle
  | stall

/-- Request the edge U → V (R326, R332). -/
def State.edge (s : State) (u v : Nat) : EdgeAns :=
  let pu := s.unit u
  let pv := s.unit v
  if u == v || pv.deps.any (fun (_, d) => d == u) then .granted s
  else if pv.task.isSome then (if pu.task.isSome then .granted s else .stall)
  else if pu.anc.getLsbD (sidHash v) then .cycle
  else
    match pv.freeDep with
    | none => .stall
    | some i =>
      let s1 := (s.setUnit v { pv with deps := pv.deps.set i u }).reckonAll
      if decide (pu.depth + 1 > 8) || s1.units.any (fun (_, x) => decide (x.depth > 8)) then .stall else .granted s1

/-! ### Aborts (R319, R320, R330) -/

/-- A queued task goes in at its place in spawn order. -/
def insertTask (ts : List Task) (t : Task) : List Task :=
  match ts with
  | [] => [t]
  | a :: r => if t.id < a.id then t :: a :: r else a :: insertTask r t

/-- The units and tasks an abort takes with it: the SIDs that abort, and the tasks that are discarded (R320, R330). -/
structure Doomed where
  sids : List Nat
  tasks : List Nat

/-- A unit read a version of one of some units (R320, R330). -/
def SpecUnit.readFrom (u : SpecUnit) (sids : List Nat) : Bool :=
  u.reads.any (fun r => r.srcs.any (fun (k, _) => match k with | some i => sids.contains i | none => false))

/-- One round of the cascade (R320): a task that waits for a SID is in its block.  The frontier task is never aborted (R323). -/
def State.cascade (s : State) (d : Doomed) : Doomed :=
  let own := (s.units.filter (fun (k, _) => d.sids.contains k)).filterMap (fun (_, u) => u.task.map (·.id))
  let isGone (t : Task) : Bool := match t.parent with | some p => own.contains p || d.tasks.contains p | none => false
  let gone := (s.tasks ++ s.units.filterMap (fun (_, u) => u.task) ++ s.blocks.filterMap (fun (_, b) => b.task)).filter isGone
  let tasks := gone.foldl (fun l t => setInsert l t.id) d.tasks
  let hit (u : SpecUnit) : Bool :=
    (u.readFrom d.sids && !s.isFrontier u) || (match u.task with | some t => tasks.contains t.id | none => false)
  { sids := (s.units.filter (fun (_, u) => hit u)).foldl (fun l (k, _) => setInsert l k) d.sids, tasks := tasks }

/-- The whole cascade of an abort. -/
def State.doomed (s : State) (sids : List Nat) : Doomed :=
  (List.range (s.units.length + s.tasks.length + s.blocks.length)).foldl (fun d _ => s.cascade d) { sids := sids.foldl setInsert [], tasks := [] }

/-- Handlers entered since RBEGIN are left without commit. -/
def Wave.unwind (n : Nat) (w : Wave) : Wave :=
  match n with
  | 0 => w
  | k + 1 => match w.frames with | [] => w | f :: r => unwind k (w.restore f r)

/-- A 16-bit saturating count. -/
def satInc16 (n : Nat) : Nat := if n < 65535 then n + 1 else n

/-- The wave of an aborted region resumes on the retry path (R330): in emulation mode no more. -/
def Wave.retryRegion (w : Wave) (u : SpecUnit) (reason : Nat) : Wave :=
  let w1 := w.unwind w.emdepth
  let w2 := w1.mapLanes u.fibres (fun _ x =>
    ({ x.loseLatches with cond := .runnable, pc := u.retryPc, base := if u.retryDepth = 0 then u.retryBase else x.base }).setQ u.retryQ false)
  { w2 with
    arrived := []
    batches := [⟨u.fibres⟩]
    waits := []
    acc := w2.acc.filter (fun a => !a.kind.readsOnly)
    doneMask := 0
    doneGrp := []
    others := 0
    spec := { w2.spec with sid := none, nest := 0, abr := reason, aborts := satInc16 w2.spec.aborts } }

/-- A task returns to its queue (R320, R324). -/
def Task.again (t : Task) (u : SpecUnit) (reason now : Nat) : Task :=
  { t with
    abr := reason
    aborts := satInc16 t.aborts
    serialOnly := t.serialOnly || reason == 3 || (reason == 7 && u.deferred.isSome)
    queuedAt := now
    passed := 0
    stealable := false }

/-- Take a unit's versions away. -/
def State.dropVersions (s : State) (sid : Nat) : State := { s with versions := s.versions.filter (fun v => v.sid != sid) }

/-- Remove the edges from a unit that is gone (R327, R330): ANC and DEPTH of each unit that held one are recomputed, of no other. -/
def State.dropEdges (s : State) (sid : Nat) : State :=
  { s with units := s.units.map (fun (k, u) =>
      (k, if u.deps.any (fun (_, d) => d == sid) then s.reckon { u with deps := u.deps.filter (fun (_, d) => d != sid) } else u)) }

/-- The reads that a gone unit's versions served name it no more: its SID may be given again (R310). -/
def SpecRead.forget (r : SpecRead) (sid : Nat) : SpecRead :=
  { r with srcs := r.srcs.map (fun (i, y) => (if i == some sid then none else i, y)) }

/-- Every unit's reads forget a gone unit. -/
def State.forgetReads (s : State) (sid : Nat) : State :=
  { s with units := s.units.map (fun (k, u) => (k, { u with reads := u.reads.map (fun (r : SpecRead) => r.forget sid) })) }

/-- Abort one unit with a reason of R344; a discarded task does not return to its queue. -/
def State.abortOne (s : State) (sid reason : Nat) (discard : Bool) : State :=
  let u := s.unit sid
  let s1 := (({ s.dropVersions sid with units := s.units.erase sid }).dropEdges sid).forgetReads sid
  match u.task with
  | some t =>
    let s2 := if u.finished then s1 else { s1 with blocks := s1.blocks.erase u.blk }
    if discard then s2 else { s2 with tasks := insertTask s2.tasks (t.again u reason s2.clock) }
  | none => s1.setWave u.blk u.wave ((s1.wave u.blk u.wave).retryRegion u reason)

/-- Accesses stalled on an edge to a unit that commits are decided again (R328, R332): those of units it precedes, and those of tasks that
wait for it. -/
def State.wakeEdges (s : State) (sid : Nat) : State :=
  s.mapWaves (fun w =>
    let follows := match w.spec.sid with | some v => (s.unit v).deps.any (fun (_, d) => d == sid) | none => false
    w.wakeWhere (fun y => match y with | .edge on => follows || on.contains sid | _ => false))

/-- A task stalled on a region that aborts is decided again (R332). -/
def State.wakeTasks (s : State) (sids : List Nat) : State :=
  s.mapWaves (fun w => w.wakeWhere (fun y => match y with | .edge on => on.any (fun k => sids.contains k) | _ => false))

/-- A region whose fault waited for its predecessors aborts with FAULT (R335). -/
def State.faultReady (s : State) : State :=
  let ready := s.units.filter (fun (_, u) => u.task.isNone && u.deferred.isSome && u.deps.isEmpty)
  ready.foldl (fun s (k, _) =>
    let d := s.doomed [k]
    d.sids.foldl (fun s i => s.abortOne i (if i == k then 6 else 2) false) s) s

/-- The frontier tasks among some units are to be promoted, where a rule would abort them (R324). -/
def State.owePromotion (s : State) (p : SpecUnit → Bool) : State :=
  { s with units := s.units.map (fun (k, u) => (k, if p u && s.isFrontier u then { u with owed := true } else u)) }

/-- Abort units with a reason, and with them all that the cascade names (R319, R320, R330): a discarded task may still wait for a SID in
its block. -/
def State.abort (s : State) (sids : List Nat) (reason : Nat) : State :=
  if sids.isEmpty then s
  else
    let d := s.doomed sids
    let s1 := (s.owePromotion (fun u => u.readFrom d.sids))
    let s2 := { s1 with tasks := s1.tasks.filter (fun t => !d.tasks.contains t.id) }
    let s3 := d.sids.foldl (fun s' i =>
      let gone := match (s.unit i).task with | some t => d.tasks.contains t.id | none => false
      s'.abortOne i (if sids.contains i then reason else 2) gone) s2
    let s4 := { s3 with blocks := s3.blocks.filter (fun (_, b) =>
      !(match b.task with | some t => d.tasks.contains t.id && b.waves.any (fun (_, w) => w.spec.sid.isNone && !w.ended) | none => false)) }
    (s4.wakeTasks d.sids).faultReady

/-- Abort ordered tasks with a reason, but promote a frontier task among them (R323, R324). -/
def State.abortTasks (s : State) (sids : List Nat) (reason : Nat) : State :=
  let front := sids.filter (fun k => s.isFrontier (s.unit k))
  let s1 : State := { s with units := s.units.map (fun (k, u) => (k, if front.contains k then { u with owed := true } else u)) }
  s1.abort (sids.filter (fun k => !front.contains k)) reason

/-! ### Writes from outside every unit (R333) -/

/-- The granule of speculation an address lies in (R313). -/
def specGran (a : Nat) : Nat := a / 32 * 32

/-- The units that have read a granule the bytes touch. -/
def State.readersOf (s : State) (a n : Nat) : List Nat :=
  (s.units.filter (fun (_, u) => u.reads.any (fun r => decide (r.gran < a + n) && decide (a < r.gran + 32)))).map (·.1)

/-- A write performed at its home by an agent outside every unit: it aborts the units that read the granule, except a
frontier task (R333). -/
def State.writeOut (s : State) (fn : Nat) (writer : Option Nat) (a : Nat) (bs : List Byte) (poison : Bool) : State :=
  let hit := (s.readersOf a bs.length).filter (fun k => !s.isFrontier (s.unit k))
  (s.writeHome fn writer a bs poison).abort hit 1

end Sys2Proof.Machine
end

