-- ==== Sys2Proof/Machine/Future.lean ====
section
/-!
DEFINITION. Sys2Proof/Machine/Future.lean: task queues and their fallback order (R294), future records and the indivisible steps on
them (R297, R298), and the release of continuations.
-/

namespace Sys2Proof.Machine

open Host

/-! ### Placement (R30 to R32, R294) -/

/-- The physical cores of a function in logical order (R27). -/
def State.coresOf (s : State) (fn : Nat) : List Nat := (s.clustersOf fn).flatMap (fun k => (List.range 8).map (fun i => 8 * k + i))

/-- The order of R31 from a core: itself, its cluster, its die, every core of the function. -/
def State.placeOrder (s : State) (fn p : Nat) : List Nat :=
  let all := s.coresOf fn
  let rest := all.filter (fun c => c != p)
  let cl := rest.filter (fun c => c / 8 == p / 8)
  let die := rest.filter (fun c => c / 32 == p / 32 && c / 8 != p / 8)
  (if all.contains p then [p] else []) ++ cl ++ die ++ rest.filter (fun c => c / 32 != p / 32)

/-- The physical home core of a place, for a requester on `core` (R30). -/
def State.homeCore (s : State) (fn gpa : Nat) (pl : Place) (core : Nat) : Option Nat :=
  match pl with
  | .hbm _ => s.physCore fn (homeOf (s.coreCount fn) gpa)
  | .slice c _ => some c
  | .localScr _ => some core
  | _ => none

/-- The records of parked continuations. -/
def State.parked (s : State) : List ParkRec := s.conts.flatMap (fun c => c.waits)

/-- Records of a core's task queue in use (R294): queued tasks and parked continuations share them. -/
def State.queueUsed (s : State) (core : Nat) : Nat :=
  (s.tasks.filter (fun t => t.core == core && !t.overflow)).length + (s.parked.filter (fun p => p.core == core && !p.overflow)).length

/-- The overflow area's record count (R296). -/
def Fn.overflowSize (f : Fn) : Nat :=
  let l := f.tovf.toNat / 2 ^ 52 % 32
  if 12 ≤ l ∧ l ≤ 20 then 2 ^ l else 0

/-- Records of the function in its overflow area. -/
def State.overflowUsed (s : State) (fn : Nat) : Nat :=
  (s.tasks.filter (fun t => t.fn == fn && t.overflow)).length +
  ((s.conts.filter (fun c => c.task.fn == fn)).flatMap (fun c => c.waits.filter (fun p => p.overflow))).length

/-- The overflow base, as a trap record names it (R294). -/
def Fn.overflowBase (f : Fn) : DWord := f.tovf &&& 0x000FFFFFFFFFF000

/-- A TOVF written while records lay in the area takes effect once it is empty (R296). -/
def State.settleTovf (s : State) : State :=
  if s.fns.any (fun (_, f) => f.tovfNext.isSome) then
    { s with fns := s.fns.map (fun (k, f) =>
        (k, match f.tovfNext with
          | some v => if s.overflowUsed k = 0 then { f with tovf := v, tovfNext := none } else f
          | none => f)) }
  else s

/-- Where a record for a target core goes (R294), beside other records that go with it: a core and whether it lies in the overflow area;
none where all is full. -/
def State.queuePlace (s : State) (fn target : Nat) (more : List ParkRec) : Option (Nat × Bool) :=
  let used (c : Nat) : Nat := s.queueUsed c + (more.filter (fun p => p.core == c && !p.overflow)).length
  match (s.placeOrder fn target).find? (fun c => decide (used c < 512)) with
  | some c => some (c, false)
  | none =>
    if s.overflowUsed fn + (more.filter (fun p => p.overflow)).length < (s.fn fn).overflowSize then some (target, true) else none

/-- An ordered task whose target has speculation off goes to the first core with it on (R339). -/
def State.specTarget (s : State) (t : Task) (target : Nat) : Nat :=
  if t.ord.isSome && !s.specOn target then ((s.placeOrder t.fn target).find? (fun c => s.specOn c)).getD target else target

/-- The target core of a task whose affinity has been resolved to a home, or that has none (R294). -/
def State.enqueue (s : State) (t : Task) (target : Nat) : Option State :=
  match s.queuePlace t.fn (s.specTarget t target) [] with
  | none => none
  | some (c, ov) => some { s with tasks := insertTask s.tasks { t with core := c, overflow := ov, queuedAt := s.clock, stealable := false } }

/-- The first overflow record among some comes back. -/
def ParkRec.refill (ps : List ParkRec) (core : Nat) : List ParkRec :=
  match ps with
  | [] => []
  | p :: r => if p.core == core && p.overflow then { p with overflow := false } :: r else p :: ParkRec.refill r core

/-- Overflow records come back as records of their core free (R295): those of queued tasks in spawn order, then those of continuations. -/
def State.refillQueue (s : State) (core : Nat) : State :=
  if 512 ≤ s.queueUsed core then s
  else
    match s.tasks.find? (fun t => t.core == core && t.overflow) with
    | some t => { s with tasks := s.tasks.map (fun u => if u.id == t.id then { u with overflow := false } else u) }
    | none =>
      match s.conts.find? (fun c => c.waits.any (fun p => p.core == core && p.overflow)) with
      | none => s
      | some c => { s with conts := s.conts.map (fun x => if x.task.id == c.task.id then { x with waits := ParkRec.refill x.waits core } else x) }

/-! ### Future records (R297) -/

/-- A future record. -/
structure Fut where
  st : Nat
  wait : Nat
  /-- ST is not 3 and the reserved bits are 0 -/
  ok : Bool
  val : DWord
  poison : Bool
  valPoison : Bool

/-- The record at a host address. -/
def State.future (s : State) (a : Nat) : Fut :=
  let lo := s.dwordAt a
  { st := lo.toNat % 4
    wait := lo.toNat / 256 % 256
    ok := lo.toNat % 4 != 3 && (lo &&& 0xFFFFFFFFFFFF00FC) == 0
    val := s.dwordAt (a + 8)
    poison := s.poisonAt a 8
    valPoison := s.poisonAt (a + 8) 8 }

/-- Write ST and WAIT of a record. -/
def State.setFutLo (s : State) (fn a st wait : Nat) : State := s.writeOut fn none a (bytesOfNat 8 (st + 256 * wait)) false

/-- Continuations of a function are parked on the record of a guest PA (R297). -/
def State.parkedOn (s : State) (fn gpa : Nat) : Bool := s.conts.any (fun c => c.task.fn == fn && c.waits.any (fun p => p.gpa == gpa))

/-- The target of a continuation's task: the home of its affinity address, else the home that releases it (R294).  An
affinity address that does not translate counts as none; no permission is needed (R303). -/
def State.contTarget (s : State) (t : Task) (home : Nat) : Nat :=
  match t.aff with
  | none => home
  | some a =>
    match (translate s { fn := t.fn, blk := none, core := home } a.toNat .any).1 with
    | .ok x => (s.homeCore t.fn x.gpa x.place home).getD home
    | .error _ => home

/-- The task a released continuation starts (R291, R306): s4 to s8 are taken from the records now. -/
def State.contTask (s : State) (c : Cont) : Task :=
  let f (i : Nat) : Fut := match c.futures[i]? with | some r => s.future r.addr | none => ⟨0, 0, true, 0, false, false⟩
  let x := f 0
  let y := f 1
  { c.task with
    took := c.futures
    val1 := x.val, val1Poison := x.valPoison
    val2 := y.val, val2Poison := y.valPoison
    stWord := BitVec.ofNat 32 (x.st + 4 * y.st) }

/-- Release a continuation from a home (R294, R298); where everything is full it waits there. -/
def State.releaseCont (s0 : State) (c : Cont) (home : Nat) : State :=
  let s := c.futures.foldl (fun s r => s.meet c.task.fn (r.addr + 8) 8) s0
  let t := s.contTask c
  match s.enqueue t (s.contTarget t home) with
  | some s1 => s1
  | none => { s with conts := s.conts ++ [{ c with task := t, waits := [], count := 0, stuck := some home }] }

/-- Decrement every continuation parked on a record and release those that reach 0 (R298). -/
def State.decrement (s : State) (fn : Nat) (r : FutRef) : State :=
  let hit (c : Cont) : Bool := c.task.fn == fn && c.waits.any (fun p => p.gpa == r.gpa)
  let less (c : Cont) : Cont :=
    { c with count := c.count - (c.futures.filter (fun x => x.gpa == r.gpa)).length, waits := c.waits.filter (fun p => p.gpa != r.gpa) }
  let changed := s.conts.map (fun c => if hit c then less c else c)
  let done := (s.conts.filter hit).map less |>.filter (fun c => c.count == 0)
  let s1 := { s with conts := changed.filter (fun c => c.count != 0 || c.stuck.isSome) }
  done.foldl (fun s c => s.releaseCont c r.home) s1

/-- What a step on a record answers. -/
inductive FutAns where
  | ok (s : State)
  | double
  | fault (c : Cause)

/-- A resolution (R298, R305). -/
def State.resolve (s : State) (fn : Nat) (r : FutRef) (st : Nat) (val : DWord) (poison : Bool) : FutAns :=
  let f := s.future r.addr
  if f.poison then .fault .poison
  else if !f.ok then .fault .accessFault
  else if f.st != 0 then .double
  else
    let s1 := (s.writeOut fn none (r.addr + 8) (bytesOfNat 8 val.toNat) poison).setFutLo fn r.addr st 0
    .ok (s1.decrement fn r)

/-- FNEW (R304). -/
def State.futNew (s : State) (fn : Nat) (r : FutRef) : FutAns :=
  if s.parkedOn fn r.gpa then .fault .accessFault else .ok (s.writeOut fn none r.addr (bytesOfNat 16 0) false)

/-- Register a continuation on one record (R298), where a record of it may be parked (R294): beside those that go with it.  A cause with an
address is the overflow area's. -/
def State.registerOn (s : State) (fn : Nat) (r : FutRef) (more : List ParkRec) : Except (Cause × Option DWord) (State × List ParkRec) :=
  let f := s.future r.addr
  if f.poison then .error (.poison, none)
  else if !f.ok then .error (.accessFault, none)
  else if f.st != 0 then .ok (s, more)
  else if f.wait == 255 then .error (.accessFault, none)
  else
    match s.queuePlace fn r.home more with
    | none => .error (.accessFault, some (s.fn fn).overflowBase)
    | some (c, ov) => .ok (s.setFutLo fn r.addr 0 (f.wait + 1), more ++ [{ gpa := r.gpa, core := c, overflow := ov }])

/-- Register a continuation on its futures, every one or none (R298, R306). -/
def State.await (s : State) (t : Task) (futures : List FutRef) : Except (Cause × Option DWord) State :=
  let distinct := futures.foldl (fun l f => if l.any (fun (x : FutRef) => x.gpa == f.gpa) then l else l ++ [f]) ([] : List FutRef)
  match distinct.foldlM (fun (acc : State × List ParkRec) f => acc.1.registerOn t.fn f acc.2) (s, []) with
  | .error c => .error c
  | .ok (s1, waits) =>
    let count := (futures.filter (fun f => waits.any (fun p => p.gpa == f.gpa))).length
    let c : Cont := { task := t, count := count, futures := futures, waits := waits }
    if waits.isEmpty then .ok (s1.releaseCont c ((futures.getLast?.map (fun (f : FutRef) => f.home)).getD 0))
    else .ok { s1 with conts := s1.conts ++ [c] }

end Sys2Proof.Machine
end

