-- ==== Sys2Proof/Machine/Commit.lean ====
section
/-!
DEFINITION. Sys2Proof/Machine/Commit.lean: commits and promotion of speculative units (R322, R324, R329), tracked accesses
(R313 to R315, R319, R325), and how an instruction's fault is taken inside and outside a unit (R335, R355).
-/

namespace Sys2Proof.Machine

open Host

/-! ### Commit (R322, R327, R329) -/

/-- The bytes a version writes, as runs: whole 8-byte units where every byte is there, single bytes elsewhere. -/
def Version.runs (v : Version) : List (Nat × List Byte) :=
  (List.range 4).flatMap (fun q =>
    let bs := (List.range 8).filterMap (fun i => (v.bytes.get? (8 * q + i)).map (fun b => (8 * q + i, b)))
    if bs.length == 8 then [(8 * q, bs.map (·.2))] else bs.map (fun (i, b) => (i, [b])))

/-- The unit's versions become the committed value (R322, R329). -/
def State.commitVersions (s : State) (sid : Nat) : State :=
  let own := s.versions.filter (fun v => v.sid == sid)
  let fn := (s.unit sid).fn
  let s1 := own.foldl (fun s v => v.runs.foldl (fun s (i, bs) => s.writeHome fn none (v.gran + i) bs v.poison) s) s
  s1.dropVersions sid

/-- A commit record (R334): KIND 4, DOUBLE_RESOLVE, the future's VA; PC, BLK and WAVE are those of the held instruction and of the unit's
wave (R350, log 140). -/
def State.commitRecord (s : State) (u : SpecUnit) (pc va : DWord) : State :=
  let f := s.fn u.fn
  let r : TrapRec :=
    { id := s.serial, fn := u.fn, cause := .doubleResolve, kind := 4, fva := va, byWave := false, pc := pc
      blk := (s.block u.blk).handle, wave := (s.wave u.blk u.wave).idx, blkId := u.blk }
  { s.setFn u.fn { f with recs := f.recs ++ [r] } with serial := s.serial + 1 }

/-- The domain of an ordered task is closed, or a key not below the task's has committed: a spawn from outside the domain registers in one
order with the commits (R318). -/
def State.belowFloor (s : State) (t : Task) : Bool :=
  match t.ord, t.key with
  | some o, some k =>
    let d := (s.fn t.fn).domains.get {} o.dom
    !d.open_ || (match d.floor with | some f => decide (k ≤ f) | none => false)
  | _, _ => false

/-- A held operation of a unit takes effect (R334); the step of a future discards the core's copy of its record (R298).  What can no longer
be registered is left out (log 15). -/
def State.applyHeld (s : State) (u : SpecUnit) (h : Held) : State :=
  let core := s.coreOf u.blk
  match h with
  | .resolve pc va r st val p =>
    let s := s.meet u.fn r.addr 16
    match s.resolve u.fn r st val p with
    | .ok s1 => s1.dropL1 core r.addr 16
    | _ => (s.commitRecord u pc va).dropL1 core r.addr 16
  | .fnew r => (match s.futNew u.fn r with | .ok s1 => s1 | _ => s).dropL1 core r.addr 16
  | .await t futs =>
    let s := futs.foldl (fun (s : State) r => s.meet u.fn r.addr 16) s
    futs.foldl (fun s r => s.dropL1 core r.addr 16) (match s.await t futs with | .ok s1 => s1 | .error _ => s)
  | .spawn t =>
    if s.belowFloor t then s
    else
      match s.enqueue t t.core with
      | some s1 => s1
      | none => { s with conts := s.conts ++ [{ task := t, count := 0, futures := [], waits := [], stuck := some t.core }] }

/-- The spawn records of a committed task are released (R322). -/
def State.releaseSpawns (s : State) (id : Nat) : State :=
  let free (t : Task) : Task := if t.parent == some id then { t with parent := none } else t
  { s with
    tasks := s.tasks.map free
    units := s.units.map (fun (k, u) => (k, { u with task := u.task.map free }))
    blocks := s.blocks.map (fun (k, b) => (k, { b with task := b.task.map free })) }

/-- FLOOR of a domain rises to a key (R322). -/
def State.raiseFloor (s : State) (fn d k : Nat) : State :=
  let f := s.fn fn
  s.setFn fn { f with domains := f.domains.upd {} d (fun x => { x with floor := some k }) }

/-- Commit a unit: its versions, its held operations in program order, its spawns and its SID (R322, R329). -/
def State.commitUnit (s : State) (sid : Nat) : State :=
  let u := s.unit sid
  let s1 := s.commitVersions sid
  let s2 := { s1 with units := s1.units.erase sid }
  let s3 := u.held.foldl (fun s h => s.applyHeld u h) s2
  let s4 := match u.task with
    | some t => (match t.ord, t.key with
      | some o, some k => (s3.releaseSpawns t.id).raiseFloor u.fn o.dom k
      | _, _ => s3)
    | none => s3
  ((((s4.wakeEdges sid).dropEdges sid).forgetReads sid).faultReady)

/-- The finished tasks of a domain below a key, in ascending key (R322). -/
def State.finishedBelow (s : State) (fn d k : Nat) : List Nat :=
  let l := s.units.filterMap (fun (i, u) =>
    match u.task, u.key with
    | some t, some q => if u.fn == fn && u.finished && (t.ord.map (·.dom)) == some d && decide (q < k) then some (q, i) else none
    | _, _ => none)
  (l.foldl (fun acc x => (acc.filter (fun y => decide (y.1 < x.1))) ++ [x] ++ acc.filter (fun y => decide (x.1 < y.1))) []).map (·.2)

/-- A TDEFER that waits ends with q (R346); the 64-bit form has none. -/
def Wave.endDefer (w : Wave) (n : Nat) (b : Bool) : Wave :=
  match w.waits.get? n with
  | none => w
  | some p =>
    let w1 := match p.why with
      | .tdefer _ q => if p.enc.len == Len.l96 then w.mapLanes p.acting (fun _ x => x.setQ q b) else w
      | _ => w
    w1.wake n

/-- Every TDEFER of a wave that waits ends with q. -/
def Wave.endDefers (w : Wave) (b : Bool) : Wave :=
  (w.waitsWhere (fun y => match y with | .tdefer .. => true | _ => false)).foldl (fun w n => w.endDefer n b) w

/-- Promote the frontier task of a wave (R324): the tasks below it have committed, its own versions commit as at a commit, FLOOR included
(R322), and it runs on non-speculatively.  Its stalls are over. -/
def State.promote (s : State) (sid : Nat) : State :=
  let u := s.unit sid
  match u.task with
  | none => s
  | some t =>
    let below := match t.ord, t.key with | some o, some k => s.finishedBelow u.fn o.dom k | _, _ => []
    let s1 := below.foldl (fun s i => s.commitUnit i) s
    let s2 := s1.commitUnit sid
    let w := s2.wave u.blk u.wave
    let w1 := { w with spec := { w.spec with sid := none, promoted := true } }
    let s4 := s2.setWave u.blk u.wave ((w1.endDefers true).wakeWhere (fun y => match y with | .promote | .edge _ => true | _ => false))
    -- a deferred fault is delivered as it stands (R335)
    match u.deferred with
    | some r => s4.stopOn u.blk u.wave r
    | none => s4

/-! ### Tracked accesses (R313 to R315) -/

/-- Versions of ordered tasks, the highest key first. -/
def State.byKey (s : State) (vs : List Version) : List Version :=
  let key (v : Version) : Nat := (s.unit v.sid).key.getD 0
  vs.foldl (fun acc v => acc.filter (fun w => decide (key v < key w)) ++ [v] ++ acc.filter (fun w => decide (key w < key v))) ([] : List Version)

/-- The versions of a granule, the newest first (R314): those of regions in the order of their writes, then those of ordered tasks in key
order. -/
def State.newestFirst (s : State) (gran : Nat) : List Version :=
  let vs := s.versions.filter (fun v => v.gran == gran)
  (vs.filter (fun v => (s.unit v.sid).task.isNone)).reverse ++ s.byKey (vs.filter (fun v => (s.unit v.sid).task.isSome))

/-- The versions of a granule that serve a unit's read, the first to look at first (R314): its own, then the newest for a region, and for a
task of key K the highest key below K.  A region's version would be read by a task too, by an edge that R332 refuses. -/
def State.serving (s : State) (sid gran : Nat) : List Version :=
  let vs := s.newestFirst gran
  let seen := match (s.unit sid).key with
    | some k => vs.filter (fun v => match (s.unit (v : Version).sid).key with | some q => decide (q < k) | none => true)
    | none => vs
  vs.filter (fun v => v.sid == sid) ++ seen.filter (fun v => v.sid != sid)

/-- What one tracked access comes to. -/
inductive Tracked (α : Type) where
  | ok (s : State) (v : α)
  /-- the access stalls (R328), a task's on the regions `on` (R332) -/
  | stall (s : State) (on : List Nat)
  /-- the unit itself must abort, with a reason of R344 -/
  | abort (s : State) (reason : Nat)

/-- Record that a unit read a granule from some versions and perhaps the committed value. -/
def SpecUnit.noteRead (u : SpecUnit) (home gran : Nat) (srcs : List (Option Nat × Option Nat)) (committed : Bool) : SpecUnit :=
  if u.reads.any (fun r => r.gran == gran) then
    { u with reads := u.reads.map (fun r => if r.gran == gran then
        { r with srcs := r.srcs ++ srcs.filter (fun x => !r.srcs.contains x), committed := r.committed || committed } else r) }
  else { u with reads := u.reads ++ [{ gran := gran, home := home, srcs := srcs, committed := committed }] }

/-- The granules that a unit has written. -/
def State.writeSet (s : State) (sid : Nat) : List Nat := (s.versions.filter (fun v => v.sid == sid)).map (·.gran)

/-- The edges of a unit from a list of units, one after another (R326). -/
def State.edges (s : State) (froms : List Nat) (v : Nat) : Tracked Unit :=
  match froms with
  | [] => .ok s ()
  | u :: r =>
    match s.edge u v with
    | .granted s1 => s1.edges r v
    | .cycle => .abort s 4
    | .stall => .stall s ((u :: r).filter (fun k => (s.unit k).task.isNone))

/-- A granule has an entry in its home's directory: a version or a reader (R313). -/
def State.tracked (s : State) (gran : Nat) : Bool :=
  s.versions.any (fun v => v.gran == gran) || s.units.any (fun (_, u) => u.reads.any (fun r => r.gran == gran))

/-- The granules with an entry in a home's directory. -/
def State.directory (s : State) (home : Nat) : List Nat :=
  let vs := (s.versions.filter (fun v => v.home == home)).map (·.gran)
  let rs := s.units.flatMap (fun (_, u) => (u.reads.filter (fun r => r.home == home)).map (·.gran))
  (vs ++ rs).foldl setInsert []

/-- A new entry would not fit in the home's directory share (R315): the number of entries it holds is not stated (log 16). -/
def State.dirFull (s : State) (home gran : Nat) : Bool := !s.tracked gran && decide (Config.directoryEntries ≤ (s.directory home).length)

/-- One granule's part of a tracked load: bytes `lo` to `lo + n` of the granule (R313, R314, R325). -/
def State.specReadGran (s : State) (sid home gran lo n : Nat) : Tracked (List Byte × Bool) :=
  let u := s.unit sid
  let vs := s.serving sid gran
  let pick (i : Nat) : Option Version := vs.find? (fun v => (v.bytes.get? i).isSome)
  let idx := (List.range n).map (fun i => lo + i)
  let used := idx.filterMap pick
  let fromOthers := (used.map (·.sid)).foldl setInsert [] |>.filter (fun k => k != sid)
  let full := !u.reads.any (fun r => r.gran == gran) && decide (512 ≤ u.reads.length)
  if full || s.dirFull home gran then .abort s 3
  else
    match s.edges fromOthers sid with
    | .abort s1 r => .abort s1 r
    | .stall s1 on => .stall s1 on
    | .ok s1 _ =>
      let committed := idx.any (fun i => (pick i).isNone)
      let srcs := fromOthers.map (fun k => (some k, (s1.unit k).key))
      let bytes := idx.map (fun i => match pick i with | some v => v.bytes.get 0 i | none => s1.byteAt (gran + i))
      let p := used.any (fun v => v.poison) || (committed && s1.poisonAt (gran + lo) n)
      let s2 := if committed then s1.meet u.fn (gran + lo) n else s1
      .ok (s2.setUnit sid ((s2.unit sid).noteRead home gran srcs committed)) (bytes, p)

/-- The parts of an access that lie in each granule: granule, first byte and count. -/
def granParts (a n : Nat) : List (Nat × Nat × Nat) :=
  if n = 0 then []
  else
    (List.range ((a + n - 1) / 32 - a / 32 + 1)).map (fun j =>
      let g := (a / 32 + j) * 32
      let lo := if j = 0 then a % 32 else 0
      (g, lo, min 32 (a + n - g) - lo))

/-- A tracked load of n bytes (R313); `home` gives the home core of an address. -/
def State.specRead (s : State) (sid : Nat) (home : Nat → Nat) (a n : Nat) : Tracked (List Byte × Bool) :=
  (granParts a n).foldl (fun (acc : Tracked (List Byte × Bool)) (g, lo, m) =>
    match acc with
    | .ok s1 (bs, p) =>
      match s1.specReadGran sid (home g) g lo m with
      | .ok s2 (cs, q) => .ok s2 (bs ++ cs, p || q)
      | .stall s2 on => .stall s2 on
      | .abort s2 r => .abort s2 r
    | x => x) (.ok s ([], false))

/-- The ordered tasks of a key above a writer's that read the granule from a version of a key below it, or its committed value (R319). -/
def State.conflicts (s : State) (k gran : Nat) : List Nat :=
  (s.units.filter (fun (_, u) =>
    match u.key with
    | some q => decide (k < q) && u.reads.any (fun r => r.gran == gran &&
        (r.committed || r.srcs.any (fun (_, x) => match x with | some y => decide (y < k) | none => false)))
    | none => false)).map (·.1)

/-- One granule's part of a tracked store (R313, R315, R319, R325, R332). -/
def State.specWriteGran (s : State) (sid core home gran lo : Nat) (bs : List Byte) (poison : Bool) : Tracked Unit :=
  let u := s.unit sid
  let vs := s.versions.filter (fun v => v.gran == gran)
  let mine := vs.find? (fun v => v.sid == sid)
  let readers := (s.units.filter (fun (k, x) => k != sid && x.reads.any (fun r => r.gran == gran))).map (·.1)
  -- the edges of a region's write, and of a task's write that meets a region (R325, R332)
  let froms := match u.task with
    | none => readers ++ (((s.newestFirst gran).head?.map (fun (v : Version) => v.sid)).toList.filter (fun k => k != sid))
    | some _ => (readers ++ vs.map (fun (v : Version) => v.sid)).filter (fun k => k != sid && (s.unit k).task.isNone)
  match s.edges froms sid with
  | .abort s1 r => .abort s1 r
  | .stall s1 on => .stall s1 on
  | .ok s1 _ =>
    let s2 := match u.key with
      | some k => s1.abortTasks (s1.conflicts k gran) 1
      | none => s1
    let put (v : Version) : Version := { v with bytes := bs.zipIdx.foldl (fun t (b, i) => t.set (lo + i) b) v.bytes, poison := v.poison || poison }
    match mine with
    | some _ =>
      -- a write by the unit stands newest (R325)
      let rest := s2.versions.filter (fun v => !(v.sid == sid && v.gran == gran))
      let old := (s2.versions.filter (fun v => v.sid == sid && v.gran == gran)).headD { sid := sid, gran := gran, core := core, home := home }
      .ok { s2 with versions := rest ++ [put old] } ()
    | none =>
      let vs2 := s2.versions.filter (fun v => v.gran == gran)
      let higher : List Version := match u.key with
        | none => []
        | some k => (s2.byKey (vs2.filter (fun v => (s2.unit v.sid).task.isSome))).filter (fun (v : Version) => decide (k < (s2.unit v.sid).key.getD 0))
      let area := (s2.versions.filter (fun v => v.core == core)).length
      if decide (256 ≤ (s2.writeSet sid).length) || decide (32768 ≤ area) || s2.dirFull home gran then .abort s2 3
      else if vs2.length < 4 then .ok { s2 with versions := s2.versions ++ [put { sid := sid, gran := gran, core := core, home := home }] } ()
      else
        match higher with
        | [] => .abort s2 3
        | v :: _ =>
          -- the frontier task of another domain is promoted instead (R324)
          let s3 := if s2.isFrontier (s2.unit v.sid) then s2.promote v.sid else s2.abort [v.sid] 3
          .ok { s3 with versions := s3.versions ++ [put { sid := sid, gran := gran, core := core, home := home }] } ()

/-- A tracked store (R313). -/
def State.specWrite (s : State) (sid core : Nat) (home : Nat → Nat) (a : Nat) (bs : List Byte) (poison : Bool) : Tracked Unit :=
  (granParts a bs.length).foldl (fun (acc : Tracked Unit) (g, lo, m) =>
    match acc with
    | .ok s1 _ => s1.specWriteGran sid core (home g) g lo ((bs.drop (g + lo - a)).take m) poison
    | x => x) (.ok s ())

/-! ### Taking a fault (R335, R355) -/

/-- The causes that are never deferred (R335). -/
def Cause.neverDeferred (c : Cause) : Bool := c == .illegalLength || c == .illegalPlacement

/-- The fault of an instruction of a wave: delivered, or deferred where the wave is a speculative unit (R335).  `own` says
that the instruction is one of the speculation engine's. -/
def State.raise (s : State) (c : Ctx) (raw : Raw) (own : Bool) (f : FaultInfo) : State :=
  let w := s.ctxWave c
  match w.spec.sid with
  | none => s.raiseTrap c raw f
  | some sid =>
    if own || f.cause.neverDeferred then s.raiseTrap c raw f
    else
      let r := { s.trapRecord c raw f with def_ := true }
      let u := s.unit sid
      let s1 := { s with serial := s.serial + 1 }.setUnit sid { u with deferred := some r, deferredAt := s.clock }
      if u.task.isNone && u.deps.isEmpty then s1.abort [sid] 6 else s1

end Sys2Proof.Machine
end

