-- ==== Sys2Proof/Machine/Access.lean ====
section
/-!
DEFINITION. Sys2Proof/Machine/Access.lean: accesses in flight: when a store is performed and when a load takes its value (R127 to
R133), the L1 of a core (R129), atomics (R114, R115), and the registers an access writes.

A store waits in its wave's list until it is performed; a load waits there until it takes its value.  Either may happen at
any later step.  An instruction that needs the result, or an ordering instruction, makes the accesses it waits for happen
first (log 10).  POISON of an atomic in flight is raised when every access of its instruction has happened (R115).
-/

namespace Sys2Proof.Machine

open Host

/-- The bytes an access touches. -/
def Access.size (a : Access) : Nat :=
  match a.kind with
  | .load n _ => n
  | .store bs _ => bs.length
  | .atom _ n .. => n
  | .waitw n .. => n
  | .lr n => n
  | .sc bs _ => bs.length

/-- Two accesses touch a common word. -/
def Access.sameWord (a b : Access) : Bool :=
  decide (a.addr / 4 * 4 < (b.addr + b.size + 3) / 4 * 4) && decide (b.addr / 4 * 4 < (a.addr + a.size + 3) / 4 * 4)

/-- The access is a store, an atomic or a reduction: it counts as a store not yet performed (R114, R130). -/
def Access.isWrite (a : Access) : Bool :=
  match a.kind with
  | .store .. | .atom .. | .sc .. => true
  | _ => false

/-! ### The L1 (R129) -/

/-- The waves of a core's resident blocks have a store to the word at an address that is not yet performed. -/
def State.pendingStore (s : State) (core a n : Nat) : Bool :=
  s.blocks.any (fun (_, b) => b.waves.any (fun (_, w) => w.acc.any (fun x =>
    x.core == core && x.isWrite && x.remote.isNone && decide (x.addr / 4 * 4 < (a + n + 3) / 4 * 4) &&
    decide (a / 4 * 4 < (x.addr + x.size + 3) / 4 * 4))))

/-- A fill of the line of an address (R129): each word as it stands at its home, but those the core has a store to. -/
def State.fillLine (s : State) (core a : Nat) : State :=
  let line := a / 128 * 128
  let c := s.core core
  let l1 := (List.range 32).foldl
    (fun l1 i =>
      let wa := line + 4 * i
      if s.pendingStore core wa 4 then l1
      else l1.set (wa / 4) { val := ⟨s.wordAt wa, s.poisonAt wa 4⟩, owned := false }) c.l1
  s.setCore core { c with l1 := l1 }

/-- A core forgets the code it fetched before (R48). -/
def State.forgetCode (s : State) (core : Nat) : State := s.setCore core { s.core core with icache := [] }

/-- ACQ discards every copy whose owned bit is clear (R120). -/
def State.discardUnowned (s : State) (core : Nat) : State :=
  let c := s.core core
  s.setCore core { c with l1 := c.l1.filter (fun (_, w) => w.owned) }

/-- The L1 of a core is emptied, and the core owns no word (R137): at a wave's placement, at a save and at a function reset.  Copies of
words to which the core has a store not yet performed stay (R129). -/
def State.emptyL1 (s : State) (core : Nat) : State :=
  let c := s.core core
  s.setCore core { c with l1 := c.l1.filter (fun (k, _) => s.pendingStore core (4 * k) 4), owns := [] }

/-- A store by the core writes its copy of the word, if it has one, and owns it (R129). -/
def Core.storeL1 (c : Core) (a : Nat) (bs : List Byte) (poison : Bool) : Core :=
  match c.l1.get? (a / 4) with
  | none => c
  | some w =>
    let old := bytesOfNat 4 w.val.val.toNat
    let i := a % 4
    let new := old.take i ++ bs ++ old.drop (i + bs.length)
    let x : L1Word :=
      { val := ⟨BitVec.ofNat 32 (natOfBytes (new.take 4)), poison || w.val.poison⟩, owned := true
        -- a store of the whole word is behind no batch: it is performed after what batches have written (R36)
        behind := if bs.length < 4 then w.behind else [] }
    { c with l1 := c.l1.set (a / 4) x }

/-! ### Atomics (R114, R115) -/

/-- A number of `n` bytes read as signed. -/
def signedOf (n : Nat) (x : Nat) : Int := if x < 2 ^ (8 * n - 1) then (x : Int) else (x : Int) - 2 ^ (8 * n)

/-- The new value of an AOP on n bytes; none where a CAS does not write (R114). -/
def atomNew (aop n old op op2 : Nat) : Option Nat :=
  let m := 2 ^ (8 * n)
  match aop with
  | 0 => some ((old + op) % m)
  | 1 => some (if signedOf n old ≤ signedOf n op then old else op)
  | 2 => some (if signedOf n op ≤ signedOf n old then old else op)
  | 3 => some (min old op)
  | 4 => some (max old op)
  | 5 => some (old &&& op)
  | 6 => some (old ||| op)
  | 7 => some (old ^^^ op)
  | 8 => some op
  | 9 => if old = op then some op2 else none
  | 10 => some (atomFadd old op)
  | 11 => some (if op ≤ old then 0 else old + 1)
  | _ => some (if old = 0 ∨ op < old then op else old - 1)

/-- An AOP computes with the old value and its operand: every one but XCHG (R115). -/
def aopConsumes (aop : Nat) : Bool := aop != 8

/-- The words of a number of n bytes, low word first; a byte or a halfword is one word. -/
def wordsOf (n x : Nat) : List Word := (List.range ((n + 3) / 4)).map (fun i => BitVec.ofNat 32 (x / 2 ^ (32 * i)))

/-- The 32-bit value of a load of n bytes: extended by sign or by zeros (R112). -/
def extendLoad (n : Nat) (sx : Bool) (x : Nat) : Nat :=
  if sx && decide (n < 4) && decide (2 ^ (8 * n - 1) ≤ x) then x + (2 ^ 32 - 2 ^ (8 * n)) else x

/-! ### Results of accesses -/

/-- The frame that holds a lane's context; none where the running context does (R357). -/
def Wave.heldFrame (w : Wave) (l : Nat) : Option Nat :=
  if (w.lane l).cond == .stacked then w.frames.findIdx? (fun f => (f.lanes.get {} l).cond != .stacked) else none

/-- Change a lane in the context that holds it. -/
def Wave.onHeld (w : Wave) (l : Nat) (f : Lane → Lane) : Wave :=
  match w.heldFrame l with
  | none => w.setLane l (f (w.lane l))
  | some i =>
    { w with
      frames := w.frames.modify i (fun fr =>
        { fr with lanes := fr.lanes.set l (f (({} : Lane).fromFrame (fr.lanes.get {} l))).toFrame }) }

/-- Write a uniform register in the context that holds a lane. -/
def Wave.setSHeld (w : Wave) (l r : Nat) (x : PWord) : Wave :=
  match w.heldFrame l with
  | none => w.setS r x
  | some i => { w with frames := w.frames.modify i (fun fr => { fr with sregs := fr.sregs.set r x }) }

/-- The latch lane of a producer takes a value (R53): at once, or, for a value that arrives later, unless the lane has been
lost or taken by another producer since. -/
def Wave.latchTake (w : Wave) (l dlt : Nat) (nwb : Bool) (tag : BitVec 8) (fresh : Bool) (x : PWord) : Wave :=
  if dlt < 4 then
    w.onHeld l (fun y =>
      let ll := y.latches.get {} dlt
      if fresh || (ll.valid && ll.tag == tag) then
        { y with latches := y.latches.set dlt { val := x, tag := tag, nwb := nwb, valid := true } }
      else y)
  else w

/-- A value that arrives for an access goes to its destination (R53, R112). -/
def Wave.deliver (w : Wave) (a : Access) (fresh : Bool) (xs : List PWord) : Wave :=
  match a.dst with
  | .none => w
  | .scale va => { w with scales := w.scales.set a.lane (va, xs.headD {}) }
  | .v reg _ dlt nwb tag =>
    let w1 := w.latchTake a.lane dlt nwb tag fresh (xs.headD {})
    if nwb then w1 else xs.zipIdx.foldl (fun w (y, i) => w.setVAt (reg + i) a.lane y) w1
  | .s reg _ => xs.zipIdx.foldl (fun w (y, i) => w.setSHeld a.lane (reg + i) y) w
  | .cvt reg fmt dt sc dlt tag =>
    let (ys, fl) := decodeGroup fmt dt sc xs
    let w1 := w.latchTake a.lane dlt false tag fresh (ys.headD {})
    let w2 := ys.zipIdx.foldl (fun w (y, i) => w.setVAt (reg + i) a.lane y) w1
    w2.onHeld a.lane (fun x => { x with fpstat := x.fpstat ||| fl })

/-- What performing an access did: the state, and whether it consumed poison. -/
structure Performed where
  s : State
  w : Wave
  poison : Bool := false
  /-- the access is over; a WAITW whose word still holds the comparand is not -/
  ends : Bool := true

/-- The value of a load (R130): from the L1 where a copy exists that is not discarded now, else at the home, with a fill of the L1 or
without (R129). -/
def State.loadValue (s : State) (a : Access) (n : Nat) : PWord × State :=
  let home (s : State) : PWord := ⟨BitVec.ofNat 32 (s.natAt a.addr n), s.poisonAt a.addr n⟩
  let miss (s : State) : PWord × State :=
    let (fill, s1) := s.drawBool
    (home s, if fill then s1.fillLine a.core a.addr else s1)
  if !a.cached then (home s, s)
  else
    match (s.core a.core).l1.get? (a.addr / 4) with
    | some c =>
      let v : PWord := ⟨BitVec.ofNat 32 (c.val.val.toNat / 2 ^ (8 * (a.addr % 4)) % 2 ^ (8 * n)), c.val.poison⟩
      if s.pendingStore a.core a.addr n then (v, s)
      else
        let (drop, s1) := s.drawBool
        if drop then miss (s1.dropL1 a.core a.addr n) else (v, s1)
    | none => miss s

/-- The store is the last word of its lane's access to a check unit to be performed, and the access wrote the unit whole (R39). -/
def Wave.lastOfUnit (w : Wave) (a : Access) : Bool :=
  a.whole && !w.acc.any (fun x => x.id != a.id && x.lane == a.lane && x.grp == a.grp && x.whole && granuleAt x.addr == granuleAt a.addr)

/-- Perform an access of a wave of a function, or let it take its value (R114, R115, R128 to R131).  The wave is given apart from the
state, so that its other accesses do not change. -/
def performOne (s : State) (fn : Nat) (w : Wave) (a : Access) : Performed :=
  match a.kind with
  | .store bs p =>
    let s1 := s.writeOut fn (if a.cached then some a.core else none) a.addr bs p
    { s := if w.lastOfUnit a then { s1 with poisoned := setErase s1.poisoned (granuleAt a.addr) } else s1
      w := w.dropResv a.addr bs.length }
  | .load n sx =>
    let (v, s1) := s.loadValue a n
    { s := s1, w := w.deliver a false [⟨BitVec.ofNat 32 (extendLoad n sx v.val.toNat), v.poison⟩] }
  | .atom aop n op op2 p1 p2 =>
    let old := s.natAt a.addr n
    let oldP := s.poisonAt a.addr n
    let bad := aopConsumes aop && (oldP || p1)
    let s1 :=
      match atomNew aop n old (op.toNat % 2 ^ (8 * n)) (op2.toNat % 2 ^ (8 * n)) with
      | none => s
      | some v =>
        let vp := bad || (if aop == 8 then p1 else aop == 9 && p2)
        s.writeOut fn none a.addr (bytesOfNat n v) vp
    let wrote := (atomNew aop n old (op.toNat % 2 ^ (8 * n)) (op2.toNat % 2 ^ (8 * n))).isSome
    let w1 := if wrote then w.dropResv a.addr n else w
    { s := s1, w := w1.deliver a false ((wordsOf n old).map (fun x => ⟨x, oldP || bad⟩)), poison := bad }
  | .waitw n cmp cp =>
    let v := s.natAt a.addr n
    let p := s.poisonAt a.addr n
    if p || cp then { s := s, w := w, poison := true }
    else if v == cmp.toNat % 2 ^ (8 * n) then { s := s, w := w, ends := false }
    else { s := s, w := w.deliver a true ((wordsOf n v).map (fun x => ⟨x, false⟩)) }
  | .lr _ | .sc .. => { s := s, w := w }

/-- The access reads its word at the home. -/
def Access.readsHome (a : Access) (s : State) : Bool :=
  match a.kind with
  | .store .. | .sc .. => false
  | _ => !(a.cached && a.kind.readsOnly && ((s.core a.core).l1.get? (a.addr / 4)).isSome)

/-! ### Poison of instructions that have not completed (R115, R123) -/

/-- Note that lanes of an instruction consumed poison. -/
def Wave.noteLate (w : Wave) (g : Nat) (t : Site) : Wave :=
  { w with late :=
      if w.late.any (fun x => x.grp == g) then
        w.late.map (fun x => if x.grp == g then { x with site := { x.site with lanes := x.site.lanes ||| t.lanes } } else x)
      else w.late ++ [⟨g, t⟩] }

/-- A lane of the instruction is in a done-mask: other lanes of it have yet to be performed (R126). -/
def Late.halfDone (x : Late) (m : BitVec 32) (g : Tab Nat) : Bool :=
  (lanesOf x.site.lanes).any (fun l => m.getLsbD l && g.get 0 l == x.grp)

/-- Every lane of the instruction has completed. -/
def Wave.lateDone (w : Wave) (x : Late) : Bool :=
  !w.acc.any (fun a => a.grp == x.grp) && !x.halfDone w.doneMask w.doneGrp && !w.frames.any (fun f => x.halfDone f.doneMask f.doneGrp)

/-- The instructions of a wave that have completed and whose POISON is to be raised. -/
def Wave.lateReady (w : Wave) : List Late := w.late.filter w.lateDone

/-- An access in flight consumed poison (R115): the record names its instruction, which has completed. -/
def State.raiseSite (s : State) (blk wave : Nat) (t : Site) : State :=
  s.raise { blk := blk, wave := wave, pc := t.pc, nextPc := t.nextPc, members := t.lanes, acting := t.lanes } t.raw false
    { cause := .poison, lanes := t.lanes, perFibre := true, resume := .inPlace }

/-- Raise POISON for instructions of a wave that have completed, but for those of a list (R115); inside a unit an instruction's own end
raises it. -/
def State.reportBut (s : State) (blk wave : Nat) (old : List Late) : State :=
  let w := s.wave blk wave
  let xs := w.lateReady.filter (fun x => !old.contains x)
  if w.spec.sid.isSome || xs.isEmpty then s
  else xs.foldl (fun s x => s.raiseSite blk wave x.site) (s.setWave blk wave { w with late := w.late.filter (fun x => !xs.contains x) })

/-- Raise POISON for the instructions of a wave that have completed. -/
def State.reportLate (s : State) (blk wave : Nat) : State := s.reportBut blk wave []

/-! ### Performing accesses (R114, R128 to R131) -/

/-- Perform one access of a wave's list and take it off the list; if it consumed poison, its instruction is noted. -/
def State.performAcc (s0 : State) (blk wave : Nat) (a : Access) : State :=
  let s := if a.readsHome s0 then s0.meet (s0.block blk).fn a.addr a.size else s0
  let r := performOne s (s.block blk).fn (s.wave blk wave) a
  let w := { r.w with acc := if r.ends then r.w.acc.filter (fun x => x.id != a.id) else r.w.acc }
  r.s.setWave blk wave (if r.poison then w.noteLate a.grp a.site else w)

/-- A load takes its value from the core's L1. -/
def State.readsCopy (s : State) (a : Access) : Bool :=
  a.kind.readsOnly && a.cached && ((s.core a.core).l1.get? (a.addr / 4)).isSome

/-- Of two accesses of a wave that share a word, the earlier must happen before the later does: accesses of one fibre, but its stores
not before a load that takes its value from a copy which carries them (R130, R131), and the writes of one instruction, whose lanes follow
one another (R112, R114). -/
def State.precedes (s : State) (x y : Access) : Bool :=
  x.remote.isNone && x.sameWord y && (match x.kind with | .waitw .. => false | _ => true) &&
  ((x.lane == y.lane && !(x.isWrite && s.readsCopy y)) || (x.grp == y.grp && x.isWrite))

/-- The accesses of a wave that must happen before one of them does, oldest first: those that precede it, and those that precede these. -/
def State.mustPrecede (s : State) (w : Wave) (a : Access) : List Access :=
  ((w.acc.takeWhile (fun x => x.id != a.id)).foldr (fun x need => if need.any (s.precedes x) then x :: need else need) [a]).dropLast

/-- The stores of the core to a load's word that must be performed first because no copy carries them (R130). -/
def State.storesBefore (s : State) (a : Access) : List (Nat × Nat × Access) :=
  if a.kind.readsOnly && a.cached && ((s.core a.core).l1.get? (a.addr / 4)).isNone then
    s.blocks.flatMap (fun (b, bk) => bk.waves.flatMap (fun (k, w) =>
      (w.acc.filter (fun x => x.core == a.core && x.isWrite && x.remote.isNone && x.sameWord a)).map (fun x => (b, k, x))))
  else []

/-- Perform an access that is still in flight. -/
def State.performLeft (s : State) (blk wave : Nat) (a : Access) : State :=
  if (s.wave blk wave).acc.any (fun x => x.id == a.id) then s.performAcc blk wave a else s

/-- Perform what must happen before an access of a wave does (R114, R130, R131).  Other waves' instructions that complete so raise their
POISON. -/
def State.performBefore (s : State) (blk wave : Nat) (a : Access) : State :=
  let stores := s.storesBefore a
  let s1 := stores.foldl (fun s (b, k, x) => (s.mustPrecede (s.wave b k) x ++ [x]).foldl (fun s y => s.performLeft b k y) s) s
  let s2 := (s1.mustPrecede (s1.wave blk wave) a).foldl (fun s y => s.performLeft blk wave y) s1
  stores.foldl (fun s (b, k, _) => if b == blk && k == wave then s else s.reportLate b k) s2

/-- Perform an access and what must happen before it. -/
def State.performWith (s : State) (blk wave : Nat) (a : Access) : State := (s.performBefore blk wave a).performLeft blk wave a

/-- Make the accesses of a wave that satisfy a test happen now, oldest first; WAITW reads and remote accesses are left. -/
def State.performWhere (s : State) (blk wave : Nat) (p : Access → Bool) : State :=
  ((s.wave blk wave).acc.filter p).foldl
    (fun s a =>
      match a.kind, a.remote with
      | .waitw .., _ => s
      | _, some _ => s
      | _, none => if (s.wave blk wave).acc.any (fun x => x.id == a.id) then s.performWith blk wave a else s) s

/-- REL (R121): every access of the wave before it has taken its value or been performed. -/
def State.doRel (s : State) (blk wave : Nat) : State := s.performWhere blk wave (fun _ => true)

/-- ACQ (R120): every load and atomic of the wave before it has taken its value, and the core's unowned copies go. -/
def State.doAcq (s : State) (blk wave : Nat) : State :=
  let s1 := s.performWhere blk wave (fun a => match a.kind with | .store .. => false | _ => true)
  s1.discardUnowned (s1.coreOf blk)

end Sys2Proof.Machine
end

