-- ==== Sys2Proof/Machine/Barrier.lean ====
section
/-!
DEFINITION. Sys2Proof/Machine/Barrier.lean: barriers and the rings' fill barriers (R201 to R208): contributions, the step of R202,
poisoning, and the end of waits for a phase (R204, R213, R267).
-/

namespace Sys2Proof.Machine

open Host

/-- The words of an instruction, for its trap record and its operand words (R350, R358). -/
def rawOf (i : Instr) : Raw :=
  let w := natOfBytes ((encode i).getD [])
  { w0 := BitVec.ofNat 64 w, w1 := BitVec.ofNat 32 (w / 2 ^ 64), w2 := BitVec.ofNat 32 (w / 2 ^ 96) }

/-- An acquire by a wave (R35, R120); inside a unit its accesses already have their values (R334). -/
def State.acquire (s : State) (blk wave : Nat) : State :=
  if (s.wave blk wave).spec.sid.isSome then s else (s.doAcq blk wave).reportBut blk wave (s.wave blk wave).lateReady

/-! ### Records of the matrix stream (R274) -/

/-- Stop the stream of a block on a fault (R274): the record waits to be produced and the block is saved. -/
def State.streamRaise (s : State) (blk : Nat) (pc nextPc : DWord) (raw : Raw) (f : FaultInfo) : State :=
  let b := s.block blk
  match b.stream with
  | none => s
  | some m =>
    let r : TrapRec :=
      { id := s.serial, fn := b.fn, cause := f.cause, ans := true, kind := 1, pc := pc, fva := f.fva, iw0 := raw.w0, iw1 := raw.w1
        iw2 := raw.w2, blk := b.handle, obj := f.obj, aux := f.aux, resume := f.resume, syn := f.syn, nextPc := nextPc
        blkId := blk }
    let fn := s.fn b.fn
    let s1 := { s.setFn b.fn { fn with recs := fn.recs ++ [r] } with serial := s.serial + 1 }
    s1.setBlock blk { b with stream := some { m with stopped := some r }, saving := true, holds := b.holds ++ [r.id] }

/-! ### Barriers and fill barriers -/

/-- A barrier nothing has changed since the block was placed: it expects every wave placed with the block, and its stream (R201). -/
def Block.freshBar (b : Block) : Bar := { exp := b.waves.length + (if b.stream.isSome then 1 else 0) }
def Block.bar (b : Block) (n : Nat) : Bar := b.bars.get b.freshBar n
def Block.ring (b : Block) (n : Nat) : Ring := b.rings.get {} n
def State.setBar (s : State) (blk n : Nat) (x : Bar) : State := s.setBlock blk { s.block blk with bars := (s.block blk).bars.set n x }
def State.setRing (s : State) (blk n : Nat) (x : Ring) : State := s.setBlock blk { s.block blk with rings := (s.block blk).rings.set n x }
def Ring.slot (r : Ring) (i : Nat) : Slot := r.slots.get {} i
def Ring.setSlot (r : Ring) (i : Nat) (x : Slot) : Ring := { r with slots := r.slots.set i x }

/-- OBJ of a record that names a barrier (R350). -/
def barObj (b : Nat) : BitVec 8 := BitVec.ofNat 8 (128 + b % 128)

/-- A ring's PRODUCING slot whose fill barrier completed a phase or was poisoned goes to FILLED (R208). -/
def Ring.filledBy (r : Ring) (b : Nat) (err : Bool) : Ring :=
  if r.v && r.be && decide (r.bb ≤ b) && decide (b ≤ r.bb + r.ns) && (r.slot (b - r.bb)).st == 1 then
    r.setSlot (b - r.bb) { r.slot (b - r.bb) with st := 2, err := err }
  else r

/-- Every ring of the block at a phase end of a fill barrier. -/
def State.fillSlots (s : State) (blk b : Nat) (err : Bool) : State :=
  let k := s.block blk
  s.setBlock blk { k with rings := k.rings.map (fun (c, r) => (c, r.filledBy b err)) }

/-- A phase wait is over (R204). -/
def Bar.passes (x : Bar) (parity : Bool) : Bool := x.psn || x.phase != parity

/-- The lanes of a WAITB whose wait is over (R213). -/
def State.endWaitb (s : State) (blk wave n : Nat) (p : Park) (b : Nat) : State :=
  let x := (s.block blk).bar b
  let w := s.wave blk wave
  let st := p.enc.fn == 1
  let w1 := if st then (lanesOf p.lanes).foldl (fun w l => w.onWaiter n l (fun y => y.setQ p.enc.dst.toNat (!x.psn))) w else w
  if x.psn && !st then
    (s.setWave blk wave (w.wakeAt n true)).raise (waitCtx blk wave w p) (rawOf (.waitb p.enc)) false
      { cause := x.ecause, lanes := p.lanes, perFibre := true, obj := barObj b }
  else
    let s1 := s.setWave blk wave (w1.wake n)
    if x.psn then s1 else s1.acquire blk wave

/-- The stream's MWAITB whose wait is over (R267). -/
def State.endStreamWait (s : State) (blk b : Nat) (parity : Bool) (raw : Raw) : State :=
  let k := s.block blk
  match k.stream with
  | none => s
  | some m =>
    let x := k.bar b
    if !x.passes parity then s
    else if x.psn then
      (s.setBlock blk { k with stream := some { m with wait := none } }).streamRaise blk m.pc (seqPc m.pc .l64) raw
        { cause := x.ecause, obj := barObj b }
    else s.setBlock blk { k with stream := some { m with wait := none, pc := seqPc m.pc .l64 } }

/-- The wave's waits are not judged now: it is evicted, stopped, or runs the stream's handler (R213, R251, R363). -/
def Wave.onHold (w : Wave) : Bool := w.evicted || w.stopped.isSome || w.frames.any (fun f => f.stream)

/-- Every wait on a barrier is judged (R204, R213): those of saved blocks and held waves when they go on. -/
def State.judgeBar (s : State) (blk b : Nat) : State :=
  let k := s.block blk
  if k.core.isNone || k.saving then s
  else
    let s1 := k.waves.foldl (fun s (i, w) =>
      if w.onHold then s
      else w.waits.foldl (fun s (n, p) =>
        match p.why with
        | .waitb c par => if c == b && ((s.block blk).bar b).passes par then s.endWaitb blk i n p b else s
        | _ => s) s) s
    match k.stream.bind (fun m => if m.stopped.isSome then none else m.wait) with
    | some (.bar c par raw) => if c == b then s1.endStreamWait blk b par raw else s1
    | _ => s1

/-- Poison a barrier (R203): a barrier that is poisoned already takes the new cause, and an invalid one stays as it is. -/
def State.poisonBar (s : State) (blk b : Nat) (k : Cause) : State :=
  let x := (s.block blk).bar b
  if !x.v then s
  else (((s.setBar blk b { x with psn := true, ecause := k, bytes := 0, arr := 0 }).fillSlots blk b true).judgeBar blk b)

/-- A barrier whose arrivals and bytes are all there completes its phase (R202). -/
def State.completeBar (s : State) (blk b : Nat) : State :=
  let x := (s.block blk).bar b
  if x.v && !x.psn && decide (x.exp ≤ x.arr) && decide (x.bytes = 0) then
    ((s.setBar blk b { x with arr := x.arr - x.exp, phase := !x.phase }).fillSlots blk b false).judgeBar blk b
  else s

/-- The tag slot of a stack command that is gone is free under its next generation (R280). -/
def State.dropStack (s : State) (blk id : Nat) : State :=
  let k := s.block blk
  match k.stackCmds.get? id with
  | none => s
  | some c =>
    let w := k.waves.get {} c.wave
    let w1 := { w with tagGen := w.tagGen.set c.slot ((w.tagGen.get 0 c.slot + 1) % 4096) }
    s.setBlock blk { k with stackCmds := k.stackCmds.erase id, waves := k.waves.set c.wave w1 }

/-- An instruction's contribution passes the limits (R202, R212, R281): it has no effect, and the record names the
instruction, the barrier and the PC at which the wave stands. -/
def State.overflow (s : State) (blk b : Nat) (c : Contrib) : State :=
  let go (s : State) (wave : Nat) (t : Site) : State :=
    let w := s.wave blk wave
    let at_ := (w.lane (lowLane t.lanes)).pc
    s.raise { blk := blk, wave := wave, pc := t.pc, nextPc := at_, members := t.lanes, acting := t.lanes } t.raw false
      { cause := .barOverflow, obj := barObj b, aux := at_, resume := .inPlace }
  match c.source with
  | .command => s
  | .arrive w t => go s w t
  | .stack w t id => go (s.dropStack blk id) w t

/-- The sums of contributions: bytes added, bytes counted off, arrivals. -/
def contribSums (cs : List Contrib) : Nat × Nat × Nat :=
  cs.foldl (fun (a, b, n) c => (a + c.add, b + c.sub, n + c.arrivals)) (0, 0, 0)

/-- The sums pass the limits of R202. -/
def Bar.exceeds (x : Bar) (t : Nat × Nat × Nat) : Bool :=
  decide (2 ^ 32 - 1 + t.2.1 < x.bytes + t.1) || decide (63 < x.arr + t.2.2)

/-- The contribution follows no access of its wave to a peer whose acknowledgement is still to come (R121, R212). -/
def State.mayArrive (s : State) (blk : Nat) (c : Contrib) : Bool :=
  match c.source with
  | .arrive w _ | .stack w _ _ => !(s.wave blk w).acc.any (fun a => a.remote.isSome && c.before.contains a.id)
  | .command => true

/-- The step of a cycle in which n contributions reach a barrier (R202), or as many as lie before one that must wait. -/
def State.barStep (s : State) (blk b n : Nat) : State :=
  let x0 := (s.block blk).bar b
  let cs := (x0.pend.take n).takeWhile (s.mayArrive blk)
  -- the accesses that an arrival follows have happened (R121, R212)
  let s1 := cs.foldl (fun s c =>
    match c.source with
    | .arrive w _ | .stack w _ _ => (s.performWhere blk w (fun a => c.before.contains a.id)).reportLate blk w
    | .command => s) s
  let x := { (s1.block blk).bar b with pend := x0.pend.drop cs.length }
  let s2 := s1.setBar blk b x
  if !x.v || x.psn then s2
  else
    let tooMuch := x.exceeds (contribSums cs)
    let ks := if tooMuch then cs.filter (fun c => c.source == .command) else cs
    let s3 := if tooMuch then (cs.filter (fun c => c.source != .command)).foldl (fun s c => s.overflow blk b c) s2 else s2
    let (add, sub, arr) := contribSums ks
    if x.exceeds (add, sub, arr) then s3.poisonBar blk b .barOverflow
    else if x.bytes + add < sub then s3.poisonBar blk b .barUnderflow
    else
      let y := (s3.block blk).bar b
      (s3.setBar blk b { y with bytes := x.bytes + add - sub, arr := x.arr + arr }).completeBar blk b

/-- Send a contribution to a barrier (R202). -/
def State.contribute (s : State) (blk b : Nat) (c : Contrib) : State :=
  let x := (s.block blk).bar b
  s.setBar blk b { x with pend := x.pend ++ [c] }

/-- The contribution comes from an instruction of a wave. -/
def Contrib.ofWave (c : Contrib) (wave : Nat) : Bool :=
  match c.source with
  | .arrive w _ | .stack w _ _ => w == wave
  | .command => false

/-- The contributions of a barrier up to the last that satisfies a test reach it. -/
def State.drainBar (s : State) (blk b : Nat) (p : Contrib → Bool) : State :=
  let l := ((s.block blk).bar b).pend
  let n := l.length - (l.reverse.takeWhile (fun c => !p c)).length
  if n = 0 then s else s.barStep blk b n

/-- Every arrival of a wave that is on its way reaches its barrier (R212). -/
def State.drainArrivals (s : State) (blk wave : Nat) : State :=
  (s.block blk).bars.foldl (fun s (b, _) => s.drainBar blk b (fun c => c.ofWave wave)) s

/-- Every contribution of the stream that is on its way reaches its barrier (R252, R268, R270). -/
def State.drainStream (s : State) (blk : Nat) : State :=
  (s.block blk).bars.foldl (fun s (b, _) => s.drainBar blk b (fun c => c.stream)) s

/-- Every contribution on its way in a block reaches its barrier: the block is being saved. -/
def State.drainAll (s : State) (blk : Nat) : State :=
  (s.block blk).bars.foldl (fun s (b, _) => s.drainBar blk b (fun _ => true)) s

end Sys2Proof.Machine
end

