-- ==== Sys2Proof/Machine/Operands.lean ====
section
/-!
DEFINITION. Sys2Proof/Machine/Operands.lean: the operand forms (R50, R53, R55, R84, R146): sources, immediates, and what a
per-fibre instruction writes in one lane.
-/

namespace Sys2Proof.Machine

open Host

/-- A value that an instruction consumes: poison raises POISON (R39). -/
def PWord.use (x : PWord) : Except Cause Word := if x.poison then .error .poison else .ok x.val

/-- A consumed 64-bit value. -/
def useD (x : DWord × Bool) : Except Cause DWord := if x.2 then .error .poison else .ok x.1

/-- SRC0 of a lane. -/
def Wave.src0 (w : Wave) (l : Nat) (e : Enc) : Except Cause PWord := w.readSrc l e.sl0 e.src0
/-- SRC1 of a lane. -/
def Wave.src1 (w : Wave) (l : Nat) (e : Enc) : Except Cause PWord := w.readSrc l e.sl1 e.src1
/-- SRC2 of a lane. -/
def Wave.src2 (w : Wave) (l : Nat) (e : Enc) : Except Cause PWord := w.readSrc l e.sl2 e.src2

/-- How IMM16 becomes a 32-bit operand. -/
inductive Ext16 where
  | sign
  | zero
  | high      -- bits [31:16] of an F32 (R94, R146)
  | pair16    -- the halfword in both halves
  | bytes     -- the low byte in all four bytes
  deriving DecidableEq, Repr

/-- IMM16 as a 32-bit operand. -/
def imm16As (x : Ext16) (v : BitVec 16) : Word :=
  match x with
  | .sign => v.signExtend 32
  | .zero => v.setWidth 32
  | .high => v ++ (0 : BitVec 16)
  | .pair16 => v ++ v
  | .bytes =>
    let b := v.setWidth 8
    (b ++ b) ++ (b ++ b)

/-- The second operand of a lane: SRC1, IMM16 or IMM32 by the length (R84, R145). -/
def Wave.srcB (w : Wave) (l : Nat) (e : Enc) (x : Ext16) : Except Cause PWord :=
  match e.len with
  | .l64 => w.src1 l e
  | .l96 => .ok ⟨imm16As x e.imm16, false⟩
  | .l128 => .ok ⟨e.imm32, false⟩

/-- The 64-bit second operand of a lane: the pair SRC1, or an immediate extended by sign or by zeros. -/
def Wave.srcBD (w : Wave) (l : Nat) (e : Enc) (signed : Bool) : Except Cause (DWord × Bool) :=
  match e.len with
  | .l64 => w.readPair l e.src1
  | .l96 => .ok (if signed then e.imm16.signExtend 64 else e.imm16.setWidth 64, false)
  | .l128 => .ok (if signed then e.imm32.signExtend 64 else e.imm32.setWidth 64, false)

/-- A uniform register by its code (192 and above). -/
def Wave.sCode (w : Wave) (c : BitVec 8) : PWord := w.sAt (c.toNat - 192)

/-- The second operand of a uniform instruction (R84): S[SRC1] or a sign-extended immediate. -/
def Wave.uniB (w : Wave) (e : Enc) (x : Ext16) : PWord :=
  match e.len with
  | .l64 => w.sCode e.src1
  | .l96 => ⟨imm16As x e.imm16, false⟩
  | .l128 => ⟨e.imm32, false⟩

/-- The branch offset in bytes (R63, R86): IMM16 or IMM32 in 4-byte units. -/
def branchOffset (e : Enc) : DWord :=
  match e.len with
  | .l128 => e.imm32.signExtend 64 <<< 2
  | _ => e.imm16.signExtend 64 <<< 2

/-- The words of a 64-bit value, low word first. -/
def dwords (x : DWord) : List Word := [x.setWidth 32, (x >>> 32).setWidth 32]

/-- Words that carry no poison. -/
def clean (xs : List Word) : List PWord := xs.map (fun x => ⟨x, false⟩)

/-- What an instruction does in one lane. -/
structure LaneRes where
  /-- the words of the v result, lowest register first; none for no v result -/
  words : List PWord := []
  /-- predicates written -/
  preds : List (Nat × Bool) := []
  /-- flags raised (R142) -/
  flags : Word := 0
  /-- the generator's new state (R186) -/
  sr : Option Word := none
  deriving DecidableEq, Repr

/-- Write a lane's results: the v result and its latch (R53), the predicates and the sticky flags. -/
def Wave.writeLane (w : Wave) (l : Nat) (e : Enc) (r : LaneRes) : Wave :=
  let w1 := if r.words.isEmpty then w else w.writeV l e r.words
  let x := r.preds.foldl (fun (x : Lane) (n, b) => x.setQ n b) (w1.lane l)
  w1.setLane l { x with fpstat := x.fpstat ||| r.flags, sr := match r.sr with | some g => some g | none => x.sr }

/-- The results of a per-fibre instruction in every lane it acts in, or the lanes that fault with the cause of the lowest
(R350). -/
def laneResults (m : BitVec 32) (f : Nat → Except Cause LaneRes) : Except (Cause × BitVec 32) (List (Nat × LaneRes)) :=
  let rs := (lanesOf m).map (fun l => (l, f l))
  let bad := rs.filterMap (fun (l, r) => match r with | .error c => some (l, c) | .ok _ => none)
  match bad with
  | [] => .ok (rs.filterMap (fun (l, r) => match r with | .ok x => some (l, x) | .error _ => none))
  | (_, c) :: _ => .error (c, maskOf (bad.map (·.1)))

/-- A lane result with the destination's registers checked first (R71). -/
def Wave.withDst (w : Wave) (l : Nat) (e : Enc) (n : Nat) (r : Except Cause LaneRes) : Except Cause LaneRes :=
  if w.dstOk l e n then r else .error .accessFault

end Sys2Proof.Machine
end

