-- ==== Sys2Proof/Machine/Issue.lean ====
section
/-!
DEFINITION. Sys2Proof/Machine/Issue.lean: the shared frame of every wave instruction: the registers it waits for (R49), the guard
(R52), its effect or its fault (R58 step 7), the next PCs and the partition of the batch (R46, R75), the joins (R79, R80),
the handler's count (R362), and the end of a wave (R87).
-/

namespace Sys2Proof.Machine

open Host

/-! ### Registers an instruction names -/

/-- The number of registers a field class names. -/
def regCount (f : Fld) : Nat :=
  match f with
  | .v | .s | .vs => 1
  | .vp | .sp | .vsp => 2
  | .vq | .sq | .vsq => 4
  | .vgrp n | .vsgrp n => n
  | .s8 => 8
  | .coord => 5
  | .zero | .code _ | .adv => 0

/-- The fields of an instruction as first code and count, latches apart. -/
def encRegs (e : Enc) (h : Shape) : List (Nat × Nat) :=
  [(e.dst.toNat, regCount h.dst)] ++
  (if e.sl0 then [] else [(e.src0.toNat, regCount h.s0)]) ++
  (if e.sl1 then [] else [(e.src1.toNat, regCount h.s1)]) ++
  (if e.sl2 then [] else [(e.src2.toNat, regCount h.s2)])

/-- The latches an instruction reads. -/
def encLatches (e : Enc) : List Nat :=
  (if e.sl0 then [e.src0.toNat] else []) ++ (if e.sl1 then [e.src1.toNat] else []) ++ (if e.sl2 then [e.src2.toNat] else [])

/-- The registers an access writes when its value arrives: v registers by number, or s registers. -/
def AccDst.regs (d : AccDst) : Option (Bool × Nat × Nat) :=
  match d with
  | .none | .scale _ => Option.none
  | .v r n .. => some (true, r, n)
  | .s r n => some (false, r, n)
  | .cvt r _ dt .. => some (true, r, if dt == 0 || dt == 3 then 4 else 2)

/-- An instruction must wait for an access of the wave (R49): it names a register or a latch lane the access writes. -/
def Wave.waitsFor (w : Wave) (members : BitVec 32) (e : Enc) (h : Shape) (a : Access) : Bool :=
  match a.dst.regs with
  | none => false
  | some (isV, r, n) =>
    let base := (w.lane a.lane).base
    (encRegs e h).any (fun (c, m) =>
      if isV then decide (c < 192) && members.getLsbD a.lane && decide (base + c < r + n) && decide (r < base + c + m)
      else decide (192 ≤ c) && decide (c - 192 < r + n) && decide (r < c - 192 + m)) ||
    (match a.dst with
      | .v _ _ dlt .. => members.getLsbD a.lane && (encLatches e).contains dlt
      | .cvt _ _ _ _ dlt .. => members.getLsbD a.lane && (encLatches e).contains dlt
      | _ => false)

/-- Make the accesses happen that an instruction waits for; `all` makes every access of the wave happen. -/
def State.settle (s : State) (c : Ctx) (i : Instr) (e : Enc) (all : Bool) : State :=
  let w := s.ctxWave c
  match i.shape with
  | none => s.performWhere c.blk c.wave (fun a => all && a.dst.regs.isSome)
  | some h => s.performWhere c.blk c.wave (fun a => (all && a.dst.regs.isSome) || w.waitsFor c.members e h a)

/-- Instructions of the wave have completed since a state, and their POISON is to be raised (R115): it comes before the issue. -/
def State.lateNew (s s0 : State) (c : Ctx) : Bool :=
  (s.ctxWave c).spec.sid.isNone && (s.ctxWave c).lateReady.any (fun x => !(s0.ctxWave c).lateReady.contains x)

/-- An arrival of the wave waits for a peer's acknowledgement: the wave's later stores wait for it (R212). -/
def State.arrivalsLeft (s : State) (blk wave : Nat) : Bool := (s.block blk).bars.any (fun (_, x) => x.pend.any (fun c => c.ofWave wave))

/-! ### The end of a wave (R87) -/

/-- The wave with no fibre left: loads are discarded, stores complete (R87). -/
def Wave.finished (w : Wave) : Wave :=
  { w with
    lanes := w.lanes.map (fun (l, x) => (l, { x with cond := .idle, latches := [] }))
    batches := [], waits := [], frames := [], masks := [], arrived := [], emdepth := 0
    acc := (w.acc.filter (fun a => !a.kind.readsOnly)).map (fun a => { a with dst := .none })
    resv := none, rresv := none, doneMask := 0, ended := true, stopped := none
    spec := { w.spec with serial := false, nest := 0 } }

/-- Give the serial token back if the wave holds it (R331). -/
def State.returnToken (s : State) (fn blk wave : Nat) : State :=
  let f := s.fn fn
  if f.token == some (blk, wave) then s.setFn fn { f with token := none } else s

/-- End a wave (R87, R321, R331): the token goes back; an ordered task is finished, or committed if it was promoted. -/
def State.endWave (s : State) (blk wave : Nat) : State :=
  let b := s.block blk
  let w := s.wave blk wave
  -- the token goes back as at REND, behind the wave's accesses (R331, R342)
  let s0 := if w.spec.serial then s.doRel blk wave else s
  let s1 := (s0.returnToken b.fn blk wave).setWave blk wave (s0.wave blk wave).finished
  match w.spec.sid with
  | some sid =>
    let u := s1.unit sid
    if u.task.isSome then s1.setUnit sid { u with finished := true } else s1
  | none =>
    match b.task with
    | none => s1
    | some t =>
      match t.ord, t.key with
      | some o, some k => if w.spec.promoted then (s1.releaseSpawns t.id).raiseFloor b.fn o.dom k else s1
      | _, _ => s1

/-! ### The result of an instruction's body -/

/-- What the body of an instruction comes to. -/
inductive Res where
  /-- it acted; `jumped`: it set the PCs itself; `grown`: lanes that join the batch -/
  | ok (s : State) (jumped : Bool) (grown : BitVec 32)
  /-- it acted, and the state needs no further step of the issue -/
  | stay (s : State)
  /-- it acted, and raises POISON after it has completed (R115, R123, R198, R263) -/
  | after (s : State) (f : FaultInfo)
  /-- it faults; the state holds only what the attempt to translate left -/
  | fault (s : State) (f : FaultInfo)

/-- The body acted and the batch goes on at the next PC. -/
def Res.next (s : State) : Res := .ok s false 0

/-- A fault of a uniform or leader-executed instruction. -/
def Res.uni (s : State) (c : Cause) : Res := .fault s { cause := c }

/-- The bookkeeping of an issue: the oldest-waiting batch (R77) and the handler's count (R362). -/
def Wave.issued (w : Wave) (first : Bool) : Wave :=
  { w with
    others := if w.emdepth = 0 then (if first then 0 else w.others + 1) else w.others
    wdCount := if w.emdepth = 0 then w.wdCount else w.wdCount + 1 }

/-- A handler's fibres that waited at a JOIN go on: the handler's count starts again (R42, R362). -/
def Wave.afterJoin (w w0 : Wave) (members : BitVec 32) : Wave :=
  let joined (x : Cond) : Bool := match x with | .joined _ => true | _ => false
  if w.emdepth ≠ 0 && (List.range 32).any (fun l => !members.getLsbD l && joined (w0.lane l).cond && !joined (w.lane l).cond) then
    { w with wdCount := 0 }
  else w

/-- The end of an issue: PCs, batches, joins; a handler with no fibre left ends as by EMSKIP (R360), a wave with none as by
EXIT (R87). -/
def State.finish (s : State) (c : Ctx) (jumped : Bool) (grown : BitVec 32) : State :=
  let w := s.ctxWave c
  if w.ended then s
  else
    let first := match w.batches with | b :: _ => b.mask &&& c.members != 0 | [] => true
    let w1 := if jumped then w else
      w.mapLanes c.members (fun _ x => if x.cond == .runnable then { x with pc := c.nextPc } else x)
    let w2 := ((w1.repartition c.members (c.members ||| grown)).settleJoins 9).issued first |>.afterJoin w1 c.members
    let s1 := s.setCtxWave c w2
    if w2.liveHere != 0 then s1
    else if w2.emdepth = 0 then s1.endWave c.blk c.wave
    else match s1.leaveHandler c.blk c.wave false with
      | .inl s2 => s2
      | .inr _ => s1

/-- The instruction is one of the speculation engine's, 0xD4 to 0xDF (R335). -/
def ofSpec (i : Instr) : Bool :=
  match i.form with
  | some (opc, _) => decide (0xD4 ≤ opc.toNat) && decide (opc.toNat ≤ 0xDF)
  | none => false

/-- The state after a body's result. -/
def conclude (c : Ctx) (i : Instr) (r : Res) : State :=
  match r with
  | .ok s1 j g => s1.finish c j g
  | .stay s1 => s1
  | .after s1 f => (s1.finish c false 0).raise c (rawOf i) (ofSpec i) { f with resume := .inPlace }
  | .fault s1 f => s1.raise c (rawOf i) (ofSpec i) f

/-- The instruction writes memory, or publishes what the wave wrote: it waits for the wave's arrivals (R212). -/
def instrWrites (i : Instr) : Bool :=
  match i with
  | .st _ | .stb _ | .atom _ | .red _ | .sc _ | .stx _ | .rel _ | .fence _ | .exit _ | .texit _ | .rdoneFill _ | .rdoneFree _
  | .fnew _ | .fresolve _ | .fpoison _ | .fawait _ | .fjoin2 _ | .launch _ | .trap _ | .hostcall _ | .hostcallWait _
  | .cntadd _ | .ffence _ => true
  | _ => false

/-- Executing the instruction ends the block's idempotent-clean status (R385); stores to the notify aperture, accesses to
the fabric aperture and copies out of the block end it where they are made. -/
def endsClean (i : Instr) : Bool :=
  match i with
  | .atom _ | .red _ | .sc _ | .rel _ | .fence _ | .rbegin _ | .rbeginSer _ | .trap _ | .hostcall _ | .hostcallWait _
  | .wrpost _ | .wrarm _ | .wrcan _ | .collAllreduce _ | .collAllgather _ | .collReducescatter _ | .collAlltoall _
  | .collBroadcast _ | .vdnq _ | .ffence _ | .cntadd _ | .cntwait _ | .launch _ | .tspawn _ | .tspawnOrd _
  | .fresolve _ | .fpoison _ | .fawait _ | .fjoin2 _ => true
  -- TEXIT with RES resolves a future (R302)
  | .texit e => e.mod.getLsbD 0
  | .st e | .stb e | .stx e => e.mod.getLsbD 5
  | _ => false

/-- A block that is no longer idempotent-clean (R385). -/
def State.unclean (s : State) (blk : Nat) : State := s.setBlock blk { s.block blk with clean := false }

/-- An operand of n registers, or a latch, that a lane cannot read or write (R55, R71). -/
def Wave.fieldFault (w : Wave) (l : Nat) (latch : Bool) (code : BitVec 8) (n : Nat) : Option Cause :=
  if n = 0 then none
  else if latch then (match w.readLatch l code.toNat with | .error k => some k | .ok _ => none)
  else if code.toNat < 192 ∧ w.limit < (w.lane l).base + code.toNat + n then some .accessFault
  else none

/-- The first operand that a lane cannot read or write. -/
def Wave.operandFault (w : Wave) (l : Nat) (e : Enc) (h : Shape) : Option Cause :=
  ((w.fieldFault l e.sl0 e.src0 (regCount h.s0)).or (w.fieldFault l e.sl1 e.src1 (regCount h.s1))).or
    ((w.fieldFault l e.sl2 e.src2 (regCount h.s2)).or (w.fieldFault l false e.dst (regCount h.dst)))

/-- The operands of SEL in a lane: it reads the source it selects, and names the other's v register (R71, R156, R171). -/
def Wave.selFault (w : Wave) (l : Nat) (e : Enc) : Option Cause :=
  let first := (w.lane l).q (e.mod.toNat % 32) != e.mod.getLsbD 5
  let source (latch : Bool) (code : BitVec 8) (read : Bool) : Option Cause := if latch && !read then none else w.fieldFault l latch code 1
  ((source e.sl0 e.src0 first).or (source e.sl1 e.src1 !first)).or (w.fieldFault l false e.dst 1)

/-- The instruction acts per fibre on registers, and reads every source; SEL reads one of two (R171). -/
def Instr.perFibreRegs (i : Instr) : Bool :=
  match i, i.form with
  | .sel _, _ => false
  | _, some (opc, _) => opc == 0x02 || (decide (0x0C ≤ opc.toNat) && decide (opc.toNat ≤ 0x12)) ||
      (decide (0x20 ≤ opc.toNat) && decide (opc.toNat ≤ 0x63)) || opc == 0x66
  | _, none => false

/-- The instruction reads memory addresses and data of lanes (opcodes 0x64, 0x65 and 0x70 to 0x7C); PREF never faults (R124). -/
def memOpcode (opc : BitVec 8) : Bool := opc == 0x64 || opc == 0x65 || (decide (0x70 ≤ opc.toNat) && decide (opc.toNat ≤ 0x7C))

/-- LDU, LR and SC act once, with the leader's operands (R112, R117). -/
def leaderOpcode (opc : BitVec 8) : Bool := opc == 0x72 || opc == 0x77 || opc == 0x78

/-- The field may name v registers. -/
def takesV (f : Fld) : Bool :=
  match f with
  | .v | .vs | .vp | .vsp | .vq | .vsq | .vgrp _ | .vsgrp _ => true
  | _ => false

/-- An operand of a memory instruction that a lane cannot read or write (R55, R71, R125). -/
def Wave.memFieldFault (w : Wave) (l : Nat) (latch : Bool) (code : BitVec 8) (f : Fld) : Option Cause :=
  if latch then (match w.readLatch l code.toNat with | .error k => some k | .ok _ => none)
  else if takesV f && decide (code.toNat < 192) && decide (w.limit < (w.lane l).base + min 192 (code.toNat + regCount f)) then some .accessFault
  else none

/-- The first operand of a memory instruction that a lane cannot read or write. -/
def Wave.memOperandFault (w : Wave) (l : Nat) (e : Enc) (h : Shape) : Option Cause :=
  ((w.memFieldFault l false e.src0 h.s0).or (w.memFieldFault l (e.sl1 && h.l1) e.src1 h.s1)).or
    ((w.memFieldFault l (e.sl2 && h.l2) e.src2 h.s2).or (w.memFieldFault l false e.dst h.dst))

/-- The fault of lanes' operands: every lane that meets one, and the lowest lane's cause. -/
def lanesFault (m : BitVec 32) (f : Nat → Option Cause) (perFibre : Bool) : Option FaultInfo :=
  let bad := (lanesOf m).filterMap (fun l => (f l).map (fun k => (l, k)))
  match bad with
  | [] => none
  | (_, k) :: _ => some { cause := k, lanes := if perFibre then maskOf (bad.map (·.1)) else 0, perFibre := perFibre }

/-- The operand reads of step 7 of R58 in every acting lane: they come before the instruction's own faults (log 14).  Of several operands
that fault in a lane the first of SRC0, SRC1, SRC2 and DST gives the cause, and of several lanes the lowest (log 146). -/
def Wave.operandFaults (w : Wave) (acting : BitVec 32) (i : Instr) (e : Enc) : Option FaultInfo :=
  match i.shape with
  | none => none
  | some h =>
    if Instr.perFibreRegs i then lanesFault acting (fun l => w.operandFault l e h) true
    else
      match i.form with
      | some (opc, _) =>
        if opc == 0x33 then lanesFault acting (fun l => w.selFault l e) true
        else if leaderOpcode opc then lanesFault (laneBit (lowLane acting)) (fun l => w.memOperandFault l e h) false
        else if memOpcode opc then lanesFault (acting &&& ~~~w.doneMask) (fun l => w.memOperandFault l e h) true
        else none
      | none => none

/-- Issue a wave instruction: the shared frame of all of them.  A batch in which no guard holds only goes on. -/
def State.issue (s : State) (i : Instr) (e : Enc) (all : Bool) (body : State → Ctx → Res) :
    Outcome State Fault Refusal :=
  match s.ctx e with
  | none => .fault .noIssuer
  | some c =>
    let w := s.ctxWave c
    if w.emdepth ≠ 0 ∧ 65536 ≤ w.wdCount then
      .next ((s.setCtxWave c { w with wdCount := 0 }).raise c (rawOf i) (ofSpec i) { cause := .watchdog })
    else
      -- a store follows the wave's arrivals (R212)
      let s0 := if instrWrites i then s.drainArrivals c.blk c.wave else s
      if (s0.ctxWave c).stopped.isSome || (instrWrites i && s0.arrivalsLeft c.blk c.wave) then .next s0
      else
        let s1 := s0.settle c i e all
        if s1.lateNew s0 c then .next (s1.reportBut c.blk c.wave (s0.ctxWave c).lateReady)
        else if c.acting = 0 then .next (s1.finish c false 0)
        else match (s1.ctxWave c).operandFaults c.acting i e with
          | some f => .next (s1.raise c (rawOf i) (ofSpec i) f)
          | none => .next (conclude c i (body (if endsClean i then s1.unclean c.blk else s1) c))

/-- Vector an instruction to the handler (R56, R58 steps 5 and 6, R357): its guard plays no part. -/
def State.issueEmulated (s : State) (i : Instr) (opc : BitVec 8) (e : Enc) (raw : Raw) (disabled : Bool) :
    Outcome State Fault Refusal :=
  match s.ctx e with
  | none => .fault .noIssuer
  | some c =>
    let w := s.ctxWave c
    if w.emdepth ≠ 0 ∧ 65536 ≤ w.wdCount then
      .next ((s.setCtxWave c { w with wdCount := 0 }).raise c raw false { cause := .watchdog })
    else
      let s1 := s.settle c i e true
      if s1.lateNew s c then .next (s1.reportBut c.blk c.wave (s.ctxWave c).lateReady)
      else
        match s1.emulate c raw opc e disabled with
        | .inl s2 => .next s2
        | .inr f => .next (s1.raise c raw false f)

/-- A per-fibre computation: its results are written in every lane it acts in, or it faults in some (R350). -/
def lanesBody (e : Enc) (f : Ctx → Wave → Nat → Except Cause LaneRes) (s : State) (c : Ctx) : Res :=
  let w := s.ctxWave c
  match laneResults c.acting (f c w) with
  | .error (k, m) => .fault s { cause := k, lanes := m, perFibre := true }
  | .ok rs => Res.next (s.setCtxWave c (rs.foldl (fun w (l, r) => w.writeLane l e r) w))

/-- A uniform computation that writes consecutive s registers (R102). -/
def uniBody (e : Enc) (f : Ctx → Wave → Except Cause (List PWord)) (s : State) (c : Ctx) : Res :=
  let w := s.ctxWave c
  match f c w with
  | .error k => Res.uni s k
  | .ok xs => Res.next (s.setCtxWave c (w.writeS e.dst xs))

end Sys2Proof.Machine
end

