-- ==== Sys2Proof/Machine/Flags.lean ====
section
/-!
DEFINITION. Sys2Proof/Machine/Flags.lean: rounding modes (R141, R143), the flags of %fpstat (R142), the float and integer type codes
(R60) and the compares (R94, R95, R104).
-/

namespace Sys2Proof.Machine

/-- The rounding mode of MOD[2:0] (R143). -/
def rmOf (w : Wave) (e : Enc) : Rm :=
  let m := e.mod.toNat % 8
  if m = 0 then Rm.ofCode w.fpctl.toNat else Rm.ofCode (m - 1)

/-- NA, NB and NC: MOD[3], MOD[4], MOD[5] (R145). -/
def negA (e : Enc) : Bool := e.mod.getLsbD 3
def negB (e : Enc) : Bool := e.mod.getLsbD 4
def negC (e : Enc) : Bool := e.mod.getLsbD 5

/-- The format of a float type code 0 to 2 (R60). -/
def fmtOf (ft : Nat) : Fmt :=
  match ft with
  | 0 => F32
  | 1 => F16
  | _ => BF16

/-- The pattern of a format in a register: all of it, or the low half (R60). -/
def Fmt.low (f : Fmt) (x : Word) : Nat := x.toNat % 2 ^ f.width

/-- A pattern with its sign flipped where a bit says so (R145). -/
def Fmt.flip (f : Fmt) (b : Bool) (x : Nat) : Nat := if b then x ^^^ f.signBit else x

/-- A float immediate: bits [31:16] of an F32, or the pattern (R94, R146). -/
def floatImm (ft : Nat) : Ext16 := if ft = 0 then .high else .zero

/-- One 32-bit result with its flags. -/
def fltRes (r : Nat × Flags) : LaneRes := { words := [⟨BitVec.ofNat 32 r.1, false⟩], flags := r.2.bits }

/-! ### Compares -/

/-- A relation of R62 on an order given by less and equal; UN is false. -/
def relation (rel : Nat) (lt eq : Bool) : Bool :=
  match rel with
  | 0 => eq
  | 1 => !eq
  | 2 => lt
  | 3 => lt || eq
  | 4 => !(lt || eq)
  | 5 => !lt
  | _ => false

/-- The compare of two floats and whether it sets INVALID (R95). -/
def floatCompare (f : Fmt) (rel a b : Nat) : Bool × Bool :=
  let x := f.unpack a
  let y := f.unpack b
  if x.isNan || y.isNan then
    (rel == 1 || rel == 6, x.isSnan || y.isSnan || (decide (2 ≤ rel) && decide (rel ≤ 5)))
  else (relation rel (x.lt y) (x.eq y), false)

/-- The compare of two integers (R94, R104). -/
def intCompare (rel : Nat) (signed : Bool) {n : Nat} (a b : BitVec n) : Bool :=
  relation rel (if signed then decide (a.toInt < b.toInt) else decide (a.toNat < b.toNat)) (a == b)

end Sys2Proof.Machine
end

