-- ==== Sys2Proof/Machine/Sequencer.lean ====
section
/-!
DEFINITION. Sys2Proof/Machine/Sequencer.lean: the instructions of the wave sequencer, opcodes 0x00 to 0x1A (R84 to R105).
-/

namespace Sys2Proof.Machine

open Host

/-! ### Control transfer (R86, R87); NOP stands in Matrix.lean -/

/-- What a transfer does in one lane: the target, and the lane's window base and link words (R86). -/
structure Jump where
  target : DWord
  base : Nat
  link : Option (Word × Word) := none

/-- The transfers of R86: the targets of every acting lane are computed and checked before any lane changes. -/
def jumpBody (f : Ctx → Wave → Nat → Except Cause Jump) (lose : Bool) (s : State) (c : Ctx) : Res :=
  let w := s.ctxWave c
  let rs := (lanesOf c.acting).map (fun l => (l,
    match f c w l with
    | .error k => Except.error k
    | .ok j => match pcFault j.target with | some k => .error k | none => .ok j))
  let bad := rs.filterMap (fun (l, r) => match r with | .error k => some (l, k) | .ok _ => none)
  match bad with
  | (_, k) :: _ => .fault s { cause := k, lanes := maskOf (bad.map (·.1)), perFibre := true }
  | [] =>
    let w1 := w.mapLanes c.members (fun _ x => { x with pc := c.nextPc })
    let w2 := rs.foldl (fun w (l, r) =>
      match r with
      | .error _ => w
      | .ok j =>
        let x := w.lane l
        let x1 := { (if lose then x.loseLatches else x) with pc := j.target, base := j.base }
        let w := w.setLane l x1
        match j.link with
        | none => w
        | some (a, b) => (w.setVAt j.base l ⟨a, false⟩).setVAt (j.base + 1) l ⟨b, false⟩) w1
    .ok (s.setCtxWave c w2) true 0

/-- BRA (R86). -/
def execBra (e : Enc) (s : State) : Outcome State Fault Refusal :=
  s.issue (.bra e) e false (jumpBody (fun c w l => .ok { target := c.pc + branchOffset e, base := (w.lane l).base }) false)

/-- BRX (R86): the target is consumed. -/
def execBrx (e : Enc) (s : State) : Outcome State Fault Refusal :=
  s.issue (.brx e) e false (jumpBody (fun _ w l => do
    let t ← w.readPair l e.src0
    let t ← useD t
    .ok { target := t, base := (w.lane l).base }) false)

/-- CALL (R86): A is DST; the link words go into v0 and v1 of the new window. -/
def execCall (e : Enc) (s : State) : Outcome State Fault Refusal :=
  s.issue (.call e) e true (jumpBody (fun c w l =>
    let b := (w.lane l).base + e.dst.toNat
    if w.limit < b + 2 then .error .accessFault
    else
      let hi : Word := (e.dst.setWidth 32 <<< 24) ||| ((c.nextPc >>> 32).setWidth 32 &&& 0x7FFFFF)
      .ok { target := c.pc + branchOffset e, base := b, link := some (c.nextPc.setWidth 32, hi) }) true)

/-- RET (R86). -/
def execRet (e : Enc) (s : State) : Outcome State Fault Refusal :=
  s.issue (.ret e) e true (jumpBody (fun _ w l => do
    let lo ← w.readV l 0
    let hi ← w.readV l 1
    let lo ← lo.use
    let hi ← hi.use
    let a := hi.toNat / 2 ^ 24
    let b := (w.lane l).base
    if hi.getLsbD 23 || decide (b < a) || a % 2 == 1 then .error .accessFault
    else .ok { target := (hi &&& 0x7FFFFF) ++ lo, base := b - a }) true)

/-- EXIT (R87); in a region it acts as REND of every level first (R334). -/
def exitWave (s : State) (c : Ctx) : State :=
  let w := s.ctxWave c
  match w.spec.sid with
  | none => s.endWave c.blk c.wave
  | some sid =>
    let u := s.unit sid
    if u.task.isSome then s.endWave c.blk c.wave
    else if u.deps.isEmpty then
      let s1 := s.commitUnit sid
      let w1 := s1.ctxWave c
      (s1.setCtxWave c { w1 with spec := { w1.spec with sid := none, nest := 0 } }).endWave c.blk c.wave
    else
      let s1 := s.setUnit sid { u with atRend := true, exits := true }
      s1.setCtxWave c (((s1.ctxWave c).park
        { lanes := c.members, why := .rend, enc := {}, acting := c.acting, nextPc := c.nextPc, since := s.clock }).repartition
          c.members c.members)

/-- EXIT (R87). -/
def execExit (e : Enc) (s : State) : Outcome State Fault Refusal :=
  s.issue (.exit e) e false (fun s c => .stay (exitWave s c))

/-! ### Fibres and rejoin (R88 to R93) -/

/-- Abort the region of the issuing wave with NOSPEC, if it is in one (R334). -/
def inRegion (s : State) (c : Ctx) : Option Nat :=
  match (s.ctxWave c).spec.sid with
  | none => none
  | some sid => if (s.unit sid).task.isNone then some sid else none

/-- The body of an instruction that a region may not execute (R334). -/
def noRegion (body : State → Ctx → Res) (s : State) (c : Ctx) : Res :=
  match inRegion s c with
  | some sid => .stay (s.abort [sid] 5)
  | none => body s c

/-- The idle lanes of a wave, ascending (R88). -/
def Wave.idleLanes (w : Wave) : List Nat := (List.range 32).filter (fun l => (w.lane l).cond == .idle)

/-- FORK (R88). -/
def execFork (e : Enc) (s : State) : Outcome State Fault Refusal :=
  s.issue (.fork e) e false (noRegion (fun s c =>
    let w := s.ctxWave c
    let want := w.sCode e.src0
    let t := if e.len == .l64 then c.nextPc else c.pc + branchOffset e
    if want.poison then Res.uni s .poison
    else if e.len == .l96 && t &&& 0x1F == 0x1C then Res.uni s .illegalPlacement
    else
      let new := w.idleLanes.take want.val.toNat
      let lead := w.lane c.leader
      let w1 := new.zipIdx.foldl (fun w (l, i) =>
        w.setLane l { w.lane l with
          cond := .runnable, pc := t, base := lead.base, pred := lead.pred
          fibid := w.forkSerial + BitVec.ofNat 32 i, latches := [] }) w
      let m := maskOf new
      let w2 := { w1 with forkSerial := w.forkSerial + BitVec.ofNat 32 new.length }
      let w3 := w2.writeS e.dst [⟨BitVec.ofNat 32 new.length, false⟩]
      if e.len == .l64 then .ok (s.setCtxWave c w3) false m
      else .ok (s.setCtxWave c (if m == 0 then w3 else { w3 with batches := w3.batches ++ [⟨m⟩] })) false 0))

/-- QUIT (R89). -/
def execQuit (e : Enc) (s : State) : Outcome State Fault Refusal :=
  s.issue (.quit e) e false (noRegion (fun s c => Res.next (s.setCtxWave c ((s.ctxWave c).endLanes c.acting))))

/-- SPLIT (R90). -/
def execSplit (e : Enc) (s : State) : Outcome State Fault Refusal :=
  s.issue (.split e) e false (fun s c =>
    let w := s.ctxWave c
    Res.next (s.setCtxWave c { w with masks := w.masks.set (e.dst.toNat % 8) c.acting }))

/-- JOIN (R91). -/
def execJoin (e : Enc) (s : State) : Outcome State Fault Refusal :=
  s.issue (.join e) e false (fun s c =>
    let w := s.ctxWave c
    let n := e.src0.toNat % 8
    let w1 := w.mapLanes c.acting (fun _ x => { x with cond := .joined n, pc := c.nextPc })
    Res.next (s.setCtxWave c { w1 with arrived := w1.arrived.upd 0 n (fun a => a ||| c.acting) }))

/-- DROP (R92). -/
def execDrop (e : Enc) (s : State) : Outcome State Fault Refusal :=
  s.issue (.drop e) e false (fun s c =>
    let w := s.ctxWave c
    Res.next (s.setCtxWave c { w with masks := w.masks.upd 0 (e.src0.toNat % 8) (fun m => m &&& ~~~c.acting) }))

/-- YIELD (R93): the batch becomes the most recently issued one, as after every issue. -/
def execYield (e : Enc) (s : State) : Outcome State Fault Refusal :=
  s.issue (.yield e) e false (fun s _ => Res.next s)

/-! ### Predicates (R94 to R99) -/

/-- PCMP (R94, R95). -/
def execPcmp (e : Enc) (s : State) : Outcome State Fault Refusal :=
  let t := e.cmpType
  let rel := e.cmpRel
  s.issue (.pcmp e) e false (lanesBody e (fun _ w l =>
    if t = 5 ∨ t = 6 then do
      let a ← w.readPair l e.src0
      let b ← w.srcBD l e (t == 5)
      let a ← useD a
      let b ← useD b
      .ok { preds := [(e.dst.toNat, intCompare rel (t == 5) a b)] }
    else do
      let a ← w.src0 l e
      let b ← w.srcB l e (if t = 0 then .sign else if t = 2 then .high else .zero)
      let a ← a.use
      let b ← b.use
      if t ≤ 1 then .ok { preds := [(e.dst.toNat, intCompare rel (t == 0) a b)] }
      else
        let f := fmtOf (t - 2)
        let (r, inv) := floatCompare f rel (f.low a) (f.low b)
        .ok { preds := [(e.dst.toNat, r)], flags := if inv then 1 else 0 }))

/-- q[SRC0] XOR MOD[0] of a lane. -/
def qSrc0 (w : Wave) (l : Nat) (e : Enc) : Bool := (w.lane l).q e.src0.toNat != e.mod.getLsbD 0

/-- PLOG (R96). -/
def execPlog (e : Enc) (s : State) : Outcome State Fault Refusal :=
  s.issue (.plog e) e false (lanesBody e (fun _ w l =>
    let a := qSrc0 w l e
    let b := (w.lane l).q e.src1.toNat != e.mod.getLsbD 1
    let r := match e.fn.toNat with
      | 0 => a && b
      | 1 => a || b
      | 2 => a != b
      | _ => a && !b
    .ok { preds := [(e.dst.toNat, r)] }))

/-- PMOV FN 0 (R97). -/
def execPmov (e : Enc) (s : State) : Outcome State Fault Refusal :=
  s.issue (.pmov e) e false (lanesBody e (fun _ w l => .ok { preds := [(e.dst.toNat, qSrc0 w l e)] }))

/-- PMOV.RD (R97): bit 31 reads 1. -/
def execPmovRd (e : Enc) (s : State) : Outcome State Fault Refusal :=
  s.issue (.pmovRd e) e false (lanesBody e (fun _ w l =>
    w.withDst l e 1 (.ok { words := [⟨(w.lane l).pred ||| predReset, false⟩] })))

/-- PMOV.WR (R97). -/
def execPmovWr (e : Enc) (s : State) : Outcome State Fault Refusal :=
  s.issue (.pmovWr e) e false (lanesBody e (fun _ w l => do
    let x ← w.src0 l e
    let x ← x.use
    .ok { preds := (List.range 31).map (fun n => (n, x.getLsbD n)) }))

/-- PLDM (R98). -/
def execPldm (e : Enc) (s : State) : Outcome State Fault Refusal :=
  s.issue (.pldm e) e false (lanesBody e (fun _ w l => do
    let x ← (w.sCode e.src0).use
    .ok { preds := [(e.dst.toNat, x.getLsbD l)] }))

/-- A vote of the participants whose result is one predicate in each of them (R99). -/
def voteBody (e : Enc) (f : List Bool → Bool) (s : State) (c : Ctx) : Res :=
  lanesBody e (fun c w _ => .ok { preds := [(e.dst.toNat, f ((lanesOf c.acting).map (fun k => qSrc0 w k e)))] }) s c

/-- VOTE.SOME (R99). -/
def execVoteSome (e : Enc) (s : State) : Outcome State Fault Refusal :=
  s.issue (.voteSome e) e false (voteBody e (fun xs => xs.any id))

/-- VOTE.EVERY (R99). -/
def execVoteEvery (e : Enc) (s : State) : Outcome State Fault Refusal :=
  s.issue (.voteEvery e) e false (voteBody e (fun xs => xs.all id))

/-- VOTE.MASK (R99). -/
def execVoteMask (e : Enc) (s : State) : Outcome State Fault Refusal :=
  s.issue (.voteMask e) e false (uniBody e (fun c w =>
    .ok [⟨maskOf ((lanesOf c.acting).filter (fun l => qSrc0 w l e)), false⟩]))

/-- VOTE.SAME (R99). -/
def execVoteSame (e : Enc) (s : State) : Outcome State Fault Refusal :=
  s.issue (.voteSame e) e false (voteBody e (fun xs => xs.all id || xs.all (fun b => !b)))

/-! ### Special registers (R83, R100, R101) -/

/-- The module's own VDN of a function (R457). -/
def Fn.ownVdn (f : Fn) : Word := if f.vdnctl.getLsbD 15 then BitVec.ofNat 32 (f.vdnctl.toNat % 2 ^ 15) else 0xFFFFFFFF

/-- %frontier of a block's wave (R321): the timestamp last published, or all ones. -/
def State.frontierOf (s : State) (b : Block) : DWord :=
  match b.task with
  | some t => (match t.ord with
    | some o => BitVec.ofNat 64 (((s.fn b.fn).domains.get {} o.dom).pubFront / 2 ^ 32)
    | none => 0xFFFFFFFFFFFFFFFF)
  | none => 0xFFFFFFFFFFFFFFFF

/-- The value of a special register in a lane (R83). -/
def specialReg (s : State) (c : Ctx) (w : Wave) (l code : Nat) : DWord :=
  let b := s.block c.blk
  let n (x : Nat) : DWord := BitVec.ofNat 64 x
  match code with
  | 0 => n l
  | 1 => n w.idx
  | 2 => n b.x
  | 3 => n b.y
  | 4 => n b.z
  | 5 => n b.nblk
  | 6 => n w.stage
  | 7 => (w.lane l).fibid.setWidth 64
  | 8 => w.tstamp
  | 9 => s.frontierOf b
  | 10 => match w.spec.sid with | some k => n k | none => 0xFFFFFFFF
  | 11 => ((s.fn b.fn).ownVdn).setWidth 64
  | 12 => n (s.clock - (s.fn b.fn).readyAt + (s.fn b.fn).clockAdd)
  | 13 => n w.emdepth
  | 14 => w.fpctl.setWidth 64
  | 15 => (w.lane l).fpstat.setWidth 64
  | 16 => w.joinlost.setWidth 64
  | k => (w.ow.get 0 (k - 24)).setWidth 64

/-- GETS (R100). -/
def execGets (e : Enc) (s : State) : Outcome State Fault Refusal :=
  let code := e.src0.toNat
  let ws (x : DWord) : List PWord := if spWide code then clean (dwords x) else clean [x.setWidth 32]
  s.issue (.gets e) e false (fun s c =>
    if e.dst.toNat < 192 then
      lanesBody e (fun c w l =>
        w.withDst l e (if spWide code then 2 else 1) (.ok { words := ws (specialReg s c w l code) })) s c
    else uniBody e (fun c w => .ok (ws (specialReg s c w c.leader code))) s c)

/-- A write that sets reserved bits counts once in RSVWRITE (R3). -/
def State.bumpRsv (s : State) (f : Nat) : State :=
  let x := s.fn f
  s.setFn f { x with rsvwrite := if x.rsvwrite == 0xFFFFFFFF then x.rsvwrite else x.rsvwrite + 1 }

/-- SETS (R101).  Every earlier instruction of the wave has set its flags by then: arithmetic has its results at its issue (log 152). -/
def execSets (e : Enc) (s : State) : Outcome State Fault Refusal :=
  let code := e.dst.toNat
  s.issue (.sets e) e false (fun s c =>
    let w := s.ctxWave c
    if code = 15 then
      let src (l : Nat) : Except Cause Word := if e.len == .l128 then .ok e.imm32 else (w.src0 l e).bind PWord.use
      let rs := (lanesOf c.acting).map (fun l => (l, src l))
      let bad := rs.filterMap (fun (l, r) => match r with | .error k => some (l, k) | .ok _ => none)
      match bad with
      | (_, k) :: _ => .fault s { cause := k, lanes := maskOf (bad.map (·.1)), perFibre := true }
      | [] =>
        let vs := rs.filterMap (fun (l, r) => match r with | .ok x => some (l, x) | .error _ => none)
        let w1 := vs.foldl (fun w (l, x) => w.setLane l { w.lane l with fpstat := x &&& 0x1F }) w
        let s1 := s.setCtxWave c w1
        Res.next (if vs.any (fun (_, x) => x &&& 0xFFFFFFE0 != 0) then s1.bumpRsv (s1.ctxFn c) else s1)
    else
      let x : PWord := if e.len == .l128 then ⟨e.imm32, false⟩ else w.sCode e.src0
      if x.poison then Res.uni s .poison
      else if code = 14 then
        let s1 := s.setCtxWave c { w with fpctl := x.val &&& 3 }
        Res.next (if x.val &&& 0xFFFFFFFC != 0 then s1.bumpRsv (s1.ctxFn c) else s1)
      else Res.next (s.setCtxWave c { w with joinlost := x.val }))

/-! ### Uniform arithmetic (R102 to R104) -/

/-- A uniform operation on S[SRC0] and the second operand. -/
def uniOp2 (e : Enc) (f : Word → Word → Word) : State → Ctx → Res :=
  uniBody e (fun _ w => do
    let a ← (w.sCode e.src0).use
    let b ← (w.uniB e .sign).use
    .ok [⟨f a b, false⟩])

/-- SADD (R102). -/
def execSadd (e : Enc) (s : State) : Outcome State Fault Refusal := s.issue (.sadd e) e false (uniOp2 e (fun a b => a + b))
/-- SSUB (R102). -/
def execSsub (e : Enc) (s : State) : Outcome State Fault Refusal := s.issue (.ssub e) e false (uniOp2 e (fun a b => a - b))
/-- SMUL (R102). -/
def execSmul (e : Enc) (s : State) : Outcome State Fault Refusal := s.issue (.smul e) e false (uniOp2 e (fun a b => a * b))

/-- SLOG (R102). -/
def execSlog (e : Enc) (s : State) : Outcome State Fault Refusal :=
  s.issue (.slog e) e false (uniOp2 e (fun a b =>
    match e.fn.toNat with
    | 0 => a &&& b
    | 1 => a ||| b
    | 2 => a ^^^ b
    | _ => a &&& ~~~b))

/-- The shift of R103 by 0 to 63. -/
def sshOp (fn : Nat) (a : Word) (c : Nat) : Word :=
  match fn with
  | 0 => a <<< c
  | 1 => a >>> c
  | 2 => a.sshiftRight c
  | _ => a.rotateLeft (c % 32)

/-- SSH (R103). -/
def execSsh (e : Enc) (s : State) : Outcome State Fault Refusal :=
  s.issue (.ssh e) e false (uniBody e (fun _ w => do
    let a ← (w.sCode e.src0).use
    let c ← if e.len == .l64 then (w.sCode e.src1).use else .ok (e.imm16.setWidth 32)
    .ok [⟨sshOp e.fn.toNat a (c.toNat % 64), false⟩]))

/-- SCMP (R104). -/
def execScmp (e : Enc) (s : State) : Outcome State Fault Refusal :=
  s.issue (.scmp e) e false (fun s c =>
    let w := s.ctxWave c
    let signed := e.cmpType == 0
    let a := w.sCode e.src0
    let b := w.uniB e (if signed then .sign else .zero)
    if a.poison || b.poison then Res.uni s .poison
    else lanesBody e (fun _ _ _ => .ok { preds := [(e.dst.toNat, intCompare e.cmpRel signed a.val b.val)] }) s c)

/-- SMOV (R102): a move, so poison travels (R39). -/
def execSmov (e : Enc) (s : State) : Outcome State Fault Refusal :=
  s.issue (.smov e) e false (uniBody e (fun c w => do
    let a ← w.readSrc c.leader false e.src0
    .ok [a]))

/-- SLI (R102). -/
def execSli (e : Enc) (s : State) : Outcome State Fault Refusal :=
  s.issue (.sli e) e false (uniBody e (fun _ _ => .ok [⟨e.imm32, false⟩]))

end Sys2Proof.Machine
end

