-- ==== Sys2Proof/Machine/MemOps.lean ====
section
/-!
DEFINITION. Sys2Proof/Machine/MemOps.lean: what the memory instructions share: addresses (R106), alignment (R107), targets (R108),
the lanes that fault and the done-mask (R125, R126), accesses inside a speculative unit (R313, R334), remote lanes (R459) and
the status forms (R109).
-/

namespace Sys2Proof.Machine

open Host

/-! ### Addresses (R106, R107) -/

/-- The index of an address, shifted (R106). -/
def indexOf (e : Enc) (x : Word) : DWord :=
  (if e.mod.getLsbD 3 then x.signExtend 64 else x.setWidth 64) <<< (e.mod.toNat / 2 % 4)

/-- The byte offset of an address (R106). -/
def memOffset (e : Enc) : DWord :=
  match e.len with
  | .l64 => 0
  | .l96 => e.imm16.signExtend 64
  | .l128 => e.imm32.signExtend 64

/-- The effective address of a lane; `idx` says that SRC1 may be an index (R106).  Base and index are consumed. -/
def effAddr (w : Wave) (l : Nat) (e : Enc) (idx : Bool) : Except Cause DWord := do
  let b ← useD (← w.readPair l e.src0)
  if idx && e.mod.getLsbD 0 then
    let x ← (← w.src1 l e).use
    .ok (b + indexOf e x + memOffset e)
  else .ok (b + memOffset e)

/-- The bytes of a size code (R107). -/
def szBytes (z : Nat) : Nat := 2 ^ z

/-- The words a size code takes in registers. -/
def szWords (z : Nat) : Nat := (szBytes z + 3) / 4

/-- What one lane asks of memory. -/
structure LaneOp where
  lane : Nat
  ea : DWord
  kind : AccKind
  dst : AccDst

/-- The lanes of an instruction with their operands, or the fault of an operand, which ends the whole instruction (R125). -/
def laneOps (m : BitVec 32) (f : Nat → Except Cause LaneOp) : Except (Cause × BitVec 32) (List LaneOp) :=
  let rs := (lanesOf m).map (fun l => (l, f l))
  let bad := rs.filterMap (fun (l, r) => match r with | .error c => some (l, c) | .ok _ => none)
  match bad with
  | [] => .ok (rs.filterMap (fun (_, r) => match r with | .ok x => some x | .error _ => none))
  | (_, c) :: _ => .error (c, maskOf (bad.map (·.1)))

/-- What an access does, for its permissions (R397). -/
def AccKind.acc (k : AccKind) : Acc :=
  match k with
  | .load .. | .waitw .. | .lr _ => .read
  | .store .. => .write
  | .atom .. | .sc .. => .readWrite

/-- The bytes of an access kind. -/
def AccKind.bytes (k : AccKind) : Nat :=
  match k with
  | .load n _ => n
  | .store bs _ => bs.length
  | .atom _ n .. => n
  | .waitw n .. => n
  | .lr n => n
  | .sc bs _ => bs.length

/-- OPC in the words of an instruction. -/
def Raw.opc (r : Raw) : Nat := r.w0.toNat / 16 % 256

/-- ST.W, the one access that the notify aperture takes (R108). -/
def AccKind.isStoreW (k : AccKind) (raw : Raw) : Bool :=
  match k with
  | .store bs _ => bs.length == 4 && raw.opc == 0x71
  | _ => false

/-- The kind takes its value at the home at issue: LR, SC, WAITW (R117, R119, R123). -/
def AccKind.atHome (k : AccKind) : Bool := match k with | .lr _ | .sc .. | .waitw .. => true | _ => false

/-! ### Parts of an access (R112) -/

/-- A destination shifted by some registers; only the first register's value goes to the latch (R53). -/
def AccDst.shift (d : AccDst) (i : Nat) : AccDst :=
  match d with
  | .none => .none
  | .v r n dlt nwb tag => .v (r + i) n (if i = 0 then dlt else 4) nwb tag
  | .s r n => .s (r + i) n
  | .cvt r f dt sc dlt tag => .cvt r f dt sc dlt tag
  | .scale a => .scale a

/-- The parts of an access that are performed apart: its words (R112). -/
def accParts (k : AccKind) (d : AccDst) (addr : Nat) : List (Nat × AccKind × AccDst) :=
  match k with
  | .load n sx =>
    if n ≤ 4 then [(addr, k, d)]
    else (List.range (n / 4)).map (fun i => (addr + 4 * i, .load 4 sx, d.shift i))
  | .store bs p =>
    (List.range ((addr + bs.length + 3) / 4 - addr / 4)).map (fun i =>
      let lo := max addr ((addr / 4 + i) * 4)
      let hi := min (addr + bs.length) ((addr / 4 + i + 1) * 4)
      (lo, .store ((bs.drop (lo - addr)).take (hi - lo)) p, d))
  | k => [(addr, k, d)]

/-- A clean store that writes the check unit of an address of its target whole (R39, log 11). -/
def AccKind.writesWhole (k : AccKind) (addr a : Nat) : Bool :=
  match k with
  | .store bs p => !p && decide (addr ≤ granuleAt a) && decide (granuleAt a + granule a ≤ addr + bs.length)
  | _ => false

/-! ### One lane at its target (R108, R126) -/

/-- How a lane ends. -/
inductive LaneEnd where
  | done
  /-- it consumed poison and counts as done (R115, R123) -/
  | poisoned
  /-- it waits: WAITW's word still holds the comparand -/
  | waits
  /-- it was sent to a peer -/
  | remote
  | fault (c : Cause) (syn : Option Syndrome)
  deriving DecidableEq, Repr

/-- What the lanes of an instruction share. -/
structure MemCtx where
  c : Ctx
  e : Enc
  grp : Nat
  raw : Raw

/-- The record of poison that a lane consumed. -/
def MemCtx.site (m : MemCtx) (lanes : BitVec 32) : Site := { pc := m.c.pc, nextPc := m.c.nextPc, raw := m.raw, lanes := lanes }

/-- The access record of a part. -/
def MemCtx.access (m : MemCtx) (s : State) (lane addr : Nat) (k : AccKind) (d : AccDst) (cached : Bool) : Access :=
  { id := s.serial, lane := lane, core := s.coreOf m.c.blk, addr := addr, kind := k, dst := d, cached := cached, grp := m.grp
    site := m.site (laneBit lane) }

/-- An access acts at its home at once (R132, R133, LR, SC and the first read of WAITW). -/
def State.actNow (s : State) (m : MemCtx) (lane addr : Nat) (k : AccKind) (d : AccDst) : State × LaneEnd :=
  let a := m.access s lane addr k d false
  let s := if a.readsHome s then s.meet (s.ctxFn m.c) addr a.size else s
  let r := performOne s (s.ctxFn m.c) (s.ctxWave m.c) a
  (r.s.setCtxWave m.c r.w, if r.poison then .poisoned else if r.ends then .done else .waits)

/-- Issue a part of an access that is performed later (R130, R131, R114): the earlier loads of the fibre from the word take
their values first, an atomic discards the core's copy, and a store writes it. -/
def State.putOff (s : State) (m : MemCtx) (lane addr : Nat) (k : AccKind) (d : AccDst) (whole : Bool) : State :=
  let a := { m.access s lane addr k d true with whole := whole }
  let s0 := { s with serial := s.serial + 1 }
  let s1 :=
    if a.isWrite then s0.performWhere m.c.blk m.c.wave (fun x => x.lane == lane && x.kind.readsOnly && x.sameWord a)
    else s0
  let s2 := match k with
    | .store bs q => s1.setCore a.core ((s1.core a.core).storeL1 addr bs q)
    | .atom .. => s1.dropL1 a.core addr a.size
    | _ => s1
  let w := s2.ctxWave m.c
  s2.setCtxWave m.c { w with acc := w.acc ++ [a] }

/-- The latch lane of a load in flight is valid from its issue on; its value follows (R53, R49). -/
def Wave.openLatch (w : Wave) (lane : Nat) (d : AccDst) : Wave :=
  match d with
  | .v _ _ dlt nwb tag =>
    if dlt < 4 then
      let x := w.lane lane
      let y := x.latches.get {} dlt
      w.setLane lane { x with latches := x.latches.set dlt { y with tag := tag, nwb := nwb, valid := true } }
    else w
  | _ => w

/-- LR at its home (R117): the value, and the wave's reservation. -/
def State.doLr (s : State) (m : MemCtx) (lane addr n : Nat) (ea : DWord) (d : AccDst) : State :=
  let s := s.meet (s.ctxFn m.c) addr n
  let a := m.access s lane addr (.load n false) d false
  let xs := (wordsOf n (s.natAt addr n)).map (fun x => (⟨x, s.poisonAt addr n⟩ : PWord))
  let w := (s.ctxWave m.c).deliver a true xs
  s.setCtxWave m.c { w with resv := some { line := addr / 128 * 128, addr := ea.toNat, size := n }, rresv := none }

/-- SC at its home (R119): 0 where it wrote, 1 where the reservation did not hold.  The core's copy of a word that it wrote is discarded,
unless the core has a store to it under way (log 147). -/
def State.doSc (s : State) (m : MemCtx) (lane addr : Nat) (ea : DWord) (bs : List Byte) (p : Bool) (d : AccDst) : State :=
  let w := s.ctxWave m.c
  let core := s.coreOf m.c.blk
  let holds := match w.resv with | some r => r.addr == ea.toNat && r.size == bs.length | none => false
  let s1 :=
    if holds then
      let s2 := s.writeOut (s.ctxFn m.c) none addr bs p
      if s2.pendingStore core addr bs.length then s2 else s2.dropL1 core addr bs.length
    else s
  let w1 := { s1.ctxWave m.c with resv := none, rresv := none }
  let a := m.access s lane addr (.load 4 false) d false
  s1.setCtxWave m.c (w1.deliver a true [⟨if holds then 0 else 1, false⟩])

/-- Accesses of the fibre to the word that must happen before it acts at the home. -/
def State.before (s : State) (m : MemCtx) (lane addr n : Nat) : State :=
  let a := m.access s lane addr (.load n false) .none false
  s.performWhere m.c.blk m.c.wave (fun x => x.lane == lane && x.sameWord a)

/-- The notify store of a lane (R108): everything of the fibre before it is performed, and the dispatcher takes the value
next. -/
def State.notifyStore (s : State) (m : MemCtx) (lane q off : Nat) (bs : List Byte) : State :=
  let s1 := s.performWhere m.c.blk m.c.wave (fun x => x.lane == lane && x.isWrite)
  (s1.unclean m.c.blk).post .queueNotify [s1.ctxFn m.c, q, off, natOfBytes bs] []

/-- Send the access of a lane to a peer (R459). -/
def State.askPeer (s : State) (m : MemCtx) (a : Access) (vdn off : Nat) : State :=
  let a1 := { a with remote := some (vdn, off), sentAt := s.clock, held := true }
  let w := s.ctxWave m.c
  let s1 := ({ s with serial := s.serial + 1 }.setCtxWave m.c { w with acc := w.acc ++ [a1] }).unclean m.c.blk
  s1.sendAccess m.c.blk m.c.wave a1

/-- The access is one of the core's own slice, of its window or of an SC page: it acts at its home (R132, R133). -/
def Xlat.direct (x : Xlat) (core : Nat) : Bool :=
  x.sc || (match x.place with | .slice c _ => c == core | .localScr _ => true | _ => false)

/-- A lane at the place its address names (R108).  A slice of the core itself, its window and an SC page act at once (R132, R133): all
words of all lanes of the instruction in one step, with no other agent's access between them (log 148). -/
def State.laneAt (s : State) (m : MemCtx) (o : LaneOp) (x : Xlat) : State × LaneEnd :=
  let core := s.coreOf m.c.blk
  match x.place with
  | .notify q off =>
    match o.kind with
    | .store bs _ => if o.kind.isStoreW m.raw then (s.notifyStore m o.lane q off bs, .done) else (s, .fault .accessFault none)
    | _ => (s, .fault .accessFault none)
  | .fabric vdn off =>
    (s.askPeer m { m.access s o.lane 0 o.kind o.dst false with ea := o.ea } vdn off, .remote)
  | pl =>
    match pl.host s (some m.c.blk) with
    | none => (s, .fault .accessFault none)
    | some addr =>
      match o.kind with
      | .lr n => ((s.before m o.lane addr n).doLr m o.lane addr n o.ea o.dst, .done)
      | .sc bs q => ((s.before m o.lane addr bs.length).doSc m o.lane addr o.ea bs q o.dst, .done)
      | .waitw n .. =>
        let (s2, r) := (s.before m o.lane addr n).actNow m o.lane addr o.kind o.dst
        if r == .waits then
          let a := { m.access s2 o.lane addr o.kind o.dst false with ea := o.ea }
          let w := s2.ctxWave m.c
          ({ s2 with serial := s2.serial + 1 }.setCtxWave m.c { w with acc := w.acc ++ [a] }, .waits)
        else (s2, r)
      | k =>
        let parts := accParts k o.dst addr
        if x.direct core then
          -- a direct access follows what the fibre still has in flight to the word
          let s0 := s.before m o.lane addr k.bytes
          let s1 := s0.setCtxWave m.c ((s0.ctxWave m.c).openLatch o.lane o.dst)
          let r := parts.foldl (fun (acc : State × LaneEnd) (a, k, d) =>
            let (s2, e) := acc.1.actNow m o.lane a k d
            (s2, if acc.2 == .poisoned then .poisoned else e)) (s1, .done)
          -- a check unit that clean bytes wrote whole is formed anew (R39)
          match k with
          | .store bs false => ({ r.1 with poisoned := poisonAfter r.1.poisoned addr bs.length false }, r.2)
          | _ => r
        else
          let s0 := s.setCtxWave m.c ((s.ctxWave m.c).openLatch o.lane o.dst)
          (parts.foldl (fun s (a, k', d) => s.putOff m o.lane a k' d (k.writesWhole addr a)) s0, .done)

/-! ### Inside a speculative unit (R313, R334) -/

/-- An access that a unit may not make (R334). -/
def forbiddenInUnit (k : AccKind) (x : Xlat) : Bool :=
  x.sc || k.atHome || (match x.place with | .notify .. | .fabric .. => true | _ => false)

/-- The home core of an address near a translated one, whose directory tracks it (R30, R313). -/
def State.specHome (s : State) (c : Ctx) (x : Xlat) (addr : Nat) (a : Nat) : Nat :=
  (s.homeCore (s.ctxFn c) (x.gpa + a - addr) x.place (s.coreOf c.blk)).getD (s.coreOf c.blk)

/-- A tracked access of a unit (R313). -/
def State.trackedLane (s : State) (sid : Nat) (m : MemCtx) (o : LaneOp) (x : Xlat) (addr : Nat) : Tracked LaneEnd :=
  let home := s.specHome m.c x addr
  let core := s.coreOf m.c.blk
  let put (s : State) (xs : List PWord) : State :=
    let a := m.access s o.lane addr o.kind o.dst false
    s.setCtxWave m.c ((s.ctxWave m.c).deliver a true xs)
  match o.kind with
  | .load n sx =>
    match s.specRead sid home addr n with
    | .ok s1 (bs, p) =>
      let x := natOfBytes bs
      let ws := if n ≤ 4 then [BitVec.ofNat 32 (extendLoad n sx x)] else wordsOf n x
      .ok (put s1 (ws.map (fun v => ⟨v, p⟩))) .done
    | .stall s1 on => .stall s1 on
    | .abort s1 r => .abort s1 r
  | .store bs p =>
    match s.specWrite sid core home addr bs p with
    | .ok s1 _ => .ok s1 .done
    | .stall s1 on => .stall s1 on
    | .abort s1 r => .abort s1 r
  | .atom aop n op op2 p1 p2 =>
    match s.specRead sid home addr n with
    | .ok s1 (bs, oldP) =>
      let old := natOfBytes bs
      let bad := aopConsumes aop && (oldP || p1)
      let res (s2 : State) : Tracked LaneEnd :=
        .ok (put s2 ((wordsOf n old).map (fun v => ⟨v, oldP || bad⟩))) (if bad then .poisoned else .done)
      match atomNew aop n old (op.toNat % 2 ^ (8 * n)) (op2.toNat % 2 ^ (8 * n)) with
      | none => res s1
      | some v =>
        match s1.specWrite sid core home addr (bytesOfNat n v) (bad || (if aop == 8 then p1 else aop == 9 && p2)) with
        | .ok s2 _ => res s2
        | .stall s2 on => .stall s2 on
        | .abort s2 r => .abort s2 r
    | .stall s1 on => .stall s1 on
    | .abort s1 r => .abort s1 r
  | _ => .ok s .done

/-- The regions in the way of a frontier task abort with CYCLE (R332). -/
def State.clearWay (s : State) (on : List Nat) : State := s.abort (on.filter (fun k => (s.units.get? k).isSome && (s.unit k).task.isNone)) 4

/-- Park lanes of an issue; they leave their batch (R75).  `since` is the clock from which the wait counts. -/
def State.parkSince (s : State) (c : Ctx) (e : Enc) (lanes : BitVec 32) (why : Why) (since : Nat) : State :=
  let w := s.ctxWave c
  s.setCtxWave c (w.park { lanes := lanes, why := why, enc := e, acting := c.acting, nextPc := c.nextPc, since := since })

/-- Park lanes of an issue from now on. -/
def State.parkLanes (s : State) (c : Ctx) (e : Enc) (lanes : BitVec 32) (why : Why) : State := s.parkSince c e lanes why s.clock

/-- Stall the issue until the unit's promotion; the instruction then issues again (R324). -/
def State.stallIssue (s : State) (c : Ctx) (e : Enc) (why : Why) : State := (s.parkLanes c e c.acting why).finish c false 0

/-- Stall the issue of a unit on an edge (R328, R332): a stall that is decided again and lasts keeps the clock of its start. -/
def State.stallEdge (s : State) (c : Ctx) (e : Enc) (sid : Nat) (on : List Nat) : State :=
  let u := s.unit sid
  let t := u.stalledAt.getD s.clock
  ((s.setUnit sid { u with stalledAt := some t }).parkSince c e c.acting (.edge on) t).finish c false 0

/-- An access that was stalled on an edge has gone through (R328). -/
def State.unstalled (s : State) (c : Ctx) : State :=
  match (s.ctxWave c).spec.sid with
  | none => s
  | some k => if (s.units.get? k).isSome then s.setUnit k { s.unit k with stalledAt := none } else s

/-- What a unit comes to on an operation it may not do: a task waits for its promotion, a region aborts (R334). -/
def State.untilPromoted (s : State) (sid : Nat) (c : Ctx) (e : Enc) : State :=
  if (s.unit sid).task.isSome then s.stallIssue c e .promote else s.abort [sid] 5

/-- The body of an operation that a unit may not do (R334). -/
def notInUnit (e : Enc) (body : State → Ctx → Res) (s : State) (c : Ctx) : Res :=
  match (s.ctxWave c).spec.sid with
  | some sid => .stay (s.untilPromoted sid c e)
  | none => body s c

/-! ### The lanes of an instruction -/

/-- The state and the ends of the lanes so far. -/
structure LaneAcc where
  s : State
  ends : List (Nat × LaneEnd) := []
  /-- the whole instruction stops here: a stall or an abort of the unit -/
  stop : Option State := none

/-- The translation of a lane, or its fault. -/
abbrev LaneXlat := Except (Cause × Option Syndrome) Xlat

/-- Every lane is translated before one is performed (R402): lanes on one page use one translation. -/
def translateLanes (s : State) (q : XReq) (os : List (Nat × DWord × Acc)) : State × List LaneXlat :=
  let r := os.foldl (fun (acc : State × PageMemo × List LaneXlat) (_, va, a) =>
    let ((x, s1), m) := translateMemo acc.1 acc.2.1 q va.toNat a
    let y : LaneXlat := match x with
      | .ok x => .ok x
      | .error (k, syn) => .error (k, if va.toNat < 2 ^ 55 then some syn else none)
    (s1, m, acc.2.2 ++ [y])) (s, [], [])
  (r.1, r.2.2)

/-- One lane at its target, once it has been translated (R108, R126); `s0` is the state in which every lane has its translation. -/
def laneStep (m : MemCtx) (sid : Option Nat) (s0 : State) (acc : LaneAcc) (ox : LaneOp × LaneXlat) : LaneAcc :=
  let (o, x) := ox
  let s := acc.s
  match acc.stop, x with
  | some _, _ => acc
  | none, .error (k, syn) => { acc with ends := acc.ends ++ [(o.lane, .fault k syn)] }
  | none, .ok x =>
    let plain : LaneAcc :=
      let (s2, r) := s.laneAt m o x
      { s := s2, ends := acc.ends ++ [(o.lane, r)] }
    match sid with
    | none => plain
    | some k =>
      if forbiddenInUnit o.kind x then { acc with stop := some (s0.untilPromoted k m.c m.e) }
      else
        match x.place with
        | .localScr _ => plain
        | pl =>
          match pl.host s (some m.c.blk) with
          | none => { acc with ends := acc.ends ++ [(o.lane, .fault .accessFault none)] }
          | some addr =>
            match s.trackedLane k m o x addr with
            | .ok s2 r => { acc with s := s2, ends := acc.ends ++ [(o.lane, r)] }
            | .abort s2 r =>
              -- the frontier task is promoted instead (R324)
              if s0.isFrontier (s0.unit k) then { acc with stop := some (s0.stallIssue m.c m.e .promote) }
              else { acc with stop := some (s2.abort [k] r) }
            | .stall _ on =>
              if s0.isFrontier (s0.unit k) then
                -- the regions in the way of the frontier task abort, and it issues again (R332)
                { acc with stop := some (s0.clearWay on) }
              else { acc with stop := some (s0.stallEdge m.c m.e k on) }

/-- The lanes with a given end. -/
def endsWith (ends : List (Nat × LaneEnd)) (p : LaneEnd → Bool) : BitVec 32 :=
  maskOf ((ends.filter (fun (_, r) => p r)).map (·.1))

/-- A lane's target fault. -/
def LaneEnd.isFault (r : LaneEnd) : Bool := match r with | .fault .. => true | _ => false

/-- The status predicate SQ of a `.ST` form, EXT23[4:0] (R109). -/
def sqOf (e : Enc) : Nat := e.ext.toNat % 32

/-- A local access of a `.ST` form: q[SQ] := 1 and, where DST is the status, code 0 (R109). -/
def Wave.statusOk (w : Wave) (e : Enc) (st statusDst : Bool) (m : BitVec 32) : Wave :=
  if st then
    (lanesOf m).foldl (fun w l => w.writeLane l e
      { words := if statusDst then [⟨0, false⟩] else [], preds := [(sqOf e, true)] }) w
  else w

/-- What a memory instruction needs beyond its lanes. -/
structure MemSpec where
  st : Bool
  /-- DST is the status destination of a `.ST` form -/
  statusDst : Bool := false
  acq : Bool := false
  rel : Bool := false
  perFibre : Bool := true

/-- The bits of the done-mask that the members of an issue hold (R126). -/
def Wave.clearDone (w : Wave) (m : BitVec 32) : Wave :=
  { w with doneMask := w.doneMask &&& ~~~m, doneGrp := w.doneGrp.filter (fun p => !m.getLsbD p.1) }

/-- Lanes of an instruction are done (R126). -/
def Wave.markDone (w : Wave) (m : BitVec 32) (g : Nat) : Wave :=
  { w with doneMask := w.doneMask ||| m, doneGrp := (lanesOf m).foldl (fun t l => t.set l g) w.doneGrp }

/-- The number of the instruction that an issue's members are partly done with (R126). -/
def Wave.partDone (w : Wave) (members : BitVec 32) : Option Nat :=
  if w.doneMask &&& members == 0 then none else some (w.doneGrp.get 0 (lowLane (w.doneMask &&& members)))

/-- The lanes of an instruction that are noted to have consumed poison. -/
def Wave.lateLanes (w : Wave) (g : Nat) : BitVec 32 := w.late.foldl (fun m x => if x.grp == g then m ||| x.site.lanes else m) 0

/-- The note is taken up. -/
def Wave.dropLate (w : Wave) (g : Nat) : Wave := { w with late := w.late.filter (fun x => x.grp != g) }

/-- The end of a memory instruction whose lanes have all ended here (R112, R115, R126), with the lanes that consumed poison in earlier
issues of it. -/
def memEnd (m : MemCtx) (sp : MemSpec) (os : List LaneOp) (acc : LaneAcc) : Res :=
  let s := acc.s
  let w0 := s.ctxWave m.c
  let waits := endsWith acc.ends (fun r => r == .waits)
  let remote := endsWith acc.ends (fun r => r == .remote)
  let bad := endsWith acc.ends (fun r => r == .poisoned) ||| w0.lateLanes m.grp
  let faults := acc.ends.filter (fun (_, r) => r.isFault)
  let done := endsWith acc.ends (fun r => r == .done || r == .poisoned)
  let w := (w0.dropLate m.grp).statusOk m.e sp.st sp.statusDst (if sp.perFibre then done else if done == 0 then 0 else m.c.acting)
  let ea (l : Nat) : DWord := match os.find? (fun o => o.lane == l) with | some o => o.ea | none => 0
  if remote != 0 then
    let fails : List RemoteFail :=
      faults.filterMap (fun (l, r) => match r with | .fault k syn => some { lane := l, cause := k, fva := ea l, syn := syn } | _ => none) ++
      (lanesOf bad).map (fun l => { lane := l, cause := .poison })
    .ok ((s.setCtxWave m.c (w.markDone done m.grp)).parkLanes m.c m.e m.c.acting (.remote (remote ||| waits) fails)) false 0
  else if waits != 0 && faults.isEmpty then
    .ok ((s.setCtxWave m.c (w.markDone done m.grp)).parkLanes m.c m.e m.c.acting (.waitw waits bad)) false 0
  else
    match faults with
    | (l, .fault k syn) :: _ =>
      -- lanes that wait are watched again when the instruction issues again (R123, R126), and poison is raised once it has completed
      let w2 := { w.markDone done m.grp with acc := w.acc.filter (fun a => match a.kind with | .waitw .. => !(a.grp == m.grp) | _ => true) }
      let w3 := if bad == 0 then w2 else w2.noteLate m.grp (m.site bad)
      .fault (s.setCtxWave m.c w3)
        { cause := k, lanes := if sp.perFibre then maskOf (faults.map (·.1)) else 0, perFibre := sp.perFibre, syn := syn, fva := ea l }
    | _ =>
      let s2 := s.setCtxWave m.c (w.clearDone m.c.members)
      let s3 := if sp.acq && w.spec.sid.isNone then s2.doAcq m.c.blk m.c.wave else s2
      let w3 := s3.ctxWave m.c
      let all := bad ||| w3.lateLanes m.grp
      if all == 0 then Res.next s3
      else if w3.acc.any (fun a => a.grp == m.grp) then
        -- other lanes of it are in flight (R115)
        Res.next (s3.setCtxWave m.c (w3.noteLate m.grp (m.site all)))
      else .after (s3.setCtxWave m.c (w3.dropLate m.grp)) { cause := .poison, lanes := if sp.perFibre then all else 0, perFibre := sp.perFibre }

/-- The result of a memory instruction, with the POISON of the wave's instructions that completed meanwhile (R115). -/
def Res.reporting (r : Res) (s0 : State) (c : Ctx) : Res :=
  let f (s : State) : State := s.reportBut c.blk c.wave (s0.ctxWave c).lateReady
  match r with
  | .ok s j g => .ok (f s) j g
  | .after s k => .after (f s) k
  | .fault s k => .fault (f s) k
  | .stay s => .stay s

/-- A memory instruction's context: its number, which its earlier issues gave it if it is partly done, and the state that holds it. -/
def State.memCtx (s : State) (c : Ctx) (e : Enc) (raw : Raw) : MemCtx × State :=
  let w := s.ctxWave c
  match w.partDone c.members with
  | some g => ({ c := c, e := e, grp := g, raw := raw }, s)
  | none => ({ c := c, e := e, grp := w.nextGrp + 1, raw := raw }, s.setCtxWave c { w with nextGrp := w.nextGrp + 1 })

/-- A memory instruction over its acting lanes (R112 to R126): operands, alignment, REL, then the lanes in ascending order.
`ops` gives a lane's request; `align` is the size its address must be a multiple of. -/
def memBody (i : Instr) (e : Enc) (sp : MemSpec) (align : Nat) (lanes : Ctx → Wave → BitVec 32)
    (ops : Ctx → Wave → Nat → Except Cause LaneOp) (s : State) (c : Ctx) : Res :=
  let w := s.ctxWave c
  let act := lanes c w &&& ~~~w.doneMask
  match laneOps act (ops c w) with
  | .error (k, m) => .fault s { cause := k, lanes := if sp.perFibre then m else 0, perFibre := sp.perFibre }
  | .ok os =>
    let off := os.filter (fun o => o.ea.toNat % align != 0)
    match off with
    | o :: _ =>
      .fault s { cause := .align, lanes := if sp.perFibre then maskOf (off.map (·.lane)) else 0, perFibre := sp.perFibre, fva := o.ea }
    | [] =>
      let s1 := if sp.rel && w.spec.sid.isNone then s.doRel c.blk c.wave else s
      if s1.lateNew s c then .stay (s1.reportBut c.blk c.wave w.lateReady)
      else
        let (m, s2) := s1.memCtx c e (rawOf i)
        let (s3, xs) := translateLanes s2 (s2.xreq c.blk) (os.map (fun o => (o.lane, o.ea, o.kind.acc)))
        let r := (os.zip xs).foldl (laneStep m w.spec.sid s3) { s := s3 }
        match r.stop with
        | some s4 => .stay s4
        | none => (memEnd m sp os { r with s := r.s.unstalled c }).reporting s1 c

/-! ### Records read at their homes -/

/-- What a read of bytes at a VA comes to. -/
inductive VaRead where
  | ok (s : State) (bs : List Byte) (poison : Bool)
  | fault (s : State) (c : Cause) (va : Nat) (syn : Option Syndrome)

/-- The pieces of n bytes from a VA that lie on one page each. -/
def pagePieces (va n : Nat) : List (Nat × Nat) :=
  if n = 0 then []
  else (List.range ((va + n - 1) / 65536 - va / 65536 + 1)).map (fun i =>
    let lo := max va ((va / 65536 + i) * 65536)
    (lo, min (va + n) ((va / 65536 + i + 1) * 65536) - lo))

/-- The bytes from a place on to the end of what may be addressed there, where that end is no page's: the block-local window ends with
the block's scratch, a slice with its scratch share (R26, R29, R108). -/
def Place.room (p : Place) (s : State) (blk : Nat) : Option Nat :=
  match p with
  | .localScr off => some ((s.block blk).scratch - off)
  | .slice c off => some (s.scratchShare c - off)
  | _ => none

/-- n bytes from a place lie within what the place allows. -/
def Place.covers (p : Place) (s : State) (blk n : Nat) : Bool := match p.room s blk with | some k => decide (n ≤ k) | none => true

/-- Read n bytes at a VA at their homes; a place outside HBM, the slices and the block's window is refused. -/
def State.readVA (s : State) (blk va n : Nat) : VaRead :=
  (pagePieces va n).foldl (fun (acc : VaRead) (a, k) =>
    match acc with
    | .fault .. => acc
    | .ok s bs p =>
      match translate s (s.xreq blk) a .read with
      | (.error (c, syn), s1) => .fault s1 c a (if a < 2 ^ 55 then some syn else none)
      | (.ok x, s1) =>
        match x.place.host s1 (some blk) with
        | none => .fault s1 .accessFault a none
        | some h =>
          if x.place.covers s1 blk k then .ok (s1.meet (s1.block blk).fn h k) (bs ++ s1.bytesAt h k) (p || s1.poisonAt h k)
          else .fault s1 .accessFault (a + (x.place.room s1 blk).getD 0) none) (.ok s [] false)

end Sys2Proof.Machine
end

