-- ==== Sys2Proof/Machine/Wire.lean ====
section
/-!
DEFINITION. Sys2Proof/Machine/Wire.lean: packets as bytes of a VC's stream (R481).  The spec lays out the header; the operation codes,
status and counts of AUX, and what a body says beside its data, it leaves to AUX "by KIND": those stand as free functions
of Config (log 22).
-/

namespace Sys2Proof.Machine

open Host

/-- KIND of a packet (R481). -/
def Body.kind (b : Body) : Nat :=
  match b with
  | .read _ => 0
  | .write .. => 1
  | .atomic .. | .lr .. | .sc .. => 2
  | .response .. => 3
  | .msg .. | .get .. | .fadd .. | .ask _ | .block .. | .image .. | .told _ | .arm _ => 4
  | .msgAck .. | .bitmap _ | .rebindAck | .answer _ | .blockAck _ | .imageAck _ | .armAns .. => 5
  | .mark => 6
  | .markAck => 7
  | .markRelease => 8
  | .rebind .. => 9
  | .moved _ => 10
  | .peerReset => 11
  | .allow _ => 12
  | .unknown => 13

/-- A response (R481). -/
def Body.isResponse (b : Body) : Bool := [3, 5, 7, 10, 12].contains b.kind

/-- A body as numbers, for AUX, and as data bytes. -/
def Body.parts (b : Body) : List Nat × List Byte :=
  let t (t : Triple) : List Nat := [t.grp, t.mem, t.func]
  match b with
  | .read n => ([n], [])
  | .write bs p => ([p.toNat], bs)
  | .atomic aop n op op2 p1 p2 => ([0, aop, n, p1.toNat, p2.toNat], bytesOfNat 8 op.toNat ++ bytesOfNat 8 op2.toNat)
  | .lr n who => ([1, n, who], [])
  | .sc bs p who h => ([2, p.toNat, who, h.toNat], bs)
  | .response code bs p => ([code, p.toNat], bs)
  | .msg (.window ..) total i bs p => ([0, total, i, p.toNat], bs)
  | .msg (.reply m) total i bs p => ([1, total, i, p.toNat, m], bs)
  | .msg (.coll cid key rank ph off) total i bs p => ([2, total, i, p.toNat, cid, rank, ph, off] ++ key, bs)
  | .get _ _ _ total => ([3, total], [])
  | .fadd _ _ _ x => ([4], bytesOfNat 8 x.toNat)
  | .ask l => (5 :: l.flatMap (fun (h, sp) => [h, sp.toNat]), [])
  | .block g bs p => ([6, g, p.toNat], bs)
  | .image total bs => ([7, total], bs)
  | .told k => ([8, k], [])
  | .arm f => ([9, f], [])
  | .msgAck code old => ([0, code], bytesOfNat 8 old.toNat)
  | .bitmap got => (1 :: got, [])
  | .rebindAck => ([2], [])
  | .answer ok => ([3, ok.toNat], [])
  | .blockAck g => ([4, g], [])
  | .imageAck ok => ([5, ok.toNat], [])
  | .armAns c f => ([6, c, f], [])
  | .rebind a b => (t a ++ t b, [])
  | .moved a => (t a, [])
  | .allow n => ([n], [])
  | .mark | .markAck | .markRelease | .peerReset | .unknown => ([], [])

/-- GEN, WIN and ADDR of a body that names a window (R463, R481). -/
def Body.window (b : Body) : Option (Nat × Nat × Nat) :=
  match b with
  | .msg (.window w g off) .. => some (g, w, off)
  | .get w g off _ => some (g, w, off)
  | .fadd w g off _ => some (g, w, off)
  | _ => none

/-- A list of numbers as pairs. -/
def pairsOf (l : List Nat) : List (Nat × Bool) :=
  match l with
  | a :: b :: r => (a, b == 1) :: pairsOf r
  | _ => []

/-- The body that KIND, the numbers of AUX, GEN, WIN, ADDR and the data stand for. -/
def bodyOf (kind : Nat) (l : List Nat) (gen win addr : Nat) (bs : List Byte) : Body :=
  let n (i : Nat) : Nat := l.getD i 0
  let p (i : Nat) : Bool := n i == 1
  let t (i : Nat) : Triple := { grp := n i, mem := n (i + 1), func := n (i + 2) }
  match kind with
  | 0 => .read (n 0)
  | 1 => .write bs (p 0)
  | 2 =>
    match n 0 with
    | 0 => .atomic (n 1) (n 2) (BitVec.ofNat 64 (natOfBytes (bs.take 8))) (BitVec.ofNat 64 (natOfBytes (bs.drop 8))) (p 3) (p 4)
    | 1 => .lr (n 1) (n 2)
    | _ => .sc bs (p 1) (n 2) (p 3)
  | 3 => .response (n 0) bs (p 1)
  | 4 =>
    match n 0 with
    | 0 => .msg (.window win gen addr) (n 1) (n 2) bs (p 3)
    | 1 => .msg (.reply (n 4)) (n 1) (n 2) bs (p 3)
    | 2 => .msg (.coll (n 4) (l.drop 8) (n 5) (n 6) (n 7)) (n 1) (n 2) bs (p 3)
    | 3 => .get win gen addr (n 1)
    | 4 => .fadd win gen addr (BitVec.ofNat 64 (natOfBytes bs))
    | 5 => .ask (pairsOf (l.drop 1))
    | 6 => .block (n 1) bs (p 2)
    | 7 => .image (n 1) bs
    | 8 => .told (n 1)
    | 9 => .arm (n 1)
    | _ => .unknown
  | 5 =>
    match n 0 with
    | 0 => .msgAck (n 1) (BitVec.ofNat 64 (natOfBytes bs))
    | 1 => .bitmap (l.drop 1)
    | 2 => .rebindAck
    | 3 => .answer (p 1)
    | 4 => .blockAck (n 1)
    | 5 => .imageAck (p 1)
    | 6 => .armAns (n 1) (n 2)
    | _ => .unknown
  | 6 => .mark
  | 7 => .markAck
  | 8 => .markRelease
  | 9 => .rebind (t 0) (t 3)
  | 10 => .moved (t 0)
  | 11 => .peerReset
  | 12 => .allow (n 0)
  | _ => .unknown

/-- The numbers a packet's AUX stands for: its mode and class, and those of its body. -/
def Packet.auxParts (p : Packet) : List Nat := [p.spray.toNat, p.rcls] ++ p.body.parts.1

/-- AUX: the count of an ALLOW (R487), else free. -/
def Packet.aux (p : Packet) : Nat :=
  match p.body with
  | .allow n => n % 2 ^ 32
  | b => (Config.wireAux b.kind p.auxParts).toNat

/-- The 32-byte header (R481). -/
def Packet.header (p : Packet) (len : Nat) : Nat :=
  let (g, w, off) := p.body.window.getD (0, 0, p.addr)
  p.dst.grp % 4096 + p.dst.mem % 32 * 2 ^ 12 + p.dst.func % 64 * 2 ^ 17 + p.src.grp % 4096 * 2 ^ 23 + p.src.mem % 32 * 2 ^ 35 +
  p.src.func % 64 * 2 ^ 40 + p.tc % 4 * 2 ^ 46 + p.body.kind * 2 ^ 48 + p.igrp.isSome.toNat * 2 ^ 52 + p.igrp.getD 0 % 4096 * 2 ^ 53 +
  p.age % 32768 * 2 ^ 65 + p.seq % 65536 * 2 ^ 80 + len % 1024 * 2 ^ 96 + g % 256 * 2 ^ 106 + w % 1024 * 2 ^ 114 + off % 2 ^ 64 * 2 ^ 128 +
  p.msgid % 2 ^ 32 * 2 ^ 192 + p.aux * 2 ^ 224

/-- HDR of an event that a packet's transaction caused (R423, R481; log 157). -/
def Packet.hdr (p : Packet) : List DWord :=
  let h := p.header p.body.parts.2.length
  (List.range 4).map (fun i => BitVec.ofNat 64 (h / 2 ^ (64 * i)))

/-- A packet's bytes in its VC's stream: the header and the data, padded to a multiple of 32. -/
def Packet.bytes (p : Packet) : List Byte :=
  let d := p.body.parts.2
  bytesOfNat 32 (p.header d.length) ++ d ++ List.replicate ((32 - d.length % 32) % 32) 0

/-- The packet a header and its data stand for, on a VC. -/
def packetOf (h vc : Nat) (data : List Byte) : Packet :=
  let f (lo n : Nat) : Nat := h / 2 ^ lo % 2 ^ n
  let aux : Word := BitVec.ofNat 32 (f 224 32)
  let kind := f 48 4
  let l := if kind = 12 then [0, 0, aux.toNat] else Config.wireBody kind aux
  { dst := { grp := f 0 12, mem := f 12 5, func := f 17 6 }
    src := { grp := f 23 12, mem := f 35 5, func := f 40 6 }
    tc := f 46 2
    igrp := if f 52 1 = 1 then some (f 53 12) else none
    age := f 65 15
    seq := f 80 16
    addr := f 128 64
    msgid := f 192 32
    body := bodyOf kind (l.drop 2) (f 106 8) (f 114 10) (f 128 64) data
    spray := l.getD 0 0 == 1
    rcls := l.getD 1 0
    fresh := false
    hops := if vc < 5 then vc + 1 else vc - 4 }

/-- The whole packets at the head of a VC's bytes, and the bytes left; PAD fills the rest of its flit, the last that came. -/
def packetsOf (fuel vc : Nat) (bs : List Byte) : List Packet × List Byte :=
  match fuel with
  | 0 => ([], bs)
  | k + 1 =>
    if bs.length < 32 then ([], bs)
    else
      let h := natOfBytes (bs.take 32)
      let len := h / 2 ^ 96 % 1024
      let size := 32 + (len + 31) / 32 * 32
      if h / 2 ^ 48 % 16 = 15 then ([], [])
      else if bs.length < size then ([], bs)
      else
        let (ps, r) := packetsOf k vc (bs.drop size)
        (packetOf h vc ((bs.drop 32).take len) :: ps, r)

end Sys2Proof.Machine
end

