-- ==== Sys2Proof/Machine/Remote.lean ====
section
/-!
DEFINITION. Sys2Proof/Machine/Remote.lean: remote memory accesses (R456 to R459): requests that arrive here, their answers, and the
lanes that wait for them (R109, R126).
-/

namespace Sys2Proof.Machine

open Host

/-- The access of a wave with a number. -/
def State.accOf (s : State) (blk wave id : Nat) : Option Access := (s.wave blk wave).acc.find? (fun a => a.id == id)

/-! ### Memory by guest PA (R372, R400) -/

/-- The stage-2 leaf that a guest PA in a walked range uses. -/
def State.s2Leaf (s : State) (fn gpa : Nat) : Option Pte :=
  match s2Translate s fn gpa (rangeOf gpa).permOnly with
  | .ok p => some p
  | .error _ => none

/-- The host address of a guest PA for an engine, with the A and D bits of the leaf set (R400); none where it faults. -/
def State.s2Access (s : State) (fn gpa : Nat) (acc : Acc) : Option (Nat × State) :=
  match s2Host s fn gpa acc with
  | .error _ => none
  | .ok h =>
    let s1 := s.meetPtes fn (s2Trace s fn gpa (rangeOf gpa).permOnly)
    some (h, match s.s2Leaf fn gpa with | some p => s1.markPte fn p acc.writes | none => s1)

/-- Write bytes at a guest PA at their homes. -/
def State.s2Write (s : State) (fn gpa : Nat) (bs : List Byte) : Option State :=
  (s.s2Access fn gpa .write).map (fun (h, s1) => s1.writeOut fn none h bs false)

/-- Every 64 KiB page of n bytes from a guest PA translates for an access through stage 2. -/
def State.s2PagesOk (s : State) (fn gpa n : Nat) (acc : Acc) : Bool :=
  (pagePieces gpa n).all (fun (a, _) => match s2Host s fn a acc with | .ok _ => true | .error _ => false)

/-! ### The lanes of a remote instruction -/

/-- LDU, LR and SC act once (R112, R117). -/
def Raw.uniform (r : Raw) : Bool := r.opc == 0x72 || r.opc == 0x77 || r.opc == 0x78

/-- Every scale that an LDX or STX asked of peers has its outcome (R180): the instruction issues again with the scales that came, or faults
in the lanes whose scale did not. -/
def State.scaleEnd (s : State) (blk wave n : Nat) (p : Park) (raw : Raw) (fails : List RemoteFail) : State :=
  let w := s.wave blk wave
  let c := waitCtx blk wave w p
  match fails with
  | [] => s.setWave blk wave (w.wakeAt n true)
  | f :: fs =>
    -- the answers that came are asked for again
    let s1 := s.setWave blk wave { w.wakeAt n true with scales := w.scales.filter (fun x => !p.lanes.getLsbD x.1) }
    let low := fs.foldl (fun (m : RemoteFail) x => if x.lane < m.lane then x else m) f
    s1.raise c raw false { cause := low.cause, lanes := maskOf (fails.map (·.lane)), perFibre := true, fva := low.fva, syn := low.syn }

/-- Every lane of a remote instruction has its outcome (R126, R459): it completes, and raises POISON once no access of it is in flight, or
faults in the lanes that failed and issues again. -/
def State.remoteEnd (s : State) (blk wave n grp : Nat) (p : Park) (raw : Raw) (fails : List RemoteFail) : State :=
  let w := s.wave blk wave
  let c := waitCtx blk wave w p
  let per := !raw.uniform
  let lanes (fs : List RemoteFail) : BitVec 32 := if per then maskOf (fs.map (·.lane)) else 0
  let bad := fails.filter (fun f => f.cause == .poison)
  let site : Site := { pc := c.pc, nextPc := c.nextPc, raw := raw, lanes := maskOf (bad.map (·.lane)) }
  let note (w : Wave) : Wave := if bad.isEmpty then w else w.noteLate grp site
  match fails.filter (fun f => f.cause != .poison) with
  | [] =>
    let s1 := s.setWave blk wave ((note (w.clearDone p.lanes)).wake n)
    let s2 := if p.enc.mod.getLsbD 4 then s1.doAcq blk wave else s1
    s2.reportLate blk wave
  | f :: fs =>
    let low := fs.foldl (fun (m : RemoteFail) x => if x.lane < m.lane then x else m) f
    (s.setWave blk wave ((note w).wakeAt n true)).raise c raw false
      { cause := low.cause, lanes := lanes (f :: fs), perFibre := per, fva := low.fva, syn := low.syn }

/-- One lane of a remote instruction has its outcome: that of an access. -/
def State.remoteLane (s : State) (blk wave n : Nat) (a : Access) (bad : Option Cause) : State :=
  let w := s.wave blk wave
  match w.waits.get? n with
  | none => s
  | some p =>
    match p.why with
    | .remote left fails =>
      let left1 := left &&& ~~~(laneBit a.lane)
      let fails1 := match bad with | some k => fails ++ [{ lane := a.lane, cause := k, fva := a.ea }] | none => fails
      let scale := match a.dst with | .scale _ => true | _ => false
      let ok := match bad with | none | some .poison => true | _ => false
      let p1 := { p with why := .remote left1 fails1 }
      let w1 := { w with waits := w.waits.set n p1 }
      let s1 := s.setWave blk wave (if ok && !scale then w1.markDone (laneBit a.lane) a.grp else w1)
      if left1 != 0 then s1
      else if scale then s1.scaleEnd blk wave n p1 a.site.raw fails1
      else s1.remoteEnd blk wave n a.grp p1 a.site.raw fails1
    | _ => s

/-- The window base of a lane in the context that holds it. -/
def Wave.heldBase (w : Wave) (l : Nat) : Nat :=
  match w.heldFrame l with
  | none => (w.lane l).base
  | some i => (((w.frames[i]?).map (fun f => (f.lanes.get {} l).base)).getD 0)

/-- The status of a `.ST` form in a lane: q[SQ] and the code in the status destination (R109); `word` is off where DST already
holds the result. -/
def Wave.remoteStatus (w : Wave) (p : Park) (a : Access) (code : Nat) (word : Bool) : Wave :=
  let e := p.enc
  if !e.stForm then w
  else
    let x : PWord := ⟨BitVec.ofNat 32 code, false⟩
    let dst : AccDst := match a.dst with
      | .none => .v (w.heldBase a.lane + e.dst.toNat) 1 e.dlt.toNat e.nwb e.dst
      | .scale _ => .v (w.heldBase a.lane + e.dst.toNat) (if a.site.raw.opc == 0x64 then e.dtRegs else 1) e.dlt.toNat e.nwb e.dst
      | .cvt r _ dt _ dlt tag => .v r (if dt == 0 || dt == 3 then 4 else 2) dlt false tag
      | d => d
    let n := match dst.regs with | some (_, _, k) => k | none => 1
    let w1 := if word then w.deliver { a with dst := dst } true (x :: List.replicate (n - 1) ({} : PWord)) else w
    let ls := if a.site.raw.uniform then lanesOf p.acting else [a.lane]
    ls.foldl (fun w l => w.onHeld l (fun y => y.setQ (sqOf e) (decide (code ≤ 1)))) w1

/-- The words that a value of an access writes. -/
def Access.resultWords (a : Access) (bs : List Byte) (poison : Bool) : List PWord :=
  let x := natOfBytes bs
  let ws := match a.kind with
    | .load n sx => if n ≤ 4 then [BitVec.ofNat 32 (extendLoad n sx x)] else wordsOf n x
    | _ => wordsOf a.size x
  ws.map (fun v => ⟨v, poison⟩)

/-- Take an access off its wave. -/
def State.dropAccess (s : State) (blk wave id : Nat) : State :=
  let w := s.wave blk wave
  s.setWave blk wave { w with acc := w.acc.filter (fun a => a.id != id) }

/-- Send the requests that waited for an answer to their line (R459). -/
def State.sendWaiting (s : State) (fn : Nat) : State :=
  s.blocks.foldl (fun s (k, b) =>
    if b.fn != fn then s
    else b.waves.foldl (fun s (i, w) =>
      w.acc.foldl (fun s a =>
        if a.remote.isSome && a.held && !(s.egress.any (fun p => p.fresh && p.msgid == a.id && p.src == s.ownTriple fn)) then s.sendAccess k i a else s)
        s) s) s

/-- The request of a group's next page, once a page has been answered (R181): the bytes that came are kept. -/
def Access.nextPage (a : Access) (bs : List Byte) (poison : Bool) : Option Access :=
  match a.more with
  | [] => none
  | (v, off, k) :: rest =>
    some { a with remote := some (v, off), kind := k, more := rest, got := a.got ++ bs, gotBad := a.gotBad || poison, held := true }

/-- The conversion of an LDX or STX lane consumed poison: of its data or its scale (R198). -/
def Access.groupPoison (a : Access) (poison : Bool) : Bool :=
  match a.kind, a.dst with
  | .load .., .cvt _ _ _ sc _ _ => poison || sc.poison
  | .store _ p, _ => p && a.site.raw.opc == 0x65
  | _, _ => false

/-- A remote access has its outcome (R109, R459). -/
def State.accessOutcome (s : State) (blk wave : Nat) (a : Access) (code : Nat) (bs : List Byte) (poison : Bool) : State :=
  let s0 := s.dropAccess blk wave a.id
  let w := s0.wave blk wave
  let fn := (s.block blk).fn
  let ws := w.waits.filter (fun (_, p) => p.lanes.getLsbD a.lane && (match p.why with | .remote .. => true | _ => false))
  match ws with
  | [] => s0.sendWaiting fn
  | (n, p) :: _ =>
    let ok (w : Wave) (bad : Option Cause) : State := ((s0.setWave blk wave w).remoteLane blk wave n a bad).sendWaiting fn
    if 2 ≤ code ∧ code ≤ 5 then
      match a.dst with
      | .scale _ =>
        -- a status form does not fault: the lane is done with its code (R109)
        if p.enc.stForm then ok ((w.remoteStatus p a code true).markDone (laneBit a.lane) a.grp) none else ok w (some .remoteFail)
      | _ => if p.enc.stForm then ok (w.remoteStatus p a code true) none else ok w (some .remoteFail)
    else
      match a.nextPage bs poison with
      | some b => (s.onAccess blk wave a.id (fun _ => b)).sendAccess blk wave b
      | none =>
      match a.kind with
      | .waitw k cmp cp =>
        if code = 6 ∨ poison then
          if p.enc.stForm then ok (w.remoteStatus p a 6 true) none else ok w (some .poison)
        else if cp then ok w (some .poison)
        else if natOfBytes bs == cmp.toNat % 2 ^ (8 * k) then
          -- the word still holds the comparand: it is read again (R123), after its restore where the block is being saved
          if (s.block blk).saving then s0.sendWaiting fn else s.sendAccess blk wave a
        else ok ((w.deliver a true (a.resultWords bs false)).remoteStatus p a 0 false) none
      | .store .. => ok (w.remoteStatus p a code true) (if a.groupPoison false then some .poison else none)
      | .sc .. => ok ((w.deliver a true [⟨BitVec.ofNat 32 code, false⟩]).remoteStatus p a code false) none
      | .lr k =>
        let w1 := { w.deliver a true (a.resultWords bs poison) with rresv := a.remote.map (fun (v, off) => (v, off, k)) }
        ok (w1.remoteStatus p a 0 false) none
      | .atom .. =>
        if code = 6 then
          if p.enc.stForm then ok (w.remoteStatus p a 6 true) none
          else ok (w.deliver a true (a.resultWords bs true)) (some .poison)
        else
          let w1 := w.deliver a true (a.resultWords bs poison)
          -- a reduction has no result: DST is its status destination
          ok (w1.remoteStatus p a 0 (a.dst == .none)) none
      | .load n sx =>
        match a.dst with
        | .scale _ => ok (w.deliver a true (a.resultWords bs poison)) none
        | _ =>
          let bad := poison || a.gotBad
          let whole : Access := { a with kind := .load (a.got.length + n + a.tail.length) sx }
          ok ((w.deliver a true (whole.resultWords (a.got ++ bs ++ a.tail) bad)).remoteStatus p a 0 false)
            (if a.groupPoison bad then some .poison else none)

/-! ### Allowance (R487) -/

/-- The units of a channel. -/
def State.chanUnits (s : State) (func : Nat) (dst : Triple) (tc : Nat) : Nat :=
  match s.channels.find? (fun c => c.func == func && c.dst == dst && c.tc == tc) with
  | some c => c.units
  | none => 256

/-- Set the units of a channel. -/
def State.setUnits (s : State) (func : Nat) (dst : Triple) (tc n : Nat) : State :=
  { s with channels :=
      s.channels.filter (fun c => !(c.func == func && c.dst == dst && c.tc == tc)) ++ [{ func := func, dst := dst, tc := tc, units := n }] }

/-- Units come back to a channel. -/
def State.giveUnits (s : State) (func : Nat) (dst : Triple) (tc n : Nat) : State := s.setUnits func dst tc (s.chanUnits func dst tc + n)

/-- A packet has been moved out of the input buffer: its source gets a unit back (R487). -/
def State.allowFor (s : State) (p : Packet) : State := if s.isHere p.src then s else s.answerTo p (.allow 1)

/-! ### Requests that arrive (R458, R459) -/

/-- A memory request. -/
def Body.isAccess (b : Body) : Bool :=
  match b with
  | .read _ | .write .. | .atomic .. | .lr .. | .sc .. => true
  | _ => false

/-- A packet of the inbox by its place; with the packet before it on its channel none, where the class keeps order (R461). -/
def State.inboxAt (s : State) (i : Nat) : Option Packet :=
  match s.inbox[i]? with
  | none => none
  | some p =>
    if !p.spray && (s.inbox.take i).any (fun q => q.src == p.src && q.dst == p.dst && q.tc == p.tc && !q.spray) then none else some p

/-- Take a packet out of the inbox. -/
def State.dropInbox (s : State) (i : Nat) : State := { s with inbox := s.inbox.eraseIdx i }

/-- A function that is receiving or restoring holds what arrives for it (R433, R487). -/
def State.restoring (s : State) (fn : Nat) : Bool :=
  s.sessions.any (fun (_, x) => (x.state == .receiving || x.state == .restore) && x.mgctl.toNat / 2 ^ 16 % 64 == fn)

/-- A function that has moved away (R452). -/
def State.movedFn (s : State) (fn : Nat) : Option Moved := s.moved.find? (fun m => m.fn == fn)

/-- A function takes no transaction of a triple (R427, R458). -/
def State.refuses (s : State) (fn : Nat) (src : Triple) : Bool :=
  !s.enabled fn || (s.fn fn).resetting || !s.ready fn || !s.names fn src

/-- Perform a request at its home (R459): the code and the value. -/
def State.performRequest (s : State) (p : Packet) (h : Nat) : Nat × List Byte × Bool × State :=
  match p.body with
  | .read n => (0, s.bytesAt h n, s.poisonAt h n, s)
  | .write bs q => (0, [], false, s.writeOut p.dst.func none h bs q)
  | .atomic aop n op op2 p1 p2 =>
    let old := s.bytesAt h n
    let oldP := s.poisonAt h n
    let bad := aopConsumes aop && (oldP || p1)
    let s1 := match atomNew aop n (natOfBytes old) (op.toNat % 2 ^ (8 * n)) (op2.toNat % 2 ^ (8 * n)) with
      | none => s
      | some v => s.writeOut p.dst.func none h (bytesOfNat n v) (bad || (if aop == 8 then p1 else aop == 9 && p2))
    (if bad then 6 else 0, old, oldP || bad, s1)
  | .lr n who =>
    let rest := s.rresvs.filter (fun r => !(r.src == p.src && r.who == who))
    (0, s.bytesAt h n, s.poisonAt h n,
      { s with rresvs := rest ++ [{ src := p.src, who := who, line := h / 128 * 128, addr := h, size := n }] })
  | .sc bs q who holds =>
    let ok := holds && s.rresvs.any (fun r => r.src == p.src && r.who == who && r.addr == h && r.size == bs.length)
    let s1 := if ok then s.writeOut p.dst.func none h bs q else s
    (if ok then 0 else 1, [], false, { s1 with rresvs := s1.rresvs.filter (fun r => !(r.src == p.src && r.who == who)) })
  | _ => (5, [], false, s)

/-- The bytes of a request. -/
def Body.size (b : Body) : Nat :=
  match b with
  | .read n | .atomic _ n .. | .lr n _ => n
  | .write bs _ | .sc bs .. => bs.length
  | _ => 0

/-- The request reads its word (R37). -/
def Body.readsWord (b : Body) : Bool :=
  match b with
  | .read _ | .atomic .. | .lr .. => true
  | _ => false

/-- What a request needs of its page. -/
def Body.acc (b : Body) : Acc :=
  match b with
  | .write .. => .write
  | .atomic .. | .sc .. => .readWrite
  | _ => .read

/-- REMOTE_REQUEST_ARRIVAL (R458, R459): the argument is the place of the packet in the inbox. -/
def execRemoteRequestArrival (s : State) : Outcome State Fault Refusal :=
  match s.inboxAt (s.arg 0) with
  | none => .next s
  | some p =>
    let fn := p.dst.func
    if !p.body.isAccess || s.restoring fn || (s.movedFn fn).isSome then .next s
    else
      let s0 := (s.dropInbox (s.arg 0)).allowFor p
      if s0.refuses fn p.src then .next (s0.answerTo p (.response 5 [] false))
      else
        match s0.s2Access fn p.addr p.body.acc with
        | none => .next (s0.answerTo p (.response 5 [] false))
        | some (h, s1) =>
          let (code, bs, bad, s2) := (if p.body.readsWord then (s1.meet fn h p.body.size).causedBy s1 p.hdr else s1).performRequest p h
          .next (s2.answerTo p (.response code bs bad))

/-! ### Answers that arrive (R459) -/

/-- An entry that names a new triple. -/
def vdnRename (e : DWord) (t : Triple) : DWord :=
  (e &&& ~~~(0xFFFFFE : DWord)) ||| BitVec.ofNat 64 (t.grp % 4096 * 2 + t.mem % 32 * 2 ^ 13 + t.func % 64 * 2 ^ 18)

/-- Rewrite every entry of a function's table that names a triple, and drop the cached copies (R451, R459); the VDNs
rewritten. -/
def State.renameVdn (s : State) (fn : Nat) (old new : Triple) : List Nat × State :=
  let vs := (s.vdnEntries fn).filter (fun (_, e) => vdnTriple e == old)
  let s1 := vs.foldl (fun s (v, e) => s.writeHome fn none (s.vdnAddr fn v) (bytesOfNat 8 (vdnRename e new).toNat) false) s
  (vs.map (·.1), s1.setFn fn { s1.fn fn with vdnCache := [] })

/-- A MOVED answer (R452, R459): the entries are rewritten, and the request is sent once more. -/
def State.movedAnswer (s : State) (blk wave : Nat) (a : Access) (old new : Triple) : State :=
  let fn := (s.block blk).fn
  let (vs, s1) := s.renameVdn fn old new
  let s2 := vs.foldl (fun s v => s.event [fn] fn 0x42 0 0 (BitVec.ofNat 64 v)) s1
  if a.again || vs.isEmpty then s2.accessOutcome blk wave a 3 [] false
  else (s2.onAccess blk wave a.id (fun x => { x with again := true, held := true })).sendAccess blk wave { a with again := true }

/-- REMOTE_RESPONSE_ARRIVAL (R459): the argument is the place of the answer in the inbox. -/
def execRemoteResponseArrival (s : State) : Outcome State Fault Refusal :=
  match s.inboxAt (s.arg 0) with
  | none => .next s
  | some p =>
    let s0 := s.dropInbox (s.arg 0)
    match p.body, s.findAccess p.dst.func p.msgid with
    | .response code bs bad, some (b, w, a) =>
      -- an answer UNREACHABLE on the way returns the unit (R487); after a refresh it gives MOVED (R459)
      let s1 := if code = 2 && !s0.isHere p.src then s0.giveUnits p.dst.func p.src p.tc 1 else s0
      .next (s1.accessOutcome b w a (if code = 2 ∧ a.again then 3 else code) bs bad)
    | .moved new, some (b, w, a) => .next (s0.movedAnswer b w a p.src new)
    | .response code .., none =>
      let s1 := if code = 2 && !s0.isHere p.src then s0.giveUnits p.dst.func p.src p.tc 1 else s0
      .next (s1.msgCode p.dst.func p.msgid code)
    | _, _ => .next s

/-- The remote timeout of a function in cycles (R457). -/
def Fn.rtmo (f : Fn) : Nat := 800 * max 1 (f.fabctl.toNat % 65536)

/-- REMOTE_TIMEOUT (R459): arguments are the block, the wave and the access. -/
def execRemoteTimeout (s : State) : Outcome State Fault Refusal :=
  let blk := s.arg 0
  let wv := s.arg 1
  match s.accOf blk wv (s.arg 2) with
  | none => .next s
  | some a =>
    let fn := (s.block blk).fn
    match a.remote with
    | none => .next s
    | some (v, _) =>
      if a.held || decide (s.clock < a.sentAt + (s.fn fn).rtmo) then .next s
      else
        let e := s.vdnEntry fn v
        .next ((s.giveUnits fn (vdnTriple e) (vdnTc e) 1).accessOutcome blk wv a 4 [] false)

end Sys2Proof.Machine
end

