-- ==== Sys2Proof/Machine/Memory.lean ====
section
/-!
DEFINITION. Sys2Proof/Machine/Memory.lean: the instructions of the memory engine, opcodes 0x70 to 0x7D (R106 to R126), and the two
steps by which an access in flight happens (R128, R130).
-/

namespace Sys2Proof.Machine

open Host

/-- MOD[4] and MOD[5] (R110). -/
def acqBit (e : Enc) : Bool := e.mod.getLsbD 4
def relBit (e : Enc) : Bool := e.mod.getLsbD 5

/-- The acting lanes. -/
def actLanes (c : Ctx) (_ : Wave) : BitVec 32 := c.acting
/-- The leader alone. -/
def leaderLane (c : Ctx) (_ : Wave) : BitVec 32 := laneBit c.leader

/-- A v destination of n words in a lane, checked against the limit (R71). -/
def vDst (w : Wave) (l : Nat) (e : Enc) (n : Nat) : Except Cause AccDst :=
  if w.dstOk l e n then .ok (.v ((w.lane l).base + e.dst.toNat) n e.dlt.toNat e.nwb e.dst) else .error .accessFault

/-- An s destination of n words. -/
def sDst (e : Enc) (n : Nat) : AccDst := .s (e.dst.toNat - 192) n

/-- The words of a memory operand of a size: SRC1 or a group from it (R110). -/
def memData (w : Wave) (l : Nat) (e : Enc) (z : Nat) : Except Cause (List PWord) :=
  if z ≤ 2 then (w.src1 l e).map (fun x => [x]) else w.readGroup l e.src1.toNat (szWords z)

/-- The number in words, low word first, and whether one is poisoned. -/
def joinWords (xs : List PWord) : Nat × Bool :=
  (xs.foldr (fun x acc => x.val.toNat + 2 ^ 32 * acc) 0, xs.any (fun x => x.poison))

/-- A lane's store of a size (R112). -/
def storeKind (xs : List PWord) (z : Nat) : AccKind :=
  let (v, p) := joinWords xs
  .store (bytesOfNat (szBytes z) v) p

/-- The destination of a `.ST` store's status code must lie in the window (R71, R109). -/
def statusDstOk (w : Wave) (l : Nat) (e : Enc) (st : Bool) (r : Except Cause LaneOp) : Except Cause LaneOp :=
  if st && !(w.dstOk l e 1) then .error .accessFault else r

/-- LD (R112). -/
def execLd (e : Enc) (s : State) : Outcome State Fault Refusal :=
  let z := e.sz
  s.issue (.ld e) e false (memBody (.ld e) e { st := e.stForm, acq := acqBit e } (szBytes z) actLanes (fun _ w l => do
    let ea ← effAddr w l e true
    let d ← vDst w l e (szWords z)
    .ok { lane := l, ea := ea, kind := .load (szBytes z) (e.fn.getLsbD 3), dst := d }))

/-- ST (R112). -/
def execSt (e : Enc) (s : State) : Outcome State Fault Refusal :=
  let z := e.sz
  s.issue (.st e) e false (memBody (.st e) e { st := e.stForm, statusDst := true, rel := relBit e } (szBytes z) actLanes
    (fun _ w l => do
      let ea ← effAddr w l e false
      let xs ← memData w l e z
      statusDstOk w l e e.stForm (.ok { lane := l, ea := ea, kind := storeKind xs z, dst := .none })))

/-- LDU (R112): once, with the leader's operands. -/
def execLdu (e : Enc) (s : State) : Outcome State Fault Refusal :=
  let z := e.sz
  s.issue (.ldu e) e false (memBody (.ldu e) e { st := e.stForm, acq := acqBit e, perFibre := false } (szBytes z) leaderLane
    (fun _ w l => do
      let ea ← effAddr w l e true
      .ok { lane := l, ea := ea, kind := .load (szBytes z) false, dst := sDst e (szWords z) }))

/-- The address of a lane of LDB and STB: lane 0's address plus the lane's element (R112). -/
def blockAddr (w : Wave) (l : Nat) (e : Enc) (idx : Bool) (n : Nat) : Except Cause DWord :=
  (effAddr w 0 e idx).map (fun a => a + BitVec.ofNat 64 (l * n))

/-- LDB (R112). -/
def execLdb (e : Enc) (s : State) : Outcome State Fault Refusal :=
  let z := e.sz
  s.issue (.ldb e) e false (memBody (.ldb e) e { st := e.stForm, acq := acqBit e } (szBytes z) actLanes (fun _ w l => do
    let ea ← blockAddr w l e true (szBytes z)
    let d ← vDst w l e (szWords z)
    .ok { lane := l, ea := ea, kind := .load (szBytes z) false, dst := d }))

/-- STB (R112). -/
def execStb (e : Enc) (s : State) : Outcome State Fault Refusal :=
  let z := e.sz
  s.issue (.stb e) e false (memBody (.stb e) e { st := e.stForm, statusDst := true, rel := relBit e } (szBytes z) actLanes
    (fun _ w l => do
      let ea ← blockAddr w l e false (szBytes z)
      let xs ← memData w l e z
      statusDstOk w l e e.stForm (.ok { lane := l, ea := ea, kind := storeKind xs z, dst := .none })))

/-- A value of one or two words from a source field (R110). -/
def wideSrc (w : Wave) (l : Nat) (latch : Bool) (code : BitVec 8) (n : Nat) : Except Cause (DWord × Bool) :=
  if n = 8 then w.readPair l code else (w.readSrc l latch code).map (fun x => (x.val.setWidth 64, x.poison))

/-- The lane operation of ATOM and RED (R114). -/
def atomOp (w : Wave) (l : Nat) (e : Enc) (d : AccDst) : Except Cause LaneOp := do
  let n := if e.fn.getLsbD 4 then 8 else 4
  let ea ← effAddr w l e false
  let a ← wideSrc w l e.sl1 e.src1 n
  let b ← if e.aop = 9 then wideSrc w l e.sl2 e.src2 n else .ok (0, false)
  .ok { lane := l, ea := ea, kind := .atom e.aop n a.1 b.1 a.2 b.2, dst := d }

/-- ATOM (R114). -/
def execAtom (e : Enc) (s : State) : Outcome State Fault Refusal :=
  let n := if e.fn.getLsbD 4 then 8 else 4
  s.issue (.atom e) e false (memBody (.atom e) e { st := e.fn.getLsbD 5, acq := acqBit e, rel := relBit e } n actLanes
    (fun _ w l => do
      let d ← vDst w l e (n / 4)
      atomOp w l e d))

/-- RED (R116). -/
def execRed (e : Enc) (s : State) : Outcome State Fault Refusal :=
  let n := if e.fn.getLsbD 4 then 8 else 4
  s.issue (.red e) e false (memBody (.red e) e { st := e.fn.getLsbD 5, statusDst := true, rel := relBit e } n actLanes
    (fun _ w l => statusDstOk w l e (e.fn.getLsbD 5) (atomOp w l e .none)))

/-- LR (R117). -/
def execLr (e : Enc) (s : State) : Outcome State Fault Refusal :=
  let z := e.sz
  s.issue (.lr e) e false (memBody (.lr e) e { st := e.stForm, acq := acqBit e, perFibre := false } (szBytes z) leaderLane
    (fun _ w l => do
      let ea ← effAddr w l e false
      .ok { lane := l, ea := ea, kind := .lr (szBytes z), dst := sDst e (szWords z) }))

/-- SC (R119). -/
def execSc (e : Enc) (s : State) : Outcome State Fault Refusal :=
  let z := e.sz
  s.issue (.sc e) e false (memBody (.sc e) e { st := e.stForm, rel := relBit e, perFibre := false } (szBytes z) leaderLane
    (fun _ w l => do
      let ea ← effAddr w l e false
      let xs ← memData w l e z
      let (v, p) := joinWords xs
      .ok { lane := l, ea := ea, kind := .sc (bytesOfNat (szBytes z) v) p, dst := sDst e 1 }))

/-- An ordering instruction, which has no effect inside a unit (R334).  POISON of an instruction that it makes complete comes after it
(R115). -/
def orderBody (rel acq : Bool) (s : State) (c : Ctx) : Res :=
  if (s.ctxWave c).spec.sid.isSome then Res.next s
  else
    let s1 := if rel then s.doRel c.blk c.wave else s
    (Res.next (if acq then s1.doAcq c.blk c.wave else s1)).reporting s c

/-- ACQ (R120). -/
def execAcq (e : Enc) (s : State) : Outcome State Fault Refusal := s.issue (.acq e) e false (orderBody false true)
/-- REL (R121). -/
def execRel (e : Enc) (s : State) : Outcome State Fault Refusal := s.issue (.rel e) e false (orderBody true false)
/-- FENCE (R122). -/
def execFence (e : Enc) (s : State) : Outcome State Fault Refusal := s.issue (.fence e) e false (orderBody true true)

/-- WAITW (R123). -/
def execWaitw (e : Enc) (s : State) : Outcome State Fault Refusal :=
  let z := e.sz
  s.issue (.waitw e) e false (memBody (.waitw e) e { st := e.stForm, acq := acqBit e } (szBytes z) actLanes (fun _ w l => do
    let ea ← effAddr w l e false
    let cmp ← wideSrc w l e.sl1 e.src1 (szBytes z)
    let d ← vDst w l e (szWords z)
    .ok { lane := l, ea := ea, kind := .waitw (szBytes z) cmp.1 cmp.2, dst := d }))

/-- PREF (R124): a fill of the L1 where the line may be held there.  It never faults: a lane whose operands cannot be read, whose address
does not translate or whose target has no copies in an L1 does nothing (log 34). -/
def execPref (e : Enc) (s : State) : Outcome State Fault Refusal :=
  s.issue (.pref e) e false (fun s c =>
    let w := s.ctxWave c
    let vas := (lanesOf c.acting).filterMap (fun l => match effAddr w l e true with | .ok a => some (l, a, Acc.read) | .error _ => none)
    let (s1, xs) := translateLanes s (s.xreq c.blk) vas
    Res.next (xs.foldl (fun s x =>
      match x with
      | .error _ => s
      | .ok x =>
        let core := s.coreOf c.blk
        if x.sc || e.fn == 1 then s
        else
          match x.place with
          | .hbm a => s.fillLine core a
          | .slice p off => if p == core then s else s.fillLine core (sliceAddr p off)
          | _ => s) s1))

/-! ### Steps of the memory engine -/

/-- HOME_WRITE_PERFORMED (R128, R131): the store or atomic of a wave, named by block, wave and number, is performed. -/
def execHomeWritePerformed (s : State) : Outcome State Fault Refusal :=
  let b := s.arg 0
  let w := s.arg 1
  match s.accOf b w (s.arg 2) with
  | none => .next s
  | some a => .next (if a.isWrite && a.remote.isNone then (s.performWith b w a).reportLate b w else s)

/-- The wait of a wave that a lane is in. -/
def Wave.parkOf (w : Wave) (l : Nat) : Option (Nat × Park) :=
  (w.waits.filter (fun (_, p) => p.lanes.getLsbD l)).head?

/-- A WAITW whose lanes have all seen a differing value completes (R123): ACQ if asked, then POISON if some lane consumed it. -/
def State.waitwDone (s : State) (blk wave n grp : Nat) (p : Park) (bad : BitVec 32) : State :=
  let w := s.wave blk wave
  let c := waitCtx blk wave w p
  let w1 := w.clearDone p.lanes
  let w2 := if bad == 0 then w1
    else w1.noteLate grp { pc := c.pc, nextPc := c.nextPc, raw := rawOf (.waitw p.enc), lanes := bad }
  let s1 := s.setWave blk wave (w2.wake n)
  (if acqBit p.enc then s1.doAcq blk wave else s1).reportLate blk wave

/-- The watched word of a WAITW lane is read again (R123).  A lane that is over, poisoned or not, is one of a local word: its status is
set (R109). -/
def State.waitwRead (s : State) (blk wave : Nat) (a : Access) : State :=
  let s0 := if a.readsHome s then s.meet (s.block blk).fn a.addr a.size else s
  let r := performOne s0 (s0.block blk).fn (s0.wave blk wave) a
  if !r.ends then s0
  else
    let w := { r.w with acc := r.w.acc.filter (fun x => x.id != a.id) }
    match w.parkOf a.lane with
    | none => r.s.setWave blk wave w
    | some (n, pk) =>
      let w1 := if pk.enc.stForm then w.onWaiter n a.lane (fun x => x.setQ (sqOf pk.enc) true) else w
      match pk.why with
      | .waitw left bad =>
        let left1 := left &&& ~~~(laneBit a.lane)
        let bad1 := if r.poison then bad ||| laneBit a.lane else bad
        let pk1 := { pk with why := .waitw left1 bad1 }
        let s2 := r.s.setWave blk wave ({ w1 with waits := w1.waits.set n pk1 }.markDone (laneBit a.lane) a.grp)
        if left1 == 0 then s2.waitwDone blk wave n a.grp pk1 bad1 else s2
      -- other lanes of the instruction watch remote words
      | .remote .. => (r.s.setWave blk wave w1).remoteLane blk wave n a (if r.poison then some .poison else none)
      | _ => r.s.setWave blk wave w

/-- LOAD_VALUE_RETURN (R130, R123): the load of a wave, or the read of a WAITW, named by block, wave and number, takes its
value. -/
def execLoadValueReturn (s : State) : Outcome State Fault Refusal :=
  let b := s.arg 0
  let w := s.arg 1
  match s.accOf b w (s.arg 2) with
  | none => .next s
  | some a =>
    match a.remote, a.kind with
    | some _, _ => .next s
    | none, .load .. => .next ((s.performWith b w a).reportLate b w)
    | none, .waitw .. => .next (s.waitwRead b w a)
    | none, _ => .next s

end Sys2Proof.Machine
end

