-- ==== Sys2Proof/Machine/Convert.lean ====
section
/-!
DEFINITION. Sys2Proof/Machine/Convert.lean: the instructions of the conversion unit, opcodes 0x60 to 0x66 (R174 to R200).
-/

namespace Sys2Proof.Machine

open Host

/-! ### One element (R182 to R187) -/

/-- A source element: its value, the sign of a NaN, and whether it is an integer. -/
structure Elem where
  val : FVal
  nanNeg : Bool := false
  int : Bool := false
  deriving DecidableEq, Repr

/-- A float pattern as an element. -/
def floatElem (f : Fmt) (x : Nat) : Elem := { val := f.unpack x, nanNeg := x / f.signBit % 2 == 1 }

/-- An I32 as an element. -/
def intElem (x : Word) : Elem := { val := .fin (decide (x.toInt < 0)) x.toInt.natAbs 0, int := true }

/-- Convert one element under a code of RND (R182): the code, the flags and the generator's state afterwards. -/
def convertElem (w : Wave) (rnd : Nat) (gen : Word) (x : Elem) (f sc : Nat) (scaled nsat : Bool) : Nat × Flags × Word :=
  let g := if rnd = 5 then srStep gen else gen
  let r : Rnd := if rnd = 5 then .sr (srDraw g) else if rnd = 0 then .mode (Rm.ofCode w.fpctl.toNat) else .mode (Rm.ofCode (rnd - 1))
  let (c, fl) := encodeAny x.val x.nanNeg x.int f sc scaled nsat r
  (c, fl, g)

/-- Convert elements in ascending order (R186): the codes, the flags raised and the generator's state. -/
def convertElems (w : Wave) (rnd : Nat) (gen : Word) (xs : List Elem) (f sc : Nat) (scaled nsat : Bool) :
    List Nat × Word × Word :=
  xs.foldl (fun (acc : List Nat × Word × Word) x =>
    let (c, fl, g) := convertElem w rnd acc.2.2 x f sc scaled nsat
    (acc.1 ++ [c], acc.2.1 ||| fl.bits, g)) ([], 0, gen)

/-- Codes of b bits packed in ascending order (R177). -/
def packCodes (b : Nat) (cs : List Nat) : Nat := (cs.zipIdx.map (fun (c, i) => c % 2 ^ b * 2 ^ (b * i))).sum

/-- A number as n words. -/
def wordList (n x : Nat) : List Word := (List.range n).map (fun i => BitVec.ofNat 32 (x / 2 ^ (32 * i)))

/-- The generator's state a lane's result carries: none where RND is not stochastic. -/
def genAfter (rnd : Nat) (g : Word) : Option Word := if rnd = 5 then some g else none

/-! ### Register conversions (R190 to R193, R196) -/

/-- CVT (R190). -/
def execCvt (e : Enc) (s : State) : Outcome State Fault Refusal :=
  s.issue (.cvt e) e false (lanesBody e (fun _ w l => do
    let x ← (← w.src0 l e).use
    let sc ← match e.len with
      | .l64 => .ok 127
      | _ => if e.ext.getLsbD 8 then .ok (e.ext.toNat % 256) else (do let y ← (← w.src1 l e).use; .ok (y.toNat % 256))
    let el := match e.mod.toNat % 4 with
      | 3 => intElem x
      | t => floatElem (fmtOf t) ((fmtOf t).low x)
    let rnd := e.mod.toNat / 4 % 8
    let (c, fl, g) := convertElem w rnd ((w.lane l).gen l) el e.fn.toNat sc (e.len != .l64) (e.mod.getLsbD 5)
    w.withDst l e 1 (.ok { words := [⟨BitVec.ofNat 32 c, false⟩], flags := fl.bits, sr := genAfter rnd g })))

/-- A group of source registers, each consumed. -/
def useGroup (w : Wave) (l : Nat) (e : Enc) (n : Nat) : Except Cause Nat := do
  let xs ← if n = 1 then (w.src0 l e).map (fun x => [x]) else w.readGroup l e.src0.toNat n
  let ys ← xs.mapM PWord.use
  .ok (ys.foldr (fun y acc => y.toNat + 2 ^ 32 * acc) 0)

/-- PCVT (R191). -/
def execPcvt (e : Enc) (s : State) : Outcome State Fault Refusal :=
  let n := e.pcvtCount
  let f := e.ext.toNat % 16
  let b := elemBits f
  let wide := if e.ext.getLsbD 5 then BF16 else F32
  let rnd := e.mod.toNat % 8
  s.issue (.pcvt e) e false (lanesBody e (fun _ w l => do
    let dec := e.ext.getLsbD 4
    let x ← useGroup w l e (if dec then e.pcvtPacked else e.pcvtWide)
    let sc := (← (← w.src1 l e).use).toNat % 256
    let gen := (w.lane l).gen l
    if dec then
      -- decoding rounds too; under RND 5 each element takes a step (R186)
      let step (acc : List Nat × Word × Word) (i : Nat) : List Nat × Word × Word :=
        let g := if rnd = 5 then srStep acc.2.2 else acc.2.2
        let (y, fl) :=
          if rnd = 5 then decodeSr f (x / 2 ^ (b * i) % 2 ^ b) sc wide (srDraw g)
          else decodeFloat f (x / 2 ^ (b * i) % 2 ^ b) sc wide (if rnd = 0 then Rm.ofCode w.fpctl.toNat else Rm.ofCode (rnd - 1))
        (acc.1 ++ [y], acc.2.1 ||| fl.bits, g)
      let (ys, fl, g) := (List.range n).foldl step ([], 0, gen)
      w.withDst l e e.pcvtWide (.ok { words := clean (wordList e.pcvtWide (packCodes wide.width ys)), flags := fl, sr := genAfter rnd g })
    else
      let xs := (List.range n).map (fun i => floatElem wide (x / 2 ^ (wide.width * i) % 2 ^ wide.width))
      let (cs, fl, g) := convertElems w rnd gen xs f sc true (e.mod.getLsbD 3)
      w.withDst l e e.pcvtPacked (.ok { words := clean (wordList e.pcvtPacked (packCodes b cs)), flags := fl, sr := genAfter rnd g })))

/-- emax of a narrow format (R192). -/
def narrowEmax (f : Nat) : Int :=
  match f with
  | 10 => 8
  | 11 => 15
  | 12 => 4
  | _ => 2

/-- The scale of a block of F32 patterns (R192). -/
def blockScale (f : Nat) (xs : List Word) : Nat :=
  let mags := xs.map (fun x => x.toNat % 2 ^ 31)
  let m := mags.foldl max 0
  if mags.any (fun x => decide (F32.inf < x)) then 0xFF
  else if m = 0 then 0x7F
  else
    match F32.unpack m with
    | .fin _ k e => (clampInt 0 254 (e + bitLen k - 1 - narrowEmax f + 127)).toNat
    | _ => 254

/-- SCALEQ (R192): the participants are the acting fibres. -/
def execScaleq (e : Enc) (s : State) : Outcome State Fault Refusal :=
  let vals (w : Wave) (l : Nat) : Except Cause (List Word) := do
    let a ← (← w.src0 l e).use
    if e.fn = 2 then
      let b ← (← w.readV l (e.src0.toNat + 1)).use
      .ok [a, b]
    else .ok [a]
  s.issue (.scaleq e) e false (lanesBody e (fun c w l => do
    let _ ← vals w l
    let block := (lanesOf c.acting).filter (fun k => e.fn != 0 || k / 16 == l / 16)
    let xs := block.flatMap (fun k => match vals w k with | .ok v => v | .error _ => [])
    w.withDst l e 1 (.ok { words := [⟨BitVec.ofNat 32 (blockScale e.mod.toNat xs), false⟩] })))

/-- TQUANT (R193). -/
def execTquant (e : Enc) (s : State) : Outcome State Fault Refusal :=
  s.issue (.tquant e) e false (lanesBody e (fun _ w l => do
    let xs ← (← w.readGroup l e.src0.toNat 4).mapM PWord.use
    let t := F32.unpack ((← (← w.src1 l e).use).toNat % 2 ^ 31)
    let base ← (← w.src2 l e).use
    let bad (x : Word) : Bool := (F32.unpack x.toNat).isNan || t.isNan
    let code (x : Word) : Nat :=
      if bad x then 0
      else if t.lt (F32.unpack x.toNat) then 1
      else if (F32.unpack x.toNat).lt (t.flip true) then 3
      else 0
    let by8 := 8 * (e.ext.toNat % 4)
    let mask : Word := 0xFF#32 <<< by8
    let new : Word := BitVec.ofNat 32 (packCodes 2 (xs.map code)) <<< by8
    w.withDst l e 1 (.ok { words := [⟨(base &&& ~~~mask) ||| new, false⟩], flags := if xs.any bad then 1 else 0 })))

/-- SRSEED (R196). -/
def execSrseed (e : Enc) (s : State) : Outcome State Fault Refusal :=
  s.issue (.srseed e) e false (lanesBody e (fun _ w l => do
    let x ← (← w.src0 l e).use
    .ok { sr := some (srSeed x l) }))

/-! ### LDX and STX (R194, R195) -/

/-- The bytes of a block (R178). -/
def blockBytes (f blk : Nat) : Nat := elemBits f * 2 ^ (3 + blk) / 8

/-- A piece of a group: its place, its address and its bytes. -/
structure GroupPart where
  x : Xlat
  n : Nat

/-- A lane of LDX or STX after translation: the pieces of its group, or its target's fault, and its scale with its translation (R180). -/
structure GroupLane where
  lane : Nat
  ea : DWord
  parts : Except (Cause × Option Syndrome) (List GroupPart)
  /-- the second byte address that was translated, where that fault is the second page's -/
  faultVa : DWord
  /-- a 6-bit group whose pages differ (R181) -/
  torn : Bool := false
  /-- the VA of its scale and the translation; none where the scale is 127 -/
  scale : Option (DWord × LaneXlat) := none

/-- The element format of an access of a page (R194): FN[3:0], or the page's. -/
def formatOf (e : Enc) (x : Xlat) : Nat := if e.fn.toNat % 16 ≠ 0 then e.fn.toNat % 16 else x.fmt

/-- A translation of one lane within an instruction (R402). -/
def laneXlat (s : State) (m : PageMemo) (q : XReq) (va : Nat) (acc : Acc) : LaneXlat × State × PageMemo :=
  match translateMemo s m q va acc with
  | ((.ok x, s1), m1) => (.ok x, s1, m1)
  | ((.error (k, syn), s1), m1) => (.error (k, if va < 2 ^ 55 then some syn else none), s1, m1)

/-- Translate the group of a lane (R181, R194): a 6-bit group that crosses a page boundary on both pages. -/
def groupXlat (s : State) (memo : PageMemo) (q : XReq) (e : Enc) (lane : Nat) (ea : DWord) (acc : Acc) : GroupLane × State × PageMemo :=
  match laneXlat s memo q ea.toNat acc with
  | (.error k, s1, m1) => ({ lane := lane, ea := ea, parts := .error k, faultVa := ea }, s1, m1)
  | (.ok x, s1, m1) =>
    let n := groupBytes (formatOf e x)
    let n1 := 65536 - ea.toNat % 65536
    if n ≠ 3 || decide (n ≤ n1) then ({ lane := lane, ea := ea, parts := .ok [⟨x, n⟩], faultVa := ea }, s1, m1)
    else
      let va := ea.toNat + n1
      match laneXlat s1 m1 q va acc with
      | (.error k, s2, m2) => ({ lane := lane, ea := ea, parts := .error k, faultVa := BitVec.ofNat 64 va }, s2, m2)
      | (.ok y, s2, m2) =>
        ({ lane := lane, ea := ea, parts := .ok [⟨x, n1⟩, ⟨y, n - n1⟩], faultVa := ea
           torn := y.fmt != x.fmt || y.blk != x.blk || y.sgrp != x.sgrp }, s2, m2)

/-- Targets a group may not lie in (R108, R194): the attributes are those of its first byte (R181). -/
def Xlat.groupTarget (x : Xlat) : Bool := !x.stk && (match x.place with | .notify .. => false | _ => true)

/-- The pieces of a group lie where a group may lie, with every byte of them (R26, R108, R194). -/
def groupTargets (s : State) (blk : Nat) (gs : List GroupPart) : Bool :=
  (match gs with | p :: _ => p.x.groupTarget | [] => true) &&
  gs.all (fun g => g.x.place.covers s blk g.n && (match g.x.place with | .notify .. => false | _ => true))

/-- A translated lane's fault of the whole instruction (R194, R195). -/
def GroupLane.wrong (g : GroupLane) (e : Enc) : Option Cause :=
  match g.parts with
  | .ok (p :: _) =>
    let f := formatOf e p.x
    let ty := e.fn.toNat % 16
    if !p.x.groupTarget then none
    else if (ty != 0 && p.x.fmt != 0 && p.x.fmt != ty) || f == 0 || g.torn ||
        (e.dt == 3) != (decide (f ≤ 6) || f == 15) then some .fmtMismatch
    else if g.ea.toNat % groupBytes f ≠ 0 then some .align
    else none
  | _ => none

/-- The scale address of a data address (R180); none where the page gives no scale. -/
def scaleAddr (s : State) (fn : Nat) (x : Xlat) (f : Nat) (ea : DWord) : Option DWord :=
  if x.blk ≠ 0 && x.fmt == f && isNarrow f then
    some ((s.fn fn).scbase.get 0 x.sgrp + BitVec.ofNat 64 (ea.toNat / blockBytes f x.blk))
  else none

/-- Translate the scale of a lane that has no target fault (R180). -/
def GroupLane.withScale (g : GroupLane) (s : State) (memo : PageMemo) (q : XReq) (e : Enc) : GroupLane × State × PageMemo :=
  match g.parts with
  | .ok (p :: _) =>
    match if p.x.groupTarget then scaleAddr s q.fn p.x (formatOf e p.x) g.ea else none with
    | none => (g, s, memo)
    | some va =>
      let (x, s1, m1) := laneXlat s memo q va.toNat .read
      ({ g with scale := some (va, x) }, s1, m1)
  | _ => (g, s, memo)

/-- What a lane's read of bytes comes to. -/
inductive GroupRead where
  | ok (s : State) (bs : List Byte) (poison : Bool)
  | stop (s : State)
  | fault (s : State) (c : Cause) (syn : Option Syndrome)

/-- Bytes as loads of the fibre read them now (R130): what must happen before each load has happened. -/
def State.readNow (s : State) (m : MemCtx) (lane addr n : Nat) (cached : Bool) : State × List Byte × Bool :=
  let cuts := (List.range ((addr + n + 3) / 4 - addr / 4)).map (fun i =>
    let lo := max addr ((addr / 4 + i) * 4)
    (lo, min (addr + n) ((addr / 4 + i + 1) * 4) - lo))
  cuts.foldl (fun (acc : State × List Byte × Bool) (a, k) =>
    let x := m.access acc.1 lane a (.load k false) .none cached
    let s1 := acc.1.performBefore m.c.blk m.c.wave x
    let s2 := if x.readsHome s1 then s1.meet (s1.ctxFn m.c) a k else s1
    let (v, t) := s2.loadValue x k
    (t, acc.2.1 ++ bytesOfNat k v.val.toNat, acc.2.2 || v.poison)) (s, [], false)

/-- How the issue stops where a tracked access does not go through (R324, R328, R332). -/
def Tracked.stop {α : Type} (t : Tracked α) (s0 : State) (sid : Nat) (m : MemCtx) : State :=
  match t with
  | .ok s _ => s
  | .abort s r => if s0.isFrontier (s0.unit sid) then s0.stallIssue m.c m.e .promote else s.abort [sid] r
  | .stall _ on => if s0.isFrontier (s0.unit sid) then s0.clearWay on else s0.stallEdge m.c m.e sid on

/-- Read the bytes of a piece that is not a peer's. -/
def State.readPart (s : State) (sid : Option Nat) (s0 : State) (m : MemCtx) (lane : Nat) (g : GroupPart) : GroupRead :=
  match g.x.place.host s (some m.c.blk) with
  | none => .fault s .accessFault none
  | some addr =>
    let tracked := match g.x.place with | .localScr _ => false | _ => true
    match (if tracked then sid else none) with
    | some k =>
      match s.specRead k (s.specHome m.c g.x addr) addr g.n with
      | .ok s1 (bs, p) => .ok s1 bs p
      | t => .stop (t.stop s0 k m)
    | none =>
      let (s1, bs, p) := s.readNow m lane addr g.n (!g.x.direct (s.coreOf m.c.blk))
      .ok s1 bs p

/-- Store the bytes of a piece that is not a peer's. -/
def State.storePart (s : State) (sid : Option Nat) (s0 : State) (m : MemCtx) (lane : Nat) (g : GroupPart) (bs : List Byte) (poison : Bool) :
    GroupRead :=
  match g.x.place.host s (some m.c.blk) with
  | none => .fault s .accessFault none
  | some addr =>
    let tracked := match g.x.place with | .localScr _ => false | _ => true
    match (if tracked then sid else none) with
    | some k =>
      match s.specWrite k (s.coreOf m.c.blk) (s.specHome m.c g.x addr) addr bs poison with
      | .ok s1 _ => .ok s1 [] false
      | t => .stop (t.stop s0 k m)
    | none => .ok (s.laneAt m { lane := lane, ea := 0, kind := .store bs poison, dst := .none } g.x).1 [] false

/-- A peer's place. -/
def GroupPart.peer (g : GroupPart) : Option (Nat × Nat) := match g.x.place with | .fabric v off => some (v, off) | _ => none

/-- What a group comes to, piece by piece: the requests for peers, with the bytes read here before the first and after it. -/
structure GroupWork where
  r : GroupRead
  asks : List (Nat × Nat × AccKind) := []
  before : List Byte := []

/-- Read the pieces of a group in this module, and collect the requests for those of peers. -/
def State.readParts (s : State) (sid : Option Nat) (s0 : State) (m : MemCtx) (lane : Nat) (gs : List GroupPart) : GroupWork :=
  gs.foldl (fun (acc : GroupWork) g =>
    match acc.r, g.peer with
    | .ok s bs p, some (v, off) =>
      { acc with
        r := .ok s (if acc.asks.isEmpty then [] else bs) p
        asks := acc.asks ++ [(v, off, .load g.n false)]
        before := if acc.asks.isEmpty then bs else acc.before }
    | .ok s bs p, none =>
      match s.readPart sid s0 m lane g with
      | .ok s1 cs p1 => { acc with r := .ok s1 (bs ++ cs) (p || p1) }
      | r => { acc with r := r }
    | _, _ => acc) { r := .ok s [] false }

/-- Store the pieces of a group in this module, and collect the requests for those of peers. -/
def State.storeParts (s : State) (sid : Option Nat) (s0 : State) (m : MemCtx) (lane : Nat) (gs : List GroupPart) (bs : List Byte)
    (poison : Bool) : GroupWork :=
  (gs.foldl (fun (acc : GroupWork × List Byte) g =>
    let cur := acc.2.take g.n
    match acc.1.r, g.peer with
    | .ok _ _ _, some (v, off) => ({ acc.1 with asks := acc.1.asks ++ [(v, off, .store cur poison)] }, acc.2.drop g.n)
    | .ok s _ _, none => ({ acc.1 with r := s.storePart sid s0 m lane g cur poison }, acc.2.drop g.n)
    | _, _ => acc) (({ r := .ok s [] false } : GroupWork), bs)).1

/-- Ask the peers of a group for its pieces, one after another (R181, R459). -/
def State.askGroup (s : State) (m : MemCtx) (g : GroupLane) (d : AccDst) (asks : List (Nat × Nat × AccKind)) (got tail : List Byte)
    (gotBad : Bool) : State :=
  match asks with
  | [] => s
  | (v, off, k) :: rest =>
    s.askPeer m { m.access s g.lane 0 k d false with ea := g.ea, more := rest, got := got, tail := tail, gotBad := gotBad } v off

/-- The elements of an STX group in its data registers (R194). -/
def groupElems (dt x : Nat) : List Elem :=
  (List.range 4).map (fun i =>
    match dt with
    | 0 => floatElem F32 (x / 2 ^ (32 * i) % 2 ^ 32)
    | 1 => floatElem BF16 (x / 2 ^ (16 * i) % 2 ^ 16)
    | 2 => floatElem F16 (x / 2 ^ (16 * i) % 2 ^ 16)
    | _ => intElem (BitVec.ofNat 32 (x / 2 ^ (32 * i))))

/-- The scale of a lane (R180): 127 where there is none, a peer's answer, or the byte as a load of the fibre reads it now. -/
def State.groupScale (s : State) (sid : Option Nat) (s0 : State) (m : MemCtx) (g : GroupLane) : GroupRead :=
  match g.scale with
  | none => .ok s [127] false
  | some (_, .error (k, syn)) => .fault s k syn
  | some (_, .ok x) =>
    match sid, forbiddenInUnit (.load 1 false) x with
    | some k, true => .stop (s0.untilPromoted k m.c m.e)
    | _, _ =>
      match (GroupPart.mk x 1).peer with
      | some _ =>
        let w := s.ctxWave m.c
        let y := (w.scales.get (0, ({} : PWord)) g.lane).2
        .ok (s.setCtxWave m.c { w with scales := w.scales.erase g.lane }) [y.val.setWidth 8] y.poison
      | none => s.readPart sid s0 m g.lane ⟨x, 1⟩

/-- What a lane of LDX or STX does once its group and its scale have been translated; `data` is STX's group.  A lane of STX advances its
generator and sets its flags as it converts: also where its data or scale is poisoned, and again where a peer's failure makes it issue
again (log 150). -/
def State.groupLane (m : MemCtx) (sid : Option Nat) (s0 : State) (dst : Nat → Nat → PWord → AccDst) (data : Option (Nat → List PWord))
    (acc : LaneAcc × List (Nat × DWord)) (g : GroupLane) : LaneAcc × List (Nat × DWord) :=
  let (a, fv) := acc
  let e := m.e
  let put (s : State) (r : LaneEnd) (va : DWord) : LaneAcc × List (Nat × DWord) :=
    ({ a with s := s, ends := a.ends ++ [(g.lane, r)] }, fv ++ [(g.lane, va)])
  let halt (s : State) : LaneAcc × List (Nat × DWord) := ({ a with stop := some s }, fv)
  if a.stop.isSome then acc
  else
    match g.parts with
    | .error (k, syn) => put a.s (.fault k syn) g.faultVa
    | .ok [] => acc
    | .ok (p :: ps) =>
      let gs := p :: ps
      if !groupTargets a.s m.c.blk gs then put a.s (.fault .accessFault none) g.ea
      else
        match sid, gs.any (fun q => forbiddenInUnit (.load 1 false) q.x) with
        | some k, true => halt (s0.untilPromoted k m.c m.e)
        | _, _ =>
          let f := formatOf e p.x
          let n := groupBytes f
          match a.s.groupScale sid s0 m g with
          | .stop s => halt s
          | .fault s k syn => put s (.fault k syn) ((g.scale.map (·.1)).getD 0)
          | .ok s1 sb sp =>
            let sc : PWord := ⟨BitVec.ofNat 32 (natOfBytes sb), sp⟩
            match data with
            | none =>
              let d := dst g.lane f sc
              let r := s1.readParts sid s0 m g.lane gs
              match r.r with
              | .stop s => halt s
              | .fault s k syn => put s (.fault k syn) g.ea
              | .ok s2 bs bp =>
                if r.asks.isEmpty then
                  let x := m.access s2 g.lane 0 (.load n false) d false
                  let ws := (wordsOf n (natOfBytes bs)).map (fun y => (⟨y, bp⟩ : PWord))
                  put (s2.setCtxWave m.c ((s2.ctxWave m.c).deliver x true ws)) (if bp || sp then .poisoned else .done) g.ea
                else put (s2.askGroup m g d r.asks r.before bs bp) .remote g.ea
            | some words =>
              let w := s1.ctxWave m.c
              let (x, dp) := joinWords (words g.lane)
              let rnd := e.mod.toNat % 8
              let (cs, fl, gen) := convertElems w rnd ((w.lane g.lane).gen g.lane) (groupElems e.dt x) f (sc.val.toNat % 256) g.scale.isSome
                (e.mod.getLsbD 3)
              let bs := bytesOfNat n (packCodes (elemBits f) cs)
              let poison := dp || sp
              let r := (s1.setCtxWave m.c (w.writeLane g.lane e { flags := fl, sr := genAfter rnd gen })).storeParts sid s0 m g.lane gs bs poison
              match r.r with
              | .stop s => halt s
              | .fault s k syn => put s (.fault k syn) g.ea
              | .ok s3 _ _ =>
                if r.asks.isEmpty then put s3 (if poison then .poisoned else .done) g.ea
                else put (s3.askGroup m g .none r.asks [] [] false) .remote g.ea

/-- Ask the peers for the scales of lanes (R180), which the instruction waits for before one of its lanes is performed. -/
def State.askScales (s : State) (m : MemCtx) (need : List (Nat × DWord × Nat × Nat)) : State :=
  let s1 := need.foldl (fun s (l, va, v, off) =>
    s.askPeer m { m.access s l 0 (.load 1 false) (.scale va.toNat) false with ea := va } v off) s
  s1.parkLanes m.c m.e m.c.acting (.remote (maskOf (need.map (·.1))) [])

/-- The scales that peers hold and have not answered. -/
def Wave.scalesNeeded (w : Wave) (gs : List GroupLane) : List (Nat × DWord × Nat × Nat) :=
  gs.filterMap (fun g =>
    match g.scale with
    | some (va, .ok x) =>
      match (GroupPart.mk x 1).peer, w.scales.get? g.lane with
      | some (v, off), some (a, _) => if a == va.toNat then none else some (g.lane, va, v, off)
      | some (v, off), none => some (g.lane, va, v, off)
      | none, _ => none
    | _ => none)

/-- LDX and STX (R194, R195): operands, REL, translation of every lane, the checks of the whole instruction, then the lanes
in ascending order.  Where lanes fail those checks, the record names the lowest one's cause and all of them (log 149). -/
def groupBody (i : Instr) (e : Enc) (sp : MemSpec) (acc : Acc) (dst : Wave → Nat → Nat → PWord → AccDst)
    (data : Wave → Nat → Except Cause (List PWord)) (store : Bool) (s : State) (c : Ctx) : Res :=
  let w := s.ctxWave c
  let act := c.acting &&& ~~~w.doneMask
  let opsOf (l : Nat) : Except Cause LaneOp := do
    let ea ← effAddr w l e (!store)
    let _ ← data w l
    .ok { lane := l, ea := ea, kind := .load 1 false, dst := .none }
  match laneOps act opsOf with
  | .error (k, m) => .fault s { cause := k, lanes := m, perFibre := true }
  | .ok os =>
    let s1 := if sp.rel && w.spec.sid.isNone then s.doRel c.blk c.wave else s
    if s1.lateNew s c then .stay (s1.reportBut c.blk c.wave w.lateReady)
    else
      let (m, s2) := s1.memCtx c e (rawOf i)
      let q := s2.xreq c.blk
      let (gs, s3, memo) := os.foldl (fun (x : List GroupLane × State × PageMemo) o =>
        let (g, t, mm) := groupXlat x.2.1 x.2.2 q e o.lane o.ea acc
        (x.1 ++ [g], t, mm)) (([] : List GroupLane), s2, ([] : PageMemo))
      let bad := gs.filterMap (fun g => (g.wrong e).map (fun k => (g, k)))
      match bad with
      | (g, k) :: _ => .fault s3 { cause := k, lanes := maskOf (bad.map (fun x => x.1.lane)), perFibre := true, fva := g.ea }
      | [] =>
        let (hs, s4, _) := gs.foldl (fun (x : List GroupLane × State × PageMemo) g =>
          let (g1, t, mm) := g.withScale x.2.1 x.2.2 q e
          (x.1 ++ [g1], t, mm)) (([] : List GroupLane), s3, memo)
        let need := (s4.ctxWave c).scalesNeeded hs
        if !need.isEmpty && w.spec.sid.isNone then .ok (s4.askScales m need) false 0
        else
          let wv := s4.ctxWave c
          let (r, fv) := hs.foldl (State.groupLane m wv.spec.sid s4 (dst wv)
            (if store then some (fun l => match data w l with | .ok xs => xs | .error _ => []) else none)) ({ s := s4 }, [])
          match r.stop with
          | some s5 => .stay s5
          | none =>
            (memEnd m sp (fv.map (fun (l, a) => { lane := l, ea := a, kind := .load 1 false, dst := .none }))
              { r with s := r.s.unstalled c }).reporting s1 c

/-- LDX (R194). -/
def execLdx (e : Enc) (s : State) : Outcome State Fault Refusal :=
  s.issue (.ldx e) e false (groupBody (.ldx e) e { st := e.fn.getLsbD 4, acq := acqBit e } .read
    (fun w l f sc => .cvt ((w.lane l).base + e.dst.toNat) f e.dt sc e.dlt.toNat e.dst)
    (fun w l => if w.dstOk l e e.dtRegs then .ok [] else .error .accessFault) false)

/-- STX (R194). -/
def execStx (e : Enc) (s : State) : Outcome State Fault Refusal :=
  s.issue (.stx e) e false (groupBody (.stx e) e { st := e.fn.getLsbD 4, statusDst := true, rel := relBit e } .write
    (fun _ _ _ _ => .none)
    (fun w l => if e.fn.getLsbD 4 && !(w.dstOk l e 1) then .error .accessFault else w.readGroup l e.src1.toNat e.dtRegs) true)

end Sys2Proof.Machine
end

