-- ==== Sys2Proof/Machine/Sync.lean ====
section
/-!
DEFINITION. Sys2Proof/Machine/Sync.lean: the instructions of the sync unit, opcodes 0x90 to 0x9B, and its two steps (R201 to R222).
-/

namespace Sys2Proof.Machine

open Host

/-! ### Barriers (R211 to R214) -/

/-- A fault that names a barrier (R351). -/
def Res.bar (s : State) (b : Nat) (k : Cause) : Res := .fault s { cause := k, obj := barObj b }

/-- A fault of acting fibres that names a barrier. -/
def Res.barLanes (s : State) (c : Ctx) (b : Nat) (k : Cause) : Res :=
  .fault s { cause := k, lanes := c.acting, perFibre := true, obj := barObj b }

/-- The operand of BARINIT, ARRIVE and ARRIVEX: S[SRC1], or IMM16. -/
def barOperand (w : Wave) (e : Enc) : Except Cause Nat :=
  match e.len with
  | .l64 => (w.sCode e.src1).use.map (fun x => x.toNat)
  | _ => .ok e.imm16.toNat

/-- Some wave or the stream waits for a phase of a barrier. -/
def Block.hasWaiter (k : Block) (b : Nat) : Bool :=
  k.waves.any (fun (_, w) => w.waits.any (fun (_, p) => match p.why with | .waitb c _ => c == b | _ => false)) ||
  (match k.stream.bind (fun m => m.wait) with | some (.bar c ..) => c == b | _ => false)

/-- Some wave or the stream waits for a phase of a barrier that has not completed: an evicted wave's wait may be over (R211, R213). -/
def Block.hasOpenWaiter (k : Block) (b : Nat) : Bool :=
  k.hasWaiter b &&
  (k.waves.any (fun (_, w) => w.waits.any (fun (_, p) => match p.why with | .waitb c par => c == b && !(k.bar b).passes par | _ => false)) ||
   (match k.stream.bind (fun m => m.wait) with | some (.bar c par _) => c == b && !(k.bar b).passes par | _ => false))

/-- BARINIT (R211). -/
def execBarinit (e : Enc) (s : State) : Outcome State Fault Refusal :=
  s.issue (.barinit e) e false (fun s c =>
    let k := s.block c.blk
    let b := e.src0.toNat
    if k.nbar ≤ b then Res.bar s b .accessFault
    else
      match barOperand (s.ctxWave c) e with
      | .error q => Res.bar s b q
      | .ok n =>
        let x := k.bar b
        if n = 0 ∨ 33 < n then Res.bar s b .accessFault
        else if !x.psn && x.v && (x.arr != 0 || x.bytes != 0 || k.hasOpenWaiter b) then Res.bar s b .accessFault
        else Res.next (s.setBar c.blk b { x with v := true, psn := false, ecause := .none, exp := n, arr := 0, bytes := 0 }))

/-- The accesses of a wave that an arrival follows: the stores, atomics and reductions it has in flight, and its loads (R35, R121, R212).
A remote load and a WAITW read are of fibres that wait, and not of those that arrive. -/
def Wave.accessesInFlight (w : Wave) : List Nat :=
  (w.acc.filter (fun a => a.isWrite || (a.remote.isNone && (match a.kind with | .waitw .. => false | _ => true)))).map (·.id)

/-- The instruction as the record of a late fault names it (R212). -/
def siteOf (c : Ctx) (i : Instr) : Site := { pc := c.pc, nextPc := c.nextPc, raw := rawOf i, lanes := c.members }

/-- ARRIVE and ARRIVEX (R212). -/
def arriveBody (i : Instr) (e : Enc) (f : Nat → Contrib) (s : State) (c : Ctx) : Res :=
  let k := s.block c.blk
  let b := e.src0.toNat
  if decide (k.nbar ≤ b) || !(k.bar b).v then Res.bar s b .accessFault
  else
    match barOperand (s.ctxWave c) e with
    | .error q => Res.bar s b q
    | .ok n =>
      Res.next (s.contribute c.blk b
        { f n with source := .arrive c.wave (siteOf c i), before := (s.ctxWave c).accessesInFlight })

/-- ARRIVE (R212). -/
def execArrive (e : Enc) (s : State) : Outcome State Fault Refusal :=
  s.issue (.arrive e) e false (fun s c =>
    -- the 64-bit form has no operand: SRC1 is 0 and is not read
    match e.len with
    | .l64 => arriveBody (.arrive e) { e with len := .l96, ext := 0 } (fun _ => { arrivals := 1 }) s c
    | _ => arriveBody (.arrive e) e (fun n => { arrivals := n }) s c)

/-- ARRIVEX (R212). -/
def execArrivex (e : Enc) (s : State) : Outcome State Fault Refusal :=
  s.issue (.arrivex e) e false (arriveBody (.arrivex e) e (fun n => { arrivals := 1, add := n }))

/-- P of WAITB and TESTB (R210). -/
def barParity (w : Wave) (e : Enc) : Except Cause Bool :=
  if e.mod.getLsbD 1 then (w.sCode e.src1).use.map (fun x => x.getLsbD 0) else .ok (e.mod.getLsbD 0)

/-- Write a predicate in lanes. -/
def Wave.setQs (w : Wave) (m : BitVec 32) (q : Nat) (b : Bool) : Wave := w.mapLanes m (fun _ x => x.setQ q b)

/-- WAITB (R213). -/
def execWaitb (e : Enc) (s : State) : Outcome State Fault Refusal :=
  s.issue (.waitb e) e false (fun s c =>
    let k := s.block c.blk
    let b := e.src0.toNat
    let w := s.ctxWave c
    if k.nbar ≤ b then Res.barLanes s c b .accessFault
    else
      match barParity w e with
      | .error q => Res.barLanes s c b q
      | .ok par =>
        let x := k.bar b
        let st := e.fn == 1
        if !x.v then Res.barLanes s c b .accessFault
        else if !x.passes par then .ok (s.parkLanes c e c.acting (.waitb b par)) false 0
        else if x.psn then
          (if st then Res.next (s.setCtxWave c (w.setQs c.acting e.dst.toNat false)) else Res.barLanes s c b x.ecause)
        else
          let s1 := if st then s.setCtxWave c (w.setQs c.acting e.dst.toNat true) else s
          Res.next (s1.acquire c.blk c.wave))

/-- TESTB (R213). -/
def execTestb (e : Enc) (s : State) : Outcome State Fault Refusal :=
  s.issue (.testb e) e false (fun s c =>
    let k := s.block c.blk
    let b := e.src0.toNat
    let w := s.ctxWave c
    if k.nbar ≤ b then Res.barLanes s c b .accessFault
    else
      match barParity w e with
      | .error q => Res.barLanes s c b q
      | .ok par =>
        let x := k.bar b
        if !x.v then Res.barLanes s c b .accessFault
        else
          let r := x.passes par
          let s1 := s.setCtxWave c (w.setQs c.acting e.dst.toNat r)
          Res.next (if r && !x.psn then s1.acquire c.blk c.wave else s1))

/-- BARINV (R214). -/
def execBarinv (e : Enc) (s : State) : Outcome State Fault Refusal :=
  s.issue (.barinv e) e false (fun s c =>
    let b := e.src0.toNat
    if (s.block c.blk).nbar ≤ b then Res.bar s b .accessFault
    else if !((s.block c.blk).bar b).v then Res.next s
    else
      let x := (s.block c.blk).bar b
      let s1 := s.setBar c.blk b { x with psn := true, ecause := .accessFault, bytes := 0, arr := 0 }
      let s2 := (s1.fillSlots c.blk b true).judgeBar c.blk b
      Res.next (s2.setBar c.blk b { (s2.block c.blk).bar b with v := false }))

/-- BARRIER_STEP (R202): the first contributions on their way to a barrier reach it in one cycle; arguments are the block,
the barrier and how many. -/
def execBarrierStep (s : State) : Outcome State Fault Refusal := .next (s.barStep (s.arg 0) (s.arg 1) (s.arg 2))

/-! ### Rings (R215 to R219) -/

/-- OBJ of a record that names a ring (R350). -/
def ringObj (c : Nat) : BitVec 8 := BitVec.ofNat 8 (c % 32)

/-- A fault that names a ring (R351). -/
def Res.ring (s : State) (c : Nat) (k : Cause) : Res := .fault s { cause := k, obj := ringObj c }

/-- The number of slots in a state (R205): FREE and FILLED. -/
def Ring.count (r : Ring) (st : Nat) : Nat := ((List.range (r.ns + 1)).filter (fun i => (r.slot i).st == st)).length

/-- The block-local offset of a slot (R205). -/
def Ring.slotOff (r : Ring) (i : Nat) : Nat := r.base + i * 2 ^ r.lsz

/-- A handle (R207). -/
def tileHandle (i : Nat) (lap err : Bool) : Word := BitVec.ofNat 32 (i + (if lap then 256 else 0) + (if err then 512 else 0))

/-- A fill barrier as RINIT sets it up (R215). -/
def Bar.fill (x : Bar) : Bar := { x with v := true, psn := false, ecause := .none, exp := 1, arr := 0, bytes := 0 }

/-- A free slot stands at TAIL; a filled one at HEAD. -/
def Ring.canPush (r : Ring) : Bool := (r.slot r.tail).st == 0
def Ring.canPop (r : Ring) : Bool := (r.slot r.head).st == 2

/-- Hand out the slot at TAIL (R216): the ring, the slot and its lap. -/
def Ring.push (r : Ring) : Ring × Nat × Bool :=
  let wrap := decide (r.ns ≤ r.tail)
  ({ r.setSlot r.tail { st := 1, lap := r.tlap, err := false } with
      tail := if wrap then 0 else r.tail + 1, tlap := r.tlap != wrap }, r.tail, r.tlap)

/-- Hand out the slot at HEAD (R216): the ring, the slot, its lap and its ERR. -/
def Ring.pop (r : Ring) : Ring × Nat × Bool × Bool :=
  let wrap := decide (r.ns ≤ r.head)
  let x := r.slot r.head
  ({ r.setSlot r.head { x with st := 3, lap := r.hlap } with
      head := if wrap then 0 else r.head + 1, hlap := r.hlap != wrap }, r.head, r.hlap, x.err)

/-- The pair an end of a ring hands out, and the ring afterwards (R207, R216). -/
def Ring.handOut (r : Ring) (push : Bool) : Ring × List PWord :=
  if push then
    let (r1, i, lap) := r.push
    (r1, clean [tileHandle i lap false, BitVec.ofNat 32 (r.slotOff i)])
  else
    let (r1, i, lap, err) := r.pop
    (r1, clean [tileHandle i lap err, BitVec.ofNat 32 (r.slotOff i)])

/-- RINIT (R215). -/
def execRinit (e : Enc) (s : State) : Outcome State Fault Refusal :=
  s.issue (.rinit e) e false (fun s c =>
    let k := s.block c.blk
    let q := e.src0.toNat
    let lsz := e.ext.toNat % 16 + 6
    let ns := e.ext.toNat / 16 % 256
    let bb := e.ext.toNat / 4096 % 128
    let be := e.ext.getLsbD 19
    let base : Except Cause Nat := match e.len with
      | .l128 => .ok e.imm32.toNat
      | _ => ((s.ctxWave c).sCode e.src1).use.map (fun x => x.toNat)
    if k.nring ≤ q then Res.ring s q .accessFault
    else
      match base with
      | .error x => Res.ring s q x
      | .ok base =>
        let r := k.ring q
        -- a stream that waits on the ring goes on waiting: only waves and ring commands refuse the ring
        let others (l : List RingWaiter) : Bool := l.any (fun x => x != .stream)
        if r.v && (decide (r.count 0 ≠ r.ns + 1) || others r.pushers || others r.poppers) then Res.ring s q .ringMisuse
        else if base % 2 ^ lsz ≠ 0 ∨ k.scratch < base + (ns + 1) * 2 ^ lsz then Res.ring s q .accessFault
        else if be && decide (k.nbar < bb + ns + 1) then Res.ring s q .accessFault
        else
          let kept (l : List RingWaiter) : List RingWaiter := if r.v then l else []
          let s1 := s.setRing c.blk q
            { base := base, lsz := lsz, ns := ns, be := be, bb := bb, v := true, pushers := kept r.pushers, poppers := kept r.poppers }
          Res.next (if be then (List.range (ns + 1)).foldl (fun s i => s.setBar c.blk (bb + i) ((s.block c.blk).bar (bb + i)).fill) s1
            else s1))

/-- RPUSH and RPOP (R216). -/
def ringBody (e : Enc) (push : Bool) (s : State) (c : Ctx) : Res :=
  let k := s.block c.blk
  let q := e.src0.toNat
  if k.nring ≤ q then Res.ring s q .accessFault
  else
    let r := k.ring q
    if !r.v then Res.ring s q .ringMisuse
    else
      let waiting := if push then r.pushers else r.poppers
      if (if push then r.canPush else r.canPop) && waiting.isEmpty then
        let (r1, xs) := r.handOut push
        let s1 := s.setRing c.blk q r1
        Res.next ((s1.setCtxWave c ((s1.ctxWave c).writeS e.dst xs)).acquire c.blk c.wave)
      else
        let me := RingWaiter.wave c.wave (s.ctxWave c).nextWait
        let r1 := if push then { r with pushers := r.pushers ++ [me] } else { r with poppers := r.poppers ++ [me] }
        .ok ((s.setRing c.blk q r1).parkLanes c e c.members (.ringEnd q push)) false 0

/-- RPUSH (R216). -/
def execRpush (e : Enc) (s : State) : Outcome State Fault Refusal := s.issue (.rpush e) e false (ringBody e true)
/-- RPOP (R216). -/
def execRpop (e : Enc) (s : State) : Outcome State Fault Refusal := s.issue (.rpop e) e false (ringBody e false)

/-- Return a CONSUMING slot (R217): FREE, and a poisoned fill barrier is set up again. -/
def State.freeSlot (s : State) (blk q i : Nat) : State :=
  let r := (s.block blk).ring q
  let s1 := s.setRing blk q (r.setSlot i { r.slot i with st := 0, err := false })
  let x := (s1.block blk).bar (r.bb + i)
  if r.be && x.psn then s1.setBar blk (r.bb + i) x.fill else s1

/-- A PRODUCING slot goes to FILLED (R217). -/
def State.fillSlot (s : State) (blk q i : Nat) (err : Bool) : State :=
  let r := (s.block blk).ring q
  if (r.slot i).st == 1 then s.setRing blk q (r.setSlot i { r.slot i with st := 2, err := err }) else s

/-- The handle names a slot of the ring at its lap (R217). -/
def Ring.handleOk (r : Ring) (h : Word) : Bool :=
  r.v && decide (h.toNat % 256 ≤ r.ns) && decide (h.toNat / 1024 % 2 ^ 21 = 0) && (r.slot (h.toNat % 256)).lap == h.getLsbD 8

/-- Every access of a wave that a release with the timing of R212 follows has happened; a unit's accesses have already (R334). -/
def State.releaseAll (s : State) (blk wave : Nat) : State :=
  if (s.wave blk wave).spec.sid.isSome then s else (s.doRel blk wave).reportBut blk wave (s.wave blk wave).lateReady

/-- A write of the wave to a peer has yet to be acknowledged (R121). -/
def Wave.owesPeer (w : Wave) : Bool := w.acc.any (fun a => a.isWrite && a.remote.isSome)

/-- RDONE (R217). -/
def rdoneBody (e : Enc) (fill : Bool) (s : State) (c : Ctx) : Res :=
  let k := s.block c.blk
  let q := e.src0.toNat
  if k.nring ≤ q then Res.ring s q .accessFault
  else
    match ((s.ctxWave c).sCode e.src1).use with
    | .error x => Res.ring s q x
    | .ok h =>
      let r := k.ring q
      let i := h.toNat % 256
      if !r.handleOk h then Res.ring s q .ringMisuse
      else if (if fill then (r.slot i).st != 1 || r.be else (r.slot i).st != 3) then Res.ring s q .ringMisuse
      -- it waits for the acknowledgements of other fibres' remote writes
      else if (s.ctxWave c).owesPeer then .stay s
      else
        let s1 := s.releaseAll c.blk c.wave
        Res.next (if fill then s1.fillSlot c.blk q i false else s1.freeSlot c.blk q i)

/-- RDONE.FILL (R217). -/
def execRdoneFill (e : Enc) (s : State) : Outcome State Fault Refusal := s.issue (.rdoneFill e) e false (rdoneBody e true)
/-- RDONE.FREE (R217). -/
def execRdoneFree (e : Enc) (s : State) : Outcome State Fault Refusal := s.issue (.rdoneFree e) e false (rdoneBody e false)

/-- A read of a ring's state into two words (R218). -/
def ringRead (e : Enc) (f : Ring → List Word) (s : State) (c : Ctx) : Res :=
  let k := s.block c.blk
  let q := e.src0.toNat
  if k.nring ≤ q then Res.ring s q .accessFault
  else if !(k.ring q).v then Res.ring s q .ringMisuse
  else Res.next (s.setCtxWave c ((s.ctxWave c).writeS e.dst (clean (f (k.ring q)))))

/-- RPEEK (R218). -/
def execRpeek (e : Enc) (s : State) : Outcome State Fault Refusal :=
  s.issue (.rpeek e) e false (ringRead e (fun r =>
    let x := r.slot r.head
    [tileHandle r.head r.hlap x.err ||| (if x.st == 2 then 0x80000000 else 0), BitVec.ofNat 32 (r.slotOff r.head)]))

/-- RSTAT (R218). -/
def execRstat (e : Enc) (s : State) : Outcome State Fault Refusal :=
  s.issue (.rstat e) e false (ringRead e (fun r =>
    [BitVec.ofNat 32 (r.count 0 + r.count 2 * 65536),
      BitVec.ofNat 32 (r.head + (if r.hlap then 256 else 0) + r.tail * 65536 + (if r.tlap then 2 ^ 24 else 0))]))

end Sys2Proof.Machine
end

