-- ==== Sys2Proof/Machine/Copy.lean ====
section
/-!
DEFINITION. Sys2Proof/Machine/Copy.lean: the copy engine: tokens, commands and their chunks, and the instructions 0xA0 to 0xA7 (R223 to
R248); and RING_WAITER_SERVED, which serves the waiters of a ring end, ring commands among them (R216, R225).

The data of a chunk moves in the step that counts it (log 17).
-/

namespace Sys2Proof.Machine

open Host

/-! ### Tokens (R231, R240 to R242) -/

def Wave.token (w : Wave) (k : Nat) : Token := w.tokens.get {} k
def Wave.setToken (w : Wave) (k : Nat) (t : Token) : Wave := { w with tokens := w.tokens.set k t }

/-- A command of a batch has not completed. -/
def Block.batchOpen (k : Block) (wave t batch : Nat) : Bool := k.copies.any (fun (_, c) => c.rep == .token wave t batch)

/-- A sealed batch of a token that completes in error sets ERR with its cause, if ERR was clear (R231, R245): in ascending number, and
whether or not earlier batches have completed. -/
def Token.errored (x : Token) (done : Nat → Bool) : Token :=
  (List.range x.out).foldl (fun (x : Token) i =>
    let b := (x.cb + 1 + i) % 65536
    match (if done b then x.errs.get? b else none) with
    | some c => { x with errs := x.errs.erase b, err := true, ecause := if x.err then x.ecause else c }
    | none => x) x

/-- Report the sealed batches of a token that have completed, in ascending number (R231). -/
def reportBatches (fuel : Nat) (k : Block) (wave t : Nat) (x : Token) : Token :=
  match fuel with
  | 0 => x
  | n + 1 =>
    let b := (x.cb + 1) % 65536
    if x.out = 0 ∨ k.batchOpen wave t b then x else reportBatches n k wave t { x with cb := b, out := x.out - 1 }

/-- What WAITK waits for has been reported (R241). -/
def Wave.batchesDone (w : Wave) (mask : Nat) (nbs : Tab Nat) : Bool :=
  (List.range 8).all (fun k => !(mask.testBit k) || decide ((w.token k).out ≤ ((w.token k).nb + 65536 - nbs.get 0 k) % 65536))

/-- The lowest token of a mask in error. -/
def Wave.tokenErr (w : Wave) (mask : Nat) : Option Nat := (List.range 8).find? (fun k => mask.testBit k && (w.token k).err)

/-- Clear ERR on tokens (R241).  ECAUSE, the cause of the first unreported error (R231), goes with it, where R241 says ERR := 0 only (log 159). -/
def Wave.clearErr (w : Wave) (ks : List Nat) : Wave := ks.foldl (fun w k => w.setToken k { w.token k with err := false, ecause := .none }) w

/-- The tokens of a mask. -/
def maskTokens (mask : Nat) : List Nat := (List.range 8).filter (fun k => mask.testBit k)

/-- A mark of a batch that a wave's token of a mask has reported complete. -/
def Wave.reported (w : Wave) (blk wave mask : Nat) (x : Nat × Nat × Nat × Nat) : Bool :=
  x.1 == blk && x.2.1 == wave && mask.testBit x.2.2.1 && decide (((w.token x.2.2.1).cb + 65536 - x.2.2.2) % 65536 < 32768)

/-- The batches that tokens of a mask have reported complete count as the wave's own stores (R36, R130, R241): the core's L1 discards each
copy of a word that one of them has written at its home since.  A copy of a word that the core has a store to stays (R129, log 160). -/
def State.ownBatches (s : State) (blk wave mask : Nat) : State :=
  let core := s.coreOf blk
  let c := s.core core
  let w := s.wave blk wave
  s.setCore core
    { c with l1 := c.l1.filter (fun ((k, x) : Nat × L1Word) => s.pendingStore core (4 * k) 4 || !x.behind.any (w.reported blk wave mask)) }

/-- The end of a WAITK wait (R241). -/
def State.endWaitk (s : State) (blk wave n : Nat) (p : Park) (mask : Nat) : State :=
  let w := s.wave blk wave
  let st := p.enc.mod.getLsbD 0
  let q := p.enc.dst.toNat
  let setq (w : Wave) (b : Bool) : Wave := (lanesOf p.lanes).foldl (fun w l => w.onWaiter n l (fun y => y.setQ q b)) w
  match w.tokenErr mask with
  | none => (s.setWave blk wave ((if st then setq w true else w).wake n)).ownBatches blk wave mask
  | some k =>
    if st then s.setWave blk wave (((setq w false).clearErr (maskTokens mask)).wake n)
    else
      ((s.setWave blk wave ((w.clearErr [k]).wakeAt n true))).raise (waitCtx blk wave w p) (rawOf (.waitk p.enc)) false
        { cause := (w.token k).ecause, lanes := p.lanes, perFibre := true, obj := BitVec.ofNat 8 k }

/-- Judge the WAITK waits of a wave. -/
def State.judgeWaitk (s : State) (blk wave : Nat) : State :=
  let k := s.block blk
  let w := s.wave blk wave
  if k.core.isNone || k.saving || w.onHold then s
  else
    w.waits.foldl (fun s (n, p) =>
      match p.why with
      | .waitk mask nbs => if (s.wave blk wave).batchesDone mask nbs then s.endWaitk blk wave n p mask else s
      | _ => s) s

/-- Report what can be reported on a token, and end the waits for it. -/
def State.settleToken (s : State) (blk wave t : Nat) : State :=
  let w := s.wave blk wave
  let k := s.block blk
  let x := (w.token t).errored (fun b => !k.batchOpen wave t b)
  (s.setWave blk wave (w.setToken t (reportBatches 256 k wave t x))).judgeWaitk blk wave

/-! ### The end of a command (R228, R244, R245) -/

/-- The chunks of a command (R227). -/
def CopyCmd.chunks (c : CopyCmd) : Nat := (c.len + 255) / 256

/-- F: the lowest chunk not counted. -/
def CopyCmd.first (c : CopyCmd) : Nat := ((List.range (c.chunks + 1)).find? (fun i => !c.counted.contains i)).getD c.chunks

/-- The mask of counted chunks F + 1 to F + 16 (R244). -/
def CopyCmd.mask (c : CopyCmd) : Nat :=
  (List.range 16).foldl (fun m i => if c.counted.contains (c.first + 1 + i) then m + 2 ^ i else m) 0

/-- The ring a command fills has fill barriers. -/
def Block.ringBe (k : Block) (q : Nat) : Bool := (k.ring q).be

/-- The barrier a command counts on (R228). -/
def Block.countBar (k : Block) (c : CopyCmd) : Option Nat :=
  match c.rep with
  | .bar b => some b
  | .ring q => if k.ringBe q then some ((k.ring q).bb + c.slot.getD 0) else none
  | .token .. => none

/-- A command that is over leaves the engine: its slot moves, its token is settled. -/
def State.endCopy (s : State) (blk id : Nat) (err : Option Cause) : State :=
  let k := s.block blk
  match k.copies.get? id with
  | none => s
  | some c =>
    let s1 := s.setBlock blk { k with copies := k.copies.erase id }
    let s2 := match c.rep, err with
      | .token w t b, some e =>
        let wv := s1.wave blk w
        let tk := wv.token t
        s1.setWave blk w (wv.setToken t { tk with errs := match tk.errs.get? b with | some _ => tk.errs | none => tk.errs.set b e })
      | .ring q, _ =>
        if k.ringBe q then s1 else (match c.slot with | some i => s1.fillSlot blk q i err.isSome | none => s1)
      | _, _ => s1
    let s3 := match err, k.countBar c with
      | some e, some b => s2.poisonBar blk b e
      | _, _ => s2
    let s4 := match c.frees with | some (q, i) => s3.freeSlot blk q i | none => s3
    match c.rep with
    | .token w t _ => s4.settleToken blk w t
    | _ => s4

/-- The record of a running command (R243, R351): KIND 2. -/
def State.copyRecord (s : State) (blk id : Nat) (c : CopyCmd) (k : Cause) (ans : Bool) (va : Nat) (syn : Option Syndrome) : State :=
  let b := s.block blk
  let fn := s.fn b.fn
  let obj := match c.rep, b.countBar c with
    | _, some n => barObj n
    | .token _ t _, none => BitVec.ofNat 8 t
    | .ring q, none => ringObj q
    | _, none => 0
  let r : TrapRec :=
    { id := s.serial, fn := b.fn, cause := k, ans := ans, kind := 2, pc := c.pc, fva := BitVec.ofNat 64 va, blk := b.handle
      wave := c.wave, obj := obj, aux := BitVec.ofNat 64 (c.first + c.mask * 2 ^ 32), resume := if ans then .copy id else .nothing
      syn := syn, byWave := false, blkId := blk }
  let s1 := { s.setFn b.fn { fn with recs := fn.recs ++ [r] } with serial := s.serial + 1 }
  if ans then s1.setBlock blk { b with holds := b.holds ++ [r.id] } else s1

/-! ### Bytes of a command (R227, R232, R233) -/

/-- Where a byte of a command is. -/
inductive ByteRef where
  | va (a : Nat)
  | loc (off : Nat)
  | const (b : Byte)
  deriving DecidableEq, Repr

def CopyAddr.byte (a : CopyAddr) (i : Nat) : ByteRef :=
  match a with
  | .va x => .va ((x.toNat + i) % 2 ^ 64)
  | .loc off => .loc (off + i)

/-- The width of an element in a layout record (R232). -/
def layoutBits (f : Nat) : Nat := if f = 0 then 8 else elemBits f

/-- Bytes of a scratch row (R232). -/
def Layout.rowBytes (t : Layout) : Nat := (t.boxes.getD 0 0 + 1) * layoutBits t.fmt / 8

/-- The span S of a swizzle code (R232). -/
def Layout.span (t : Layout) : Nat := if t.swz = 0 then 0 else 16 * 2 ^ t.swz

/-- The bytes of the box (R232). -/
def Layout.boxBytes (t : Layout) : Nat := t.rowBytes * ((List.range 4).map (fun d => t.boxes.getD (d + 1) 0 + 1)).foldl (· * ·) 1

/-- The box indices i1 to i4 of a scratch row. -/
def Layout.rowIndex (t : Layout) (r : Nat) : List Nat :=
  ((List.range 4).foldl (fun (acc : List Nat × Nat) d =>
    let n := t.boxes.getD (d + 1) 0 + 1
    (acc.1 ++ [acc.2 % n], acc.2 / n)) ([], r)).1

/-- A byte of the box: its memory byte, and whether it lies in the tensor (R232). -/
def Layout.memByte (t : Layout) (r b : Nat) : Nat × Bool :=
  let w := layoutBits t.fmt
  let c (d : Nat) : Int := t.coords.getD d 0
  let ix := t.rowIndex r
  let x0 : Int := c 0 + (8 * b / w : Nat)
  let xs := (List.range 4).map (fun d => c (d + 1) + (ix.getD d 0 : Nat))
  let inb0 := decide (0 ≤ x0) && decide (x0 < (t.sizes.getD 0 0 : Nat))
  let inb := (List.range 4).all (fun d =>
    decide (t.ndim ≤ d + 1) || (decide (0 ≤ xs.getD d 0) && decide (xs.getD d 0 < (t.sizes.getD (d + 1) 0 : Nat))))
  let off : Int := c 0 * w / 8 + b + ((List.range 4).map (fun d =>
    if t.ndim ≤ d + 1 then 0 else xs.getD d 0 * (t.strides.getD d 0 : Nat))).sum
  ((((t.base.toNat : Int) + off) % 2 ^ 64).toNat, inb0 && inb)

/-- A byte of an out-of-bounds element under PAD 0 or 1 (R232). -/
def Layout.fillByte (t : Layout) (b : Nat) : Byte :=
  if t.pad = 1 then
    let w := layoutBits t.fmt
    BitVec.ofNat 8 ((List.range 8).foldl (fun m j => if t.fill.getLsbD ((8 * b + j) % w) then m + 2 ^ j else m) 0)
  else 0

/-- The scratch byte of a byte of the box (R232). -/
def Layout.scrByte (t : Layout) (off r b : Nat) : Nat :=
  off + r * t.rowBytes + (if t.swz = 0 then b else b ^^^ (r % (t.span / 16) * 16))

/-- The bytes of a chunk as source and destination; none where an out-of-bounds element fails the command (R232). -/
def CopyCmd.moves (c : CopyCmd) (slotOff : Nat) (i : Nat) : Option (List (ByteRef × ByteRef)) :=
  let n := min 256 (c.len - 256 * i)
  let idx := (List.range n).map (fun j => 256 * i + j)
  match c.tensor with
  | none =>
    let dst (j : Nat) : ByteRef := match c.rep, c.dst with | .ring _, _ => .loc (slotOff + j) | _, d => d.byte j
    some (idx.map (fun j => (c.src.byte j, dst j)))
  | some t =>
    let off := match c.rep with | .ring _ => slotOff | _ => (match c.dst with | .loc o => o | .va _ => 0)
    idx.foldlM (fun (acc : List (ByteRef × ByteRef)) j =>
      let r := j / t.rowBytes
      let b := j % t.rowBytes
      let (a, inb) := t.memByte r b
      let sb := ByteRef.loc (t.scrByte off r b)
      if inb then some (acc ++ [if t.store then (sb, ByteRef.va a) else (ByteRef.va a, sb)])
      else if t.pad = 2 then none
      else some (if t.store then acc else acc ++ [(ByteRef.const (t.fillByte b), sb)])) []

/-- What a chunk comes to. -/
inductive ChunkRes where
  | ok (s : State)
  | page (s : State) (va : Nat) (syn : Option Syndrome)
  | fatal (s : State) (k : Cause) (va : Nat) (syn : Option Syndrome)

/-- The pages that byte references name: the lowest and the highest VA named in each. -/
def refPages (rs : List ByteRef) : List (Nat × Nat) :=
  (rs.foldl (fun (acc : List (Nat × Nat)) r =>
    match r with
    | .va a =>
      if acc.any (fun x => x.1 / 65536 == a / 65536) then
        acc.map (fun x => if x.1 / 65536 == a / 65536 then (min x.1 a, max x.2 a) else x)
      else (a, a) :: acc
    | _ => acc) []).reverse

/-- Translations of pages: the VA translated, and its host address. -/
abbrev PageMap := List (Nat × Nat)

/-- A target of a command may be moved (R232, R233). -/
def copyTarget (x : Xlat) (fmt : Option Nat) : Option Cause :=
  match x.place with
  | .notify .. | .fabric .. => some .accessFault
  | _ =>
    if x.sc then some .accessFault
    else
      match fmt with
      | none => none
      | some f => if x.stk then some .accessFault else if x.fmt ≠ 0 ∧ x.fmt ≠ f then some .fmtMismatch else none

/-- Translate the pages of a chunk's side; every byte of it must lie in what may be addressed there (R108, R233). -/
def State.mapPages (s : State) (blk : Nat) (vas : List (Nat × Nat)) (acc : Acc) (fmt : Option Nat) : ChunkRes × PageMap :=
  vas.foldl (fun (r : ChunkRes × PageMap) ((va, last) : Nat × Nat) =>
    match r.1 with
    | .ok s =>
      match translate s (s.xreq blk) va acc with
      | (.error (k, syn), s1) =>
        let y := if va < 2 ^ 55 then some syn else none
        (if k = .pageFault then .page s1 va y else .fatal s1 k va y, r.2)
      | (.ok x, s1) =>
        match copyTarget x fmt, x.place.host s1 (some blk) with
        | some k, _ => (.fatal s1 k va none, r.2)
        | none, some h =>
          if x.place.covers s1 blk (last - va + 1) then (.ok s1, r.2 ++ [(va, h)])
          else (.fatal s1 .accessFault (va + (x.place.room s1 blk).getD 0) none, r.2)
        | none, none => (.fatal s1 .accessFault va none, r.2)
    | _ => r) (.ok s, [])

/-- The host address of a byte. -/
def State.refHost (s : State) (blk : Nat) (m : PageMap) (r : ByteRef) : Nat :=
  match r with
  | .va a => match m.find? (fun x => x.1 / 65536 == a / 65536) with | some (v, h) => h + a - v | none => 0
  | .loc off => sliceAddr (s.coreOf blk) ((s.block blk).scrBase + off)
  | .const _ => 0

/-- Runs of bytes that lie in one poison granule of the destination. -/
def destRuns (xs : List (Nat × Byte × Bool)) : List (Nat × List Byte × Bool) :=
  (xs.foldl (fun (acc : List (Nat × List Byte × Bool)) (a, b, p) =>
    match acc with
    | (a0, bs, p0) :: r => if a == a0 + bs.length && granuleAt a == granuleAt a0 then (a0, bs ++ [b], p0 || p) :: r else (a, [b], p) :: acc
    | [] => [(a, [b], p)]) []).reverse

/-- A batch of a token has written n bytes from an address: the copies that the core's L1 has of their words stand behind it (R36). -/
def State.markBehind (s : State) (core : Nat) (x : Nat × Nat × Nat × Nat) (a n : Nat) : State :=
  let c := s.core core
  s.setCore core
    { c with l1 := c.l1.map (fun ((k, w) : Nat × L1Word) =>
        if decide (4 * k < a + n) && decide (a < 4 * k + 4) && !w.behind.contains x then (k, { w with behind := w.behind ++ [x] }) else (k, w)) }

/-- Write bytes of a command at their home (R229). -/
def State.copyOut (s : State) (blk : Nat) (c : CopyCmd) (a : Nat) (bs : List Byte) (p : Bool) : State :=
  let s1 := s.writeOut (s.block blk).fn none a bs p
  match c.rep with
  | .token w t b => s1.markBehind (s.coreOf blk) (blk, w, t, b) a bs.length
  | _ => s1

/-- Move a chunk's bytes (R229): every source byte is read, then the destination is written. -/
def State.moveChunk (s : State) (blk : Nat) (c : CopyCmd) (i : Nat) : ChunkRes :=
  let r := (s.block blk).ring (match c.rep with | .ring q => q | _ => 0)
  match c.moves (r.slotOff (c.slot.getD 0)) i with
  | none => .fatal s .accessFault 0 none
  | some ms =>
    let fmt := c.tensor.map (fun t => t.fmt)
    match s.mapPages blk (refPages (ms.map (·.1))) .read fmt with
    | (.ok s1, rd) =>
      match s1.mapPages blk (refPages (ms.map (·.2))) .write fmt with
      | (.ok s2, wr) =>
        let vals := ms.map (fun (x, y) =>
          let h := s2.refHost blk rd x
          (s2.refHost blk wr y, match x with
            | .const b => (b, false)
            | _ => (s2.byteAt h, s2.poisonAt h 1)))
        let us := (ms.map (fun (x, _) => match x with | .const _ => 1 | _ => granuleAt (s2.refHost blk rd x))).eraseDups
        let s3 := if s2.faulty.isEmpty then s2 else s2.meetUnits (s2.block blk).fn us
        .ok ((destRuns vals).foldl (fun s (a, bs, p) => s.copyOut blk c a bs p) s3)
      | (x, _) => x
    | (x, _) => x

/-- The bytes a chunk counts. -/
def CopyCmd.chunkBytes (c : CopyCmd) (i : Nat) : Nat := min 256 (c.len - 256 * i)

/-- A chunk is counted (R227, R228): off its barrier, and the command completes with its last chunk. -/
def State.countChunk (s : State) (blk id i : Nat) : State :=
  let k := s.block blk
  match k.copies.get? id with
  | none => s
  | some c =>
    let c1 := { c with flight := c.flight.filter (fun j => j != i), counted := setInsert c.counted i }
    let s1 := s.setBlock blk { k with copies := k.copies.set id c1 }
    let s2 := match k.countBar c with | some b => s1.contribute blk b { sub := c.chunkBytes i } | none => s1
    if c1.counted.length = c1.chunks then s2.endCopy blk id none else s2

/-- A running command meets a fatal fault (R245): one record, then it ends. -/
def State.fatalCopy (s : State) (blk id : Nat) (k : Cause) (va : Nat) (syn : Option Syndrome) : State :=
  match (s.block blk).copies.get? id with
  | none => s
  | some c => (s.copyRecord blk id c k false va syn).endCopy blk id (some k)

/-- A chunk in flight ends (R227, R244, R245): a page fault lets the others finish and suspends the command. -/
def State.chunkDone (s : State) (blk id i : Nat) : State :=
  match (s.block blk).copies.get? id with
  | none => s
  | some c =>
    match s.moveChunk blk c i with
    | .ok s1 => s1.countChunk blk id i
    | .fatal s1 k va syn => s1.fatalCopy blk id k va syn
    | .page s1 va syn =>
      let others := c.flight.filter (fun j => j != i)
      let s2 := others.foldl (fun s j =>
        match (s.block blk).copies.get? id with
        | none => s
        | some d =>
          match s.moveChunk blk d j with
          | .ok s' => s'.countChunk blk id j
          | .fatal s' k a y => s'.fatalCopy blk id k a y
          | .page s' _ _ => s') s1
      match (s2.block blk).copies.get? id with
      | none => s2
      | some d =>
        let s3 := s2.copyRecord blk id d .pageFault true va syn
        s3.setBlock blk { s3.block blk with copies := (s3.block blk).copies.set id { d with stage := .suspended, flight := [] } }

/-! ### The queue (R224, R225) -/

/-- The blocks resident on a core. -/
def State.residents (s : State) (core : Nat) : List (Nat × Block) := s.blocks.filter (fun (_, b) => b.core == some core)

/-- The roles of a block that have waves. -/
def Block.waveRoles (k : Block) : List Nat := k.waves.foldl (fun l (_, w) => match w.roleNo with | some r => setInsert l r | none => l) []

/-- Entries reserved on a core (R224). -/
def State.reservedEntries (s : State) (core : Nat) : Nat := ((s.residents core).map (fun (_, b) => 2 * b.waveRoles.length)).sum

/-- An entry for a command of a role's wave (R224): reserved if one is free, else shared. -/
def State.copyEntry (s : State) (blk : Nat) (role : Option Nat) : Option CopyAt :=
  let core := s.coreOf blk
  let k := s.block blk
  let used (b : Block) (r : Option Nat) : Nat := (b.copies.filter (fun (_, c) => c.stage == .queued r)).length
  let shared := ((s.residents core).map (fun (_, b) => used b none)).sum
  let own := match role with | some r => k.waveRoles.contains r && decide (used k (some r) < 2) | none => false
  if own then some (.queued role)
  else if shared < 64 - s.reservedEntries core then some (.queued none) else none

/-- Issue a command (R223, R224, R227, R231): with nothing to move it completes at once. -/
def State.addCopy (s : State) (c : Ctx) (cmd : CopyCmd) : State :=
  let (id, s1) := s.drawSerial
  let k := s1.block c.blk
  let s2 := s1.setBlock c.blk { k with copies := k.copies.set id cmd }
  let s3 := match cmd.rep with
    | .token w t _ =>
      let wv := s2.wave c.blk w
      let tk := wv.token t
      s2.setWave c.blk w (wv.setToken t { tk with open_ := min 255 (tk.open_ + 1) })
    | _ => s2
  if cmd.len = 0 && cmd.stage != .waitsRing then s3.endCopy c.blk id none else s3

/-- Every page of the destination of a copy of n bytes lies in the block's scratch (R248, R385). -/
def State.copyInside (s : State) (blk : Nat) (d : CopyAddr) (n : Nat) : Bool :=
  match d with
  | .loc _ => true
  | .va a => (pagePieces a.toNat (max 1 n)).all (fun (va, k) =>
      match (translate s (s.xreq blk) va .write).1 with
      | .ok x => (match x.place with | .localScr _ => x.place.covers s blk k | _ => false)
      | .error _ => false)

/-- Create a command that takes an entry at issue; with no free entry the instruction waits at issue (R224). -/
def State.createCopy (s : State) (c : Ctx) (cmd : CopyCmd) : Res :=
  let role := (s.ctxWave c).roleNo
  let s0 := if s.copyInside c.blk cmd.dst cmd.len then s else s.unclean c.blk
  if cmd.len = 0 then Res.next (s0.addCopy c { cmd with wave := c.wave, role := role, pc := c.pc, stage := .queued none })
  else
    match s.copyEntry c.blk role with
    | none => .stay s
    | some st => Res.next (s0.addCopy c { cmd with wave := c.wave, role := role, pc := c.pc, stage := st })

/-- Create a ring command (R225, R238). -/
def State.createRingCopy (s : State) (c : Ctx) (e : Enc) (q : Nat) (cmd : CopyCmd) : Res :=
  let k := s.block c.blk
  let r := k.ring q
  let role := (s.ctxWave c).roleNo
  let cmd := { cmd with wave := c.wave, role := role, pc := c.pc, rep := CopyRep.ring q }
  if r.canPush && r.pushers.isEmpty then
    match (if cmd.len = 0 then some (CopyAt.queued none) else s.copyEntry c.blk role) with
    | none => .stay s
    | some st =>
      let (r1, i, _) := r.push
      let s1 := s.setRing c.blk q r1
      let s2 := if r1.be then s1.contribute c.blk (r1.bb + i) { arrivals := 1, add := cmd.len } else s1
      Res.next (s2.addCopy c { cmd with slot := some i, stage := st })
  else if 16 ≤ (r.pushers.filter (fun x => match x with | .cmd _ => true | _ => false)).length then
    .ok (s.parkLanes c e c.members (.ringRoom q)) false 0
  else
    let s1 := s.setRing c.blk q { r with pushers := r.pushers ++ [.cmd s.serial] }
    Res.next (s1.addCopy c { cmd with stage := .waitsRing })

/-! ### CPY, CPYT, CPYR, CPYS (R235 to R239) -/

/-- A consumed s pair. -/
def useSPair (w : Wave) (code : BitVec 8) : Except Cause DWord := useD (w.sPair code)

/-- A consumed s register as a number. -/
def useS (w : Wave) (code : BitVec 8) : Except Cause Nat := (w.sCode code).use.map (fun x => x.toNat)

/-- An address operand (R233): a pair with a VA, or a block-local offset. -/
def copyAddr (w : Wave) (code : BitVec 8) (loc : Bool) : Except Cause CopyAddr :=
  if loc then (useS w code).map CopyAddr.loc else (useSPair w code).map CopyAddr.va

/-- A block-local range lies in the scratch (R233). -/
def CopyAddr.fits (a : CopyAddr) (len scratch : Nat) : Bool := match a with | .va _ => true | .loc off => decide (off + len ≤ scratch)

/-- The token report of a command joining the open batch (R231). -/
def Wave.tokenRep (w : Wave) (wave k : Nat) : CopyRep := .token wave k (w.token k).nb

/-- CPY (R235). -/
def execCpy (e : Enc) (s : State) : Outcome State Fault Refusal :=
  s.issue (.cpy e) e false (notInUnit e (fun s c =>
    let w := s.ctxWave c
    let scr := (s.block c.blk).scratch
    let ops : Except Cause (CopyAddr × CopyAddr × Nat) := do
      let d ← copyAddr w e.src0 (e.mod.getLsbD 3)
      let a ← copyAddr w e.src1 (e.mod.getLsbD 4)
      let n ← match e.len with | .l128 => .ok e.imm32.toNat | _ => useS w e.src2
      .ok (d, a, n)
    match ops with
    | .error k => Res.uni s k
    | .ok (d, a, n) =>
      if !d.fits n scr || !a.fits n scr then Res.uni s .accessFault
      else s.createCopy c { src := a, dst := d, len := n, rep := w.tokenRep c.wave (e.mod.toNat % 8) }))

/-- A field of the layout record. -/
def recField (x lo n : Nat) : Nat := x / 2 ^ lo % 2 ^ n

/-- The layout record of a 512-bit number, with the coordinates (R232). -/
def layoutOf (x : Nat) (coords : List Int) (store : Bool) : Layout :=
  { base := BitVec.ofNat 64 x
    fmt := recField x 64 4
    ndim := recField x 68 3
    swz := recField x 72 2
    pad := recField x 74 2
    fill := BitVec.ofNat 32 (recField x 96 32)
    sizes := (List.range 5).map (fun d => recField x (128 + 32 * d) 32)
    strides := (List.range 4).map (fun d => recField x (288 + 40 * d) 40)
    boxes := (List.range 5).map (fun d => recField x (448 + 8 * d) 8)
    coords := coords
    store := store }

/-- The record's fault at issue (R232). -/
def Layout.refused (t : Layout) (x : Nat) : Option Cause :=
  let w := layoutBits t.fmt
  let unit := if w = 6 then 24 else 8
  if recField x 71 1 ≠ 0 ∨ recField x 76 20 ≠ 0 ∨ recField x 488 24 ≠ 0 then some .accessFault
  else if t.ndim = 0 ∨ 5 < t.ndim ∨ t.pad = 3 then some .accessFault
  else if (List.range 5).any (fun d => decide (t.ndim ≤ d) && t.boxes.getD d 0 != 0) then some .accessFault
  else if w < 8 && (decide ((t.boxes.getD 0 0 + 1) * w % unit ≠ 0) || decide (t.sizes.getD 0 0 * w % unit ≠ 0) ||
      decide (t.coords.getD 0 0 * w % unit ≠ 0)) then some .align
  else if t.swz ≠ 0 ∧ t.rowBytes % t.span ≠ 0 then some .align
  else none

/-- CPYT (R236). -/
def cpytBody (e : Enc) (store : Bool) (s : State) (c : Ctx) : Res :=
  let w := s.ctxWave c
  let k := s.block c.blk
  let bar := e.mod.getLsbD 3
  let ring := e.mod.getLsbD 4
  let b := e.ext.toNat % 128
  let q := e.src2.toNat
  let ops : Except Cause (DWord × List Int × Nat) := do
    let a ← useSPair w e.src0
    let cs ← (List.range 5).mapM (fun i => (w.sAt (e.src1.toNat - 192 + i)).use)
    let off ← if ring then .ok 0 else useS w e.src2
    .ok (a, cs.map (fun x => x.toInt), off)
  -- the barrier or the ring that the instruction names (R351)
  let obj : BitVec 8 := if bar then barObj b else if ring then ringObj q else 0
  let fails (s : State) (x : Cause) : Res := .fault s { cause := x, obj := obj }
  if bar && (decide (k.nbar ≤ b) || !(k.bar b).v) then Res.bar s b .accessFault
  else if ring && decide (k.nring ≤ q) then Res.ring s q .accessFault
  else
    match ops with
    | .error x => fails s x
    | .ok (a, cs, off) =>
      match s.readVA c.blk a.toNat 64 with
      | .fault s1 x va syn => .fault s1 { cause := x, fva := BitVec.ofNat 64 va, syn := syn, obj := obj }
      | .ok s1 bs p =>
        if p then .fault s1 { cause := .poison, fva := a, obj := obj }
        else
          let x := natOfBytes bs
          let t := layoutOf x cs store
          match t.refused x with
          | some f => fails s1 f
          | none =>
            let n := t.boxBytes
            if ring then
              (if !(k.ring q).v || decide (2 ^ (k.ring q).lsz < n) then Res.ring s1 q .ringMisuse
                else s1.createRingCopy c e q { len := n, tensor := some t, kind := if store then 2 else 1, lrec := a, lay := x })
            else if off % 16 ≠ 0 ∨ (t.swz ≠ 0 ∧ off % t.span ≠ 0) then fails s1 .align
            else if k.scratch < off + n then fails s1 .accessFault
            else
              let s2 := if store then s1.unclean c.blk else s1
              s2.createCopy c { dst := .loc off, len := n, tensor := some t, kind := if store then 2 else 1, lrec := a, lay := x
                                rep := if bar then .bar b else w.tokenRep c.wave (e.mod.toNat % 8) }

/-- CPYT.LD (R236). -/
def execCpytLd (e : Enc) (s : State) : Outcome State Fault Refusal := s.issue (.cpytLd e) e false (notInUnit e (cpytBody e false))
/-- CPYT.ST (R236). -/
def execCpytSt (e : Enc) (s : State) : Outcome State Fault Refusal := s.issue (.cpytSt e) e false (notInUnit e (cpytBody e true))

/-- CPYR (R237, R238). -/
def execCpyr (e : Enc) (s : State) : Outcome State Fault Refusal :=
  s.issue (.cpyr e) e false (notInUnit e (fun s c =>
    let w := s.ctxWave c
    let k := s.block c.blk
    let ring := e.mod.getLsbD 2
    let q := e.src0.toNat
    let b := e.ext.toNat % 128
    -- the barrier or the ring that the instruction names (R351)
    let fails (k : Cause) : Res := if ring then Res.ring s q k else Res.bar s b k
    let ops : Except Cause (CopyAddr × CopyAddr × Nat) := do
      let d ← if ring then .ok (.loc 0) else copyAddr w e.src0 (e.mod.getLsbD 0)
      let a ← copyAddr w e.src1 (e.mod.getLsbD 1)
      let n ← useS w e.src2
      .ok (d, a, n)
    if ring && decide (k.nring ≤ q) then fails .accessFault
    else if !ring && (decide (k.nbar ≤ b) || !(k.bar b).v) then fails .accessFault
    else
      match ops with
      | .error x => fails x
      | .ok (d, a, n) =>
        if !a.fits n k.scratch || (!ring && !d.fits n k.scratch) then fails .accessFault
        else if ring then
          (if !(k.ring q).v || decide (2 ^ (k.ring q).lsz < n) then fails .ringMisuse
            else s.createRingCopy c e q { src := a, len := n, kind := 3 })
        else s.createCopy c { src := a, dst := d, len := n, rep := .bar b, kind := 3 }))

/-- CPYS (R239). -/
def execCpys (e : Enc) (s : State) : Outcome State Fault Refusal :=
  s.issue (.cpys e) e false (notInUnit e (fun s c =>
    let w := s.ctxWave c
    let k := s.block c.blk
    let q := e.ext.toNat % 32
    let ops : Except Cause (DWord × Nat × Nat) := do
      let d ← useSPair w e.src0
      let h ← useS w e.src1
      let n ← useS w e.src2
      .ok (d, h, n)
    if k.nring ≤ q then Res.ring s q .accessFault
    else
      match ops with
      | .error x => Res.ring s q x
      | .ok (d, h, n) =>
        let r := k.ring q
        let i := h % 256
        if !r.handleOk (BitVec.ofNat 32 h) || (r.slot i).st != 3 || decide (2 ^ r.lsz < n) then Res.ring s q .ringMisuse
        else
          s.createCopy c { src := .loc (r.slotOff i), dst := .va d, len := n, kind := 4, rep := w.tokenRep c.wave (e.mod.toNat % 8)
                           frees := if e.mod.getLsbD 3 then some (q, i) else none }))

/-! ### SEAL, WAITK, TESTK, CPYQ (R240 to R242) -/

/-- SEAL (R240): with 255 sealed batches outstanding it waits at issue. -/
def execSeal (e : Enc) (s : State) : Outcome State Fault Refusal :=
  s.issue (.seal e) e false (fun s c =>
    let w := s.ctxWave c
    let k := e.src0.toNat % 8
    let t := w.token k
    if t.out = 255 then .stay s
    else
      let w1 := (w.writeS e.dst (clean [BitVec.ofNat 32 t.nb])).setToken k { t with nb := (t.nb + 1) % 65536, open_ := 0, out := t.out + 1 }
      Res.next ((s.setCtxWave c w1).settleToken c.blk c.wave k))

/-- NB of every token (R241). -/
def Wave.tokenNbs (w : Wave) : Tab Nat := (List.range 8).map (fun k => (k, (w.token k).nb))

/-- A fault that names a token (R351). -/
def Res.token (s : State) (c : Ctx) (k : Nat) (q : Cause) : Res :=
  .fault s { cause := q, lanes := c.acting, perFibre := true, obj := BitVec.ofNat 8 k }

/-- WAITK (R241): a mask of 0 completes at once with no effect. -/
def execWaitk (e : Enc) (s : State) : Outcome State Fault Refusal :=
  s.issue (.waitk e) e false (fun s c =>
    let w := s.ctxWave c
    let mask := e.src0.toNat
    let st := e.mod.getLsbD 0
    if mask = 0 then Res.next s
    else if !w.batchesDone mask w.tokenNbs then .ok (s.parkLanes c e c.acting (.waitk mask w.tokenNbs)) false 0
    else
      match w.tokenErr mask with
      | none => Res.next ((if st then s.setCtxWave c (w.setQs c.acting e.dst.toNat true) else s).ownBatches c.blk c.wave mask)
      | some k =>
        if st then Res.next (s.setCtxWave c ((w.setQs c.acting e.dst.toNat false).clearErr (maskTokens mask)))
        else Res.token (s.setCtxWave c (w.clearErr [k])) c k (w.token k).ecause)

/-- TESTK (R241): a result of 1 without an error orders as a completed WAITK does. -/
def execTestk (e : Enc) (s : State) : Outcome State Fault Refusal :=
  s.issue (.testk e) e false (fun s c =>
    let w := s.ctxWave c
    let mask := e.src0.toNat
    let st := e.mod.getLsbD 0
    let done := w.batchesDone mask w.tokenNbs
    match (if done then w.tokenErr mask else none) with
    | some k =>
      if st then
        Res.next (s.setCtxWave c (((w.setQs c.acting e.dst.toNat true).setQs c.acting e.src1.toNat false).clearErr (maskTokens mask)))
      else Res.token (s.setCtxWave c (w.clearErr [k])) c k (w.token k).ecause
    | none =>
      let w1 := w.setQs c.acting e.dst.toNat done
      let s1 := s.setCtxWave c (if st then w1.setQs c.acting e.src1.toNat true else w1)
      Res.next (if done then s1.ownBatches c.blk c.wave mask else s1))

/-- CPYQ (R242). -/
def execCpyq (e : Enc) (s : State) : Outcome State Fault Refusal :=
  s.issue (.cpyq e) e false (uniBody e (fun _ w =>
    let t := w.token (e.src0.toNat % 8)
    .ok (clean [BitVec.ofNat 32 (t.nb + t.cb * 65536),
      BitVec.ofNat 32 (t.open_ + t.out * 256 + (if t.err then 65536 else 0) + t.ecause.code * 2 ^ 24)])))

/-! ### Steps of the copy engine (R246, R247) -/

/-- A refill (R247), capped while Foehn throttles the function (R435): the bucket and the pool afterwards, in 1/64 byte.  Half of an odd RATE
is no whole 1/64 byte: it is rounded down (log 161). -/
def refill (cap : Option Nat) (b p : Bucket) : Bucket × Bucket :=
  let rate := max 1 (match cap with | some c => min b.rate c | none => b.rate)
  let depth := (max 1 b.depth) * 16384
  let pay := if 0 < b.debt then min (rate / 2) b.debt else 0
  ({ b with debt := b.debt - pay, level := min (b.level + rate - pay) depth },
    { p with level := min (p.level + pay + p.rate) (p.depth * 16384) })

/-- The charge of a chunk of n bytes (R247); none where it waits. -/
def charge (b p : Bucket) (n : Nat) : Option (Bucket × Bucket) :=
  let c := 64 * n
  if c ≤ b.level then some ({ b with level := b.level - c }, p)
  else if c ≤ p.level ∧ b.debt + c ≤ (max 1 b.depth) * 16384 then some ({ b with debt := b.debt + c }, { p with level := p.level - c })
  else none

/-- The chunk a command starts next (R227, R244). -/
def CopyCmd.nextChunk (c : CopyCmd) : Option Nat :=
  if 16 ≤ c.flight.length then none
  else (List.range c.chunks).find? (fun i => !c.flight.contains i && !c.counted.contains i && decide (i ≤ c.first + 16))

/-- A command in the queue whose next chunk can start (R227, R248). -/
def Block.chunkReady (k : Block) (c : CopyCmd) : Option Nat :=
  match c.stage with
  | .queued _ => if k.saving then none else c.nextChunk
  | _ => none

/-- The bytes of the ready chunks of a function on a core. -/
def State.readyChunks (s : State) (core fn : Nat) : List Nat :=
  ((s.residents core).filter (fun (_, k) => k.fn == fn)).flatMap (fun ((_, k) : Nat × Block) =>
    k.copies.filterMap (fun (_, c) => (k.chunkReady c).map c.chunkBytes))

/-- A bucket would borrow for a chunk of n bytes, and may (R247). -/
def borrows (b p : Bucket) (n : Nat) : Bool := decide (b.level < 64 * n) && (charge b p n).isSome

/-- Another function with a chunk ready that must borrow comes before a function in the pool's turn, which starts after the function
that the pool served first in the cycle before (R247). -/
def State.turnBefore (s : State) (core fn : Nat) : Bool :=
  let cr := s.core core
  let place (f : Nat) : Nat := (f + 63 - cr.poolTurn) % 64
  (List.range 64).any (fun f => decide (place f < place fn) && !(s.readyChunks core f).isEmpty &&
    (s.readyChunks core f).all (fun n => borrows (cr.cbkt.get {} f) cr.cpool n))

/-- The refill of a cycle (R247): of the functions with a chunk ready, and once of the pool. -/
def State.refillCycle (s : State) (fns : List Nat) (cr : Core) : Core :=
  let r := fns.foldl (fun (acc : Tab Bucket × Bucket) f =>
    let (b, p) := refill (s.fn f).capRate (acc.1.get {} f) { acc.2 with rate := 0 }
    (acc.1.set f b, p)) (cr.cbkt, cr.cpool)
  { cr with cbkt := r.1, cpool := { r.2 with rate := cr.cpool.rate, level := min (r.2.level + cr.cpool.rate) (cr.cpool.depth * 16384) } }

/-- COPY_CHUNK_START (R246, R247): one cycle of the engine of a core, which starts at most one chunk, the next of a command; arguments are
the block and the command.  A command that waits for an entry takes one first; a block that is being saved starts no chunk
(R248). -/
def execCopyChunkStart (s : State) : Outcome State Fault Refusal :=
  let blk := s.arg 0
  let id := s.arg 1
  let k := s.block blk
  match k.copies.get? id, k.core with
  | some c, some core =>
    let st := if k.saving then none else if c.stage == .waitsEntry then s.copyEntry blk c.role else some c.stage
    match st with
    | some (.queued r) =>
      let c0 := { c with stage := CopyAt.queued r }
      let s0 := s.setBlock blk { k with copies := k.copies.set id c0 }
      let fns := (List.range 64).filter (fun f => !(s0.readyChunks core f).isEmpty)
      let cr := s0.core core
      let b := cr.cbkt.get {} k.fn
      let started := match c0.nextChunk with
        | none => none
        | some i =>
          let n := c.chunkBytes i
          if borrows b cr.cpool n && s0.turnBefore core k.fn then none
          else (charge b cr.cpool n).map (fun (b1, p1) =>
            ({ cr with cbkt := cr.cbkt.set k.fn b1, cpool := p1, poolTurn := if borrows b cr.cpool n then k.fn else cr.poolTurn }, i))
      .next (match started with
        | none => s0.setCore core (s0.refillCycle fns cr)
        | some (cr1, i) =>
          (s0.setBlock blk { k with copies := k.copies.set id { c0 with flight := c.flight ++ [i] } }).setCore core (s0.refillCycle fns cr1))
    | _ => .next s
  | _, _ => .next s

/-- COPY_CHUNK_COUNTED (R227, R228, R244, R245): a chunk in flight ends; arguments are the block, the command and the chunk. -/
def execCopyChunkCounted (s : State) : Outcome State Fault Refusal :=
  let blk := s.arg 0
  let id := s.arg 1
  let i := s.arg 2
  match (s.block blk).copies.get? id with
  | none => .next s
  | some c =>
    if !c.flight.contains i then .next s
    else
      -- a ring slot whose offset breaks the swizzle fails the command with ALIGN (R232)
      match c.rep, c.tensor with
      | .ring q, some t =>
        if t.swz ≠ 0 ∧ ((s.block blk).ring q).slotOff (c.slot.getD 0) % t.span ≠ 0 then .next (s.fatalCopy blk id .align 0 none)
        else .next (s.chunkDone blk id i)
      | _, _ => .next (s.chunkDone blk id i)

/-! ### The waiters of a ring end (R216, R225) -/

/-- The waiter of a ring end is not one any more: its wait has ended otherwise. -/
def Block.gone (k : Block) (x : RingWaiter) : Bool :=
  match x with
  | .wave w n => ((k.waves.get {} w).waits.get? n).isNone
  | .cmd id => (k.copies.get? id).isNone
  | .stream => k.stream.isNone

/-- Take the first waiter off an end of a ring. -/
def Ring.unqueue (r : Ring) (push : Bool) : Ring :=
  if push then { r with pushers := r.pushers.drop 1 } else { r with poppers := r.poppers.drop 1 }

/-- A ring command takes its slot (R225, R238): with fill barriers, one arrival and its bytes. -/
def State.giveCmdSlot (s : State) (blk q id : Nat) : State :=
  let (r1, i, _) := ((s.block blk).ring q).push
  let s1 := s.setRing blk q r1
  let k := s1.block blk
  let cmd := k.copies.get {} id
  let s2 := s1.setBlock blk { k with copies := k.copies.set id { cmd with slot := some i, stage := .waitsEntry } }
  let s3 := if r1.be then s2.contribute blk (r1.bb + i) { arrivals := 1, add := cmd.len } else s2
  if cmd.len = 0 then s3.endCopy blk id none else s3

/-- RING_WAITER_SERVED (R216, R225, R258): arguments are the block, the ring, and 1 for its TAIL or 0 for its HEAD.  The
stream only learns that its turn has come: it takes the slot as it goes on. -/
def execRingWaiterServed (s : State) : Outcome State Fault Refusal :=
  let blk := s.arg 0
  let q := s.arg 1
  let push := s.arg 2 == 1
  let k := s.block blk
  let r := k.ring q
  match (if push then r.pushers else r.poppers) with
  | [] => .next s
  | x :: _ =>
    if k.gone x then .next (s.setRing blk q (r.unqueue push))
    else if !r.v || !(if push then r.canPush else r.canPop) || k.core.isNone || k.saving then .next s
    else
      match x with
      | .wave w n =>
        let wv := k.waves.get {} w
        match wv.waits.get? n with
        | none => .next s
        | some p =>
          if wv.onHold then .next s
          else
            let (r1, xs) := (r.unqueue push).handOut push
            let s1 := s.setRing blk q r1
            let wv1 := xs.zipIdx.foldl (fun v (y, i) => v.setSHeld (lowLane p.lanes) (p.enc.dst.toNat - 192 + i) y) wv
            .next ((s1.setWave blk w (wv1.wake n)).acquire blk w)
      | .cmd id =>
        let s1 := (s.setRing blk q (r.unqueue push)).giveCmdSlot blk q id
        -- a wave that waits for room in the list tries again (R225)
        .next (s1.setBlock blk ((s1.block blk).mapWaves (fun w => w.wakeWhere (fun y => y == .ringRoom q))))
      | .stream =>
        match k.stream with
        | none => .next s
        | some m => if m.wait == some (.ring q push) then .next (s.setBlock blk { k with stream := some { m with wait := none } }) else .next s

end Sys2Proof.Machine
end

