-- ==== Sys2Proof/Machine/Place.lean ====
section
/-!
DEFINITION. Sys2Proof/Machine/Place.lean: the room of a core (R18, R22, R224, R356), the start of a
block's waves (R72, R206), and the order in which a core takes tasks and blocks (R295, R296, R380).
-/

namespace Sys2Proof.Machine

open Host

/-! ### The room of a core -/

/-- The registers a wave takes in its core's file (R356). -/
def Wave.regs (w : Wave) : Nat := if w.emWindow = 0 then w.window else w.window + 2 * w.emWindow + 64

/-- The wave holds its window on the core: it is not evicted, and has not ended with no load outstanding (R87, R383). -/
def Wave.holds (w : Wave) : Bool := !w.evicted && (!w.ended || w.acc.any (fun a => a.kind.readsOnly))

/-- What a gang, or a block, needs of a core (R18, R224). -/
structure Need where
  waves : Nat := 0
  regs : Nat := 0
  bars : Nat := 0
  rings : Nat := 0
  scratch : Nat := 0
  stream : Nat := 0
  /-- copy-queue entries reserved for roles (R224) -/
  entries : Nat := 0
  deriving DecidableEq, Repr

/-- The sum of two needs. -/
def Need.add (a b : Need) : Need :=
  { waves := a.waves + b.waves, regs := a.regs + b.regs, bars := a.bars + b.bars, rings := a.rings + b.rings
    scratch := a.scratch + b.scratch, stream := a.stream + b.stream, entries := a.entries + b.entries }

/-- What a block takes of its core. -/
def Block.need (b : Block) : Need :=
  let ws := (b.waves.filter (fun (_, w) => w.holds)).map (·.2)
  { waves := ws.length
    regs := ws.foldl (fun n w => n + w.regs) 0
    bars := b.nbar
    rings := b.nring
    scratch := b.scratch
    stream := if b.stream.isSome then 1 else 0
    entries := 2 * (b.waves.filterMap (fun (_, w) => w.roleNo)).eraseDups.length }

/-- The blocks on a core. -/
def State.onCore (s : State) (core : Nat) : List (Nat × Block) := s.blocks.filter (fun (_, b) => b.core == some core)

/-- What the blocks on a core take. -/
def State.taken (s : State) (core : Nat) : Need := (s.onCore core).foldl (fun n (_, b) => n.add b.need) {}

/-- The core holds at most this much (R18, R224); scratch is judged apart. -/
def Need.within (n : Need) : Bool :=
  decide (n.waves ≤ 64) && decide (n.regs ≤ 12288) && decide (n.bars ≤ 128) && decide (n.rings ≤ 32) && decide (n.stream ≤ 1) &&
  decide (n.entries ≤ 48)

/-- The lowest offset of the scratch share at which n bytes are free. -/
def State.scratchFit (s : State) (core n : Nat) : Option Nat :=
  let used := ((s.onCore core).map (fun (_, b) => (b.scrBase, b.scratch))).filter (fun (_, z) => z != 0)
  let free (o : Nat) : Bool :=
    decide (o + n ≤ s.scratchShare core) && used.all (fun (a, z) => decide (o + n ≤ a) || decide (a + z ≤ o))
  if n = 0 then some 0
  else
    (0 :: used.map (fun (a, z) => a + z)).foldl (fun (m : Option Nat) o =>
      if free o then (match m with | some x => some (min x o) | none => some o) else m) none

/-- Where a need fits on a core: the start of its scratch; none where it does not fit. -/
def State.room (s : State) (core : Nat) (n : Need) : Option Nat :=
  if ((s.taken core).add n).within then s.scratchFit core n.scratch else none

/-! ### Waves at their start (R72, R291, R356, R377) -/

/-- A wave of a gang. -/
structure GangWave where
  role : Role := .vector
  roleNo : Option Nat := none
  stage : Nat := 0
  tstamp : DWord := 0
  entry : DWord := 0
  window : Nat := 8
  fibres : Nat := 1
  elastic : Option Nat := none
  s : Tab PWord := []
  deriving DecidableEq, Repr

/-- E of a wave that is placed now, 0 where no handler exists (R356). -/
def Fn.emWindowNow (f : Fn) : Nat := if f.embase.getLsbD 0 then emRegs f.emctl else 0

/-- The mask of the first n lanes. -/
def firstLanes (n : Nat) : BitVec 32 := maskOf (List.range n)

/-- A wave at its start. -/
def GangWave.start (g : GangWave) (idx em : Nat) : Wave :=
  { idx := idx
    role := g.role
    roleNo := g.roleNo
    stage := g.stage
    tstamp := g.tstamp
    window := g.window
    emWindow := em
    lanes := (List.range g.fibres).map (fun l => (l, { cond := .runnable, pc := g.entry, fibid := BitVec.ofNat 32 l }))
    s := g.s
    forkSerial := BitVec.ofNat 32 g.fibres
    batches := [⟨firstLanes g.fibres⟩]
    elastic := g.elastic }

/-- The registers s0 upwards from words. -/
def startRegs (xs : List PWord) : Tab PWord := (xs.zipIdx.map (fun (x, i) => (i, x))).filter (fun (_, x) => x != {})

/-- The need of a gang. -/
def gangNeed (gs : List GangWave) (em bars rings scratch : Nat) (stream : Bool) : Need :=
  { waves := gs.length
    regs := gs.foldl (fun n g => n + (if em = 0 then g.window else g.window + 2 * em + 64)) 0
    bars := bars
    rings := rings
    scratch := scratch
    stream := if stream then 1 else 0
    entries := 2 * (gs.filterMap (fun g => g.roleNo)).eraseDups.length }

/-- Put a new block on a core: its handle is its number in the table (log 18). -/
def State.addBlock (s : State) (core base : Nat) (b : Block) (gs : List GangWave) : State × Nat :=
  let (id, s1) := (s.forgetCode core).drawSerial
  let em := (s.fn b.fn).emWindowNow
  let ws := gs.zipIdx.map (fun (g, i) => (i, g.start i em))
  -- a wave starts with an empty L1 on its core (R137), which also is the acquire of a task's start (R299, R336)
  let s2 := s1.emptyL1 core
  ((if b.stream.isSome then s2.clearTiles core else s2).setBlock id { b with core := some core, handle := id % 2 ^ 32, waves := ws, scrBase := base, placedAt := s.clock }, id)

/-! ### Serving clusters (R384, R415 to R417) -/

/-- A cluster takes new blocks of a function: it holds the cluster, which is neither reclaimed nor draining. -/
def State.serves (s : State) (fn core : Nat) : Bool :=
  let k := core / 8
  s.clusterHolder k == fn && s.clusterReady k && !s.clusterRecl k && (s.draining.get? k).isNone && !(s.fn fn).stopIssue

/-- A cluster takes tasks: its owner's, while it is not lent (R416). -/
def State.servesTasks (s : State) (fn core : Nat) : Bool :=
  s.serves fn core && s.clusterOwner (core / 8) == fn && s.ready fn

/-! ### Tasks of a core (R291, R295) -/

/-- The footprint of a task: window, fibres and scratch (R290). -/
def Task.window (t : Task) : Nat := 8 * (t.foot.toNat % 32)
def Task.fibres (t : Task) : Nat := t.foot.toNat / 32 % 32 + 1
def Task.scratch (t : Task) : Nat := 256 * (t.foot.toNat / 1024 % 65536)

/-- The wave of a task (R291). -/
def Task.wave (t : Task) : GangWave :=
  let d (x : DWord) (p : Bool) : List PWord := (dwords x).map (fun v => ⟨v, p⟩)
  { tstamp := match t.ord with | some o => o.ts | none => 0
    entry := t.entry
    window := t.window
    fibres := t.fibres
    s := startRegs (d t.arg false ++ [⟨t.serial, false⟩, ⟨BitVec.ofNat 32 t.depth, false⟩] ++ d t.val1 t.val1Poison ++
      d t.val2 t.val2Poison ++ [⟨t.stWord, false⟩]) }

/-- Where a task fits on a core (R22). -/
def State.taskRoom (s : State) (core : Nat) (t : Task) : Option Nat :=
  s.room core (gangNeed [t.wave] (s.fn t.fn).emWindowNow 0 0 t.scratch false)

/-- The task is the frontier of its domain (R321). -/
def State.taskFrontier (s : State) (t : Task) : Bool :=
  match t.ord, t.key with
  | some o, some k => k == s.front t.fn o.dom
  | _, _ => false

/-- The task may be dispatched on a core as far as its kind goes (R324, R339). -/
def State.taskAllowed (s : State) (core : Nat) (t : Task) : Bool :=
  s.servesTasks t.fn core &&
  (t.ord.isNone || (s.specOn core && (!t.serialOnly || s.taskFrontier t)))

/-- Tasks in ascending key. -/
def sortByKey (ts : List Task) : List Task :=
  ts.foldl (fun acc t =>
    let k := t.key.getD 0
    acc.filter (fun u => decide (u.key.getD 0 < k)) ++ [t] ++ acc.filter (fun u => decide (k ≤ u.key.getD 0))) []

/-- The tasks waiting on a core, ordered ones by key and plain ones in spawn order. -/
def State.waitingTasks (s : State) (core : Nat) : List Task × List Task :=
  let own := s.tasks.filter (fun t => t.core == core && !t.overflow && s.taskAllowed core t)
  (sortByKey (own.filter (fun t => t.ord.isSome)), own.filter (fun t => t.ord.isNone))

/-- The tasks of a core in the order in which it looks at them: the kinds alternate (R295). -/
def State.taskOrder (s : State) (core : Nat) : List Task :=
  let (o, p) := s.waitingTasks core
  let kinds := if (s.core core).ordNext then (o, p) else (p, o)
  kinds.1 ++ kinds.2

/-- The task a core dispatches next from its own queue, and those it passes over (R295). -/
def State.ownTask (s : State) (core : Nat) : Option (Task × List Task) :=
  let ts := s.taskOrder core
  match ts.find? (fun t => decide (64 ≤ t.passed)) with
  | some t => if (s.taskRoom core t).isSome then some (t, []) else none
  | none =>
    match ts.find? (fun t => (s.taskRoom core t).isSome) with
    | none => none
    | some t => some (t, ts.takeWhile (fun u => u.id != t.id))

/-- The ageing interval of a function in cycles (R296). -/
def Fn.age (f : Fn) : Nat := 64 * max 1 (f.tctl.toNat % 65536)

/-- The task has been queued for the ageing interval. -/
def State.aged (s : State) (t : Task) : Bool := decide ((s.fn t.fn).age ≤ s.clock - t.queuedAt)

/-- A task of a core that has been passed over 64 times stops all further dispatch there until it fits (R295). -/
def State.dispatchStops (s : State) (core : Nat) : Bool :=
  (s.taskOrder core).any (fun t => decide (64 ≤ t.passed) && (s.taskRoom core t).isNone)

/-- The task a core with none of its own that fits takes from another (R296): the lowest-keyed stealable ordered task, else the oldest
stealable plain task of the first core that has one. -/
def State.stolenTask (s : State) (fn core : Nat) : Option Task :=
  if (s.ownTask core).isSome || s.dispatchStops core then none
  else
    let of (c : Nat) (ord : Bool) : Option Task :=
      let ts := s.tasks.filter (fun t => t.fn == fn && t.core == c && t.ord.isSome == ord && t.stealable && s.taskAllowed core t &&
        (s.taskRoom core t).isSome)
      (if ord then sortByKey ts else ts).head?
    let cs := (s.placeOrder fn core).filter (fun c => c != core)
    match (cs.filterMap (fun c => of c true)) with
    | [] => cs.findSome? (fun c => of c false)
    | ts => (sortByKey ts).head?

/-! ### Launches (R373 to R378) -/

/-- A field of a launch record. -/
def Launch.field (l : Launch) (lo n : Nat) : Nat := l.record / 2 ^ lo % 2 ^ n

/-- A signed field of a launch record. -/
def Launch.signed (l : Launch) (lo n : Nat) : Int := (BitVec.ofNat n (l.field lo n)).toInt

/-- A role descriptor (R374). -/
structure RoleDesc where
  entry : DWord
  kind : Nat
  stage : Nat
  regs : Nat
  wmin : Nat
  wmax : Nat
  fm1 : Nat
  inp : Nat
  inv : Bool
  outp : Nat
  outv : Bool
  rsv : Nat
  deriving DecidableEq, Repr

/-- Role descriptor i of a launch; WMAX 0 acts as WMIN. -/
def Launch.role (l : Launch) (i : Nat) : RoleDesc :=
  let f (lo n : Nat) : Nat := l.field (768 + 128 * i + lo) n
  { entry := BitVec.ofNat 64 (f 0 64), kind := f 64 2, stage := f 66 2, regs := f 68 5, wmin := f 73 6
    wmax := if f 79 6 = 0 then f 73 6 else f 79 6
    fm1 := f 85 5, inp := f 90 5, inv := f 95 1 != 0, outp := f 96 5, outv := f 101 1 != 0, rsv := f 102 26 }

/-- The used role descriptors with their numbers (R373): ROLE0 where the launch declares no roles. -/
def Launch.roles (l : Launch) : List (Nat × RoleDesc) :=
  (List.range (max 1 (min 4 (l.field 0 3)))).map (fun i => (i, l.role i))

def Launch.gx (l : Launch) : Nat := l.field 128 32
def Launch.gy (l : Launch) : Nat := l.field 160 16
def Launch.gz (l : Launch) : Nat := l.field 176 16
/-- The number of blocks. -/
def Launch.blocks (l : Launch) : Nat := l.gx * l.gy * l.gz

/-- The waves of a block of a launch, role by role (R374, R377, R382). -/
def Launch.gang (l : Launch) : List GangWave :=
  let arg := BitVec.ofNat 64 (l.field 64 64)
  let regs := startRegs (clean (dwords arg ++ [l.ticket]))
  l.roles.flatMap (fun (i, r) =>
    if r.kind = 3 then []
    else (List.range r.wmax).map (fun n =>
      { role := if r.kind = 1 then .copy else .vector
        roleNo := if l.field 0 3 = 0 then none else some i
        stage := r.stage
        entry := r.entry
        window := 8 * r.regs
        fibres := r.fm1 + 1
        elastic := if n < r.wmin then none else some r.inp
        s := regs }))

/-- The matrix role's entry. -/
def Launch.stream (l : Launch) : Option DWord := ((l.roles.find? (fun (_, r) => r.kind == 3)).map (fun (_, r) => r.entry))

/-- What a block of a launch needs. -/
def Launch.need (l : Launch) (em : Nat) : Need :=
  gangNeed l.gang em (l.field 208 8) (l.field 216 8) (256 * l.field 192 16) l.stream.isSome

/-- An entry of the ring table (R375). -/
def ringEntry (w : Word) : Option Ring :=
  if w.getLsbD 0 then
    some { lsz := 6 + w.toNat / 2 % 16, ns := w.toNat / 32 % 256, be := w.getLsbD 13, bb := w.toNat / 2 ^ 14 % 128, v := true }
  else none

/-- The declared rings with their bases, and the end of the last (R206). -/
def ringLayout (table : List Word) : Tab Ring × Nat :=
  table.zipIdx.foldl (fun (acc : Tab Ring × Nat) (w, i) =>
    match ringEntry w with
    | none => acc
    | some r =>
      let z := 2 ^ r.lsz
      let base := (acc.2 + z - 1) / z * z
      (acc.1.set i { r with base := base }, base + (r.ns + 1) * z)) ([], 0)

/-- The barriers of a block whose declared rings have fill barriers (R206). -/
def fillBars (rs : Tab Ring) : Tab Bar :=
  rs.foldl (fun t (_, r) => if r.be then (List.range (r.ns + 1)).foldl (fun t i => t.set (r.bb + i) (Bar.fill {})) t else t) []

/-! ### Tickets (R372, R378, R391) -/

/-- How many records behind CNT a ticket lies, counting the last issued as 1; none where its queue has not issued it. -/
def Queue.behind (q : Queue) (num : Nat) : Option Nat :=
  if q.count = 0 then none
  else
    let d := (q.count - 1 + 2 ^ 28 - num) % 2 ^ 28 + 1
    if d ≤ q.count then some d else none

/-- A ticket's state: none where it has not been issued, else whether its launch has completed. -/
def State.ticketDone (s : State) (fn : Nat) (t : Word) : Option Bool :=
  match ((s.fn fn).queues.get {} (t.toNat / 2 ^ 28)).behind (t.toNat % 2 ^ 28) with
  | none => none
  | some d => some (decide (4096 < d) || !(s.launches.any (fun l => l.fn == fn && l.ticket == t)))

/-- The launch a block belongs to. -/
def State.launchOf (s : State) (b : Block) : Option Launch :=
  if b.task.isSome then none else s.launches.find? (fun l => l.fn == b.fn && l.ticket == b.ticket)

/-- The linear index of the launch's next block, if one is unplaced (R380). -/
def Launch.nextIdx (l : Launch) : Option Nat :=
  match l.again with
  | i :: _ => some i
  | [] => if l.next < l.blocks then some l.next else none

/-- Every predecessor has completed (R378). -/
def State.predsDone (s : State) (l : Launch) : Bool :=
  (List.range 4).all (fun i =>
    let p := BitVec.ofNat 32 (l.field (640 + 32 * i) 32)
    p == 0xFFFFFFFF || s.ticketDone l.fn p == some true)

/-- The launches that may place a block, in the order of R380: by PRIO, and within one PRIO the queues take turns. -/
def State.launchOrder (s : State) (fn : Nat) : List Launch :=
  let ls := s.launches.filter (fun l => l.fn == fn && l.checked && l.nextIdx.isSome && s.predsDone l)
  let turn := (s.fn fn).turn
  (List.range 8).reverse.flatMap (fun p =>
    (List.range 16).filterMap (fun i =>
      (ls.filter (fun l => l.field 5 3 == p && l.ticket.toNat / 2 ^ 28 == (turn + i) % 16)).head?))

/-! ### The core of a block (R31, R380) -/

/-- The preferred core of a block: the home of its anchor. -/
def State.anchorCore (s : State) (l : Launch) (x y z : Nat) : Option Nat :=
  if l.field 12 1 = 0 then none
  else
    let a : Int := (l.field 448 64 : Int) + x * l.signed 512 32 + y * l.signed 544 32 + z * l.signed 576 32
    let va := (a % 2 ^ 64).toNat
    match (s1Translate s l.fn va []).1 with
    | .error _ => none
    | .ok p =>
      if va < 2 ^ 55 then
        (match rangeOf (s1Out p va) with
          | .hbm => s.physCore l.fn (homeOf (s.coreCount l.fn) (s1Out p va))
          | .slice n _ => s.physCore l.fn n
          | _ => none)
      else none

/-- The cores a block of a function may go to, in the order of R31 from its preferred core. -/
def State.blockCores (s : State) (fn : Nat) (pref : Option Nat) : List Nat :=
  let all := (List.range 256).filter (fun c => s.serves fn c)
  match pref with
  | none => all
  | some p =>
    let rest := all.filter (fun c => c != p)
    (if all.contains p then [p] else []) ++ rest.filter (fun c => c / 8 == p / 8) ++
      rest.filter (fun c => c / 32 == p / 32 && c / 8 != p / 8) ++ rest.filter (fun c => c / 32 != p / 32)

/-- The first core of a list with room. -/
def State.firstRoom (s : State) (cs : List Nat) (n : Need) : Option (Nat × Nat) :=
  cs.findSome? (fun c => (s.room c n).map (fun o => (c, o)))

/-- The coordinates of a linear index, x fastest. -/
def Launch.coords (l : Launch) (i : Nat) : Nat × Nat × Nat := (i % l.gx, i / l.gx % l.gy, i / (l.gx * l.gy))

/-- A core may take a block of a launch: one with SPEC only cores of the function's own clusters with speculation enabled (R373, R416). -/
def State.launchCoreOk (s : State) (l : Launch) (c : Nat) : Bool := l.field 4 1 = 0 || (s.specOn c && s.clusterOwner (c / 8) == l.fn)

/-- The core and scratch offset for the next block of a launch (R31, R373 SPEC). -/
def State.launchPlace (s : State) (l : Launch) : Option (Nat × Nat × Nat) :=
  match l.nextIdx with
  | none => none
  | some i =>
    let (x, y, z) := l.coords i
    let cs := (s.blockCores l.fn (s.anchorCore l x y z)).filter (s.launchCoreOk l)
    (s.firstRoom cs (l.need (s.fn l.fn).emWindowNow)).map (fun (c, o) => (i, c, o))

/-- The core and scratch offset for the block at the head of a function's restore queue: a block of a launch goes where R31 and the launch
place it, a task to the owner's clusters (R373, R380, R416). -/
def State.restorePlace (s : State) (fn : Nat) : Option (Nat × Nat × Nat) :=
  match s.restores.find? (fun b => (s.block b).fn == fn) with
  | none => none
  | some b =>
    let k := s.block b
    let cs := match s.launchOf k with
      | some l => (s.blockCores fn (s.anchorCore l k.x k.y k.z)).filter (s.launchCoreOk l)
      | none => (s.blockCores fn none).filter (fun c => k.task.isNone || s.clusterOwner (c / 8) == fn)
    (s.firstRoom cs k.need).map (fun (c, o) => (b, c, o))

end Sys2Proof.Machine
end

