-- ==== Sys2Proof/Machine/Task.lean ====
section
/-!
DEFINITION. Sys2Proof/Machine/Task.lean: the instructions of the task engine, opcodes 0xC8 to 0xD0, and its steps (R290 to R309).
-/

namespace Sys2Proof.Machine

open Host

/-! ### Spawn groups (R290 to R293) -/

/-- A spawn group as an instruction reads it. -/
structure Group where
  foot : Word
  flags : Word
  entry : DWord
  arg : DWord
  aff : DWord
  deriving DecidableEq, Repr

/-- A consumed pair of uniform registers by its code. -/
def Wave.useSPairAt (w : Wave) (code : BitVec 8) : Except Cause DWord := useD (w.sPair code)

/-- Read a spawn group: the entry only for a continuation, the affinity address only where one is given. -/
def Wave.readSpawn (w : Wave) (code : BitVec 8) (cont : Bool) : Except Cause Group := do
  let foot ← (w.sCode code).use
  let flags ← (w.sCode (code + 1)).use
  let entry ← if cont then w.useSPairAt (code + 2) else .ok 0
  let arg ← w.useSPairAt (code + 4)
  let aff ← if flags.getLsbD 0 then .ok 0 else w.useSPairAt (code + 6)
  .ok { foot := foot, flags := flags, entry := entry, arg := arg, aff := aff }

/-- The smallest scratch share among a function's cores. -/
def State.minShare (s : State) (fn : Nat) : Nat :=
  match s.coresOf fn with
  | [] => 0
  | c :: cs => cs.foldl (fun m p => min m (s.scratchShare p)) (s.scratchShare c)

/-- The checks of R290 on a group and an entry. -/
def State.spawnFault (s : State) (fn : Nat) (g : Group) (entry : DWord) : Option Cause :=
  let n := g.foot.toNat
  let units := n / 1024 % 65536
  if n % 32 = 0 ∨ 24 < n % 32 ∨ 39936 < units ∨ 2 ^ 26 ≤ n ∨ 1 < g.flags.toNat then some .accessFault
  else if s.minShare fn < 256 * units then some .accessFault
  else if entry &&& 3 != 0 then some .align
  else if entry &&& 0x1F == 0x1C then some .illegalPlacement
  else none

/-- The depth of the tasks a block creates (R292). -/
def Block.childDepth (b : Block) : Nat := (match b.task with | some t => t.depth | none => 0) + 1

/-- The next spawn serial of the issuing core (R293).  A core outside the function's own numbering has no logical number; the
low byte is then free (log 19). -/
def State.nextSerial (s : State) (blk : Nat) : Word × State :=
  let core := s.coreOf blk
  let fn := (s.block blk).fn
  let n := (s.core core).spawnCount.get 0 fn % 2 ^ 24
  match s.logCore fn core with
  | some l => (BitVec.ofNat 32 (n * 256 + l), s)
  | none => let (l, s1) := s.drawPick 256; (BitVec.ofNat 32 (n * 256 + l), s1)

/-- Count a serial as taken (R293). -/
def State.tookSerial (s : State) (blk : Nat) : State :=
  let core := s.coreOf blk
  let fn := (s.block blk).fn
  let c := s.core core
  s.setCore core { c with spawnCount := c.spawnCount.set fn ((c.spawnCount.get 0 fn + 1) % 2 ^ 24) }

/-- The task a group describes, issued by a block. -/
def Group.task (g : Group) (b : Block) (id : Nat) (entry : DWord) (serial : Word) (core : Nat) : Task :=
  { id := id, fn := b.fn, foot := g.foot, entry := entry, arg := g.arg
    aff := if g.flags.getLsbD 0 then none else some g.aff
    serial := serial, depth := b.childDepth, core := core, codeFrom := b.codeFrom }

/-- A release by a wave (R121, R299); inside a unit it has no effect (R334). -/
def State.release (s : State) (blk wave : Nat) : State :=
  if (s.wave blk wave).spec.sid.isSome then s else (s.doRel blk wave).reportBut blk wave (s.wave blk wave).lateReady

/-- Hold an operation in the issuing unit (R334). -/
def State.hold (s : State) (sid : Nat) (h : Held) : State :=
  let u := s.unit sid
  s.setUnit sid { u with held := u.held ++ [h] }

/-! ### TSPAWN (R301, R318) -/

/-- Where a new task goes, and the issuing wave goes on: the common end of TSPAWN.  `now` is false where the spawn is held. -/
def spawnEnd (e : Enc) (t : Task) (serial : Word) (held : Option Nat) (s : State) (c : Ctx) : Res :=
  let target := s.contTarget t (s.coreOf c.blk)
  let done (s : State) : Res :=
    let s1 := s.tookSerial c.blk
    Res.next (s1.setCtxWave c ((s1.ctxWave c).writeS e.dst [⟨serial, false⟩]))
  match held with
  | some sid => done (s.hold sid (.spawn { t with core := target }))
  | none =>
    match s.enqueue t target with
    | none => .fault s { cause := .accessFault, fva := (s.fn t.fn).overflowBase }
    | some s1 => done (s1.release c.blk c.wave)

/-- The entry of TSPAWN: an offset in 4-byte units (R300). -/
def spawnEntry (e : Enc) (c : Ctx) : DWord := c.pc + branchOffset e

/-- TSPAWN, plain (R301). -/
def execTspawn (e : Enc) (s : State) : Outcome State Fault Refusal :=
  s.issue (.tspawn e) e false (fun s c =>
    let b := s.block c.blk
    match (s.ctxWave c).readSpawn e.src0 false with
    | .error k => Res.uni s k
    | .ok g =>
      let t := spawnEntry e c
      match s.spawnFault b.fn g t with
      | some k => Res.uni s k
      | none =>
        if 16 < b.childDepth then Res.uni s .spawnDepth
        else
          let (serial, s1) := s.nextSerial c.blk
          let (id, s2) := s1.drawSerial
          spawnEnd e (g.task b id t serial (s.coreOf c.blk)) serial (s.ctxWave c).spec.sid s2 c)

/-- The order checks of TSPAWN.ORD (R318): a fault, or none. -/
def State.orderFault (s : State) (b : Block) (d : Nat) (key : Nat) : Option Cause :=
  let dom := (s.fn b.fn).domains.get {} d
  match b.task.bind (fun t => t.ord.bind (fun o => if o.dom == d then t.key else none)) with
  | some own => if key < own then some .tstampOrder else none
  | none => (match dom.floor with | some f => if f < key then none else some .tstampOrder | none => none)

/-- TSPAWN.ORD (R301, R318). -/
def execTspawnOrd (e : Enc) (s : State) : Outcome State Fault Refusal :=
  s.issue (.tspawnOrd e) e false (fun s c =>
    let b := s.block c.blk
    let w := s.ctxWave c
    let d := e.mod.toNat % 4
    match (do let g ← w.readSpawn e.src0 false; let ts ← w.useSPairAt e.src1; .ok (g, ts) : Except Cause (Group × DWord)) with
    | .error k => Res.uni s k
    | .ok (g, ts) =>
      let t := spawnEntry e c
      match s.spawnFault b.fn g t with
      | some k => Res.uni s k
      | none =>
        if 16 < b.childDepth then Res.uni s .spawnDepth
        else if !((s.fn b.fn).domains.get {} d).open_ then Res.uni s .accessFault
        else
          let own := b.task.bind (fun t => t.ord)
          let other := match own with | some o => o.dom != d | none => false
          match w.spec.sid, other with
          | some sid, true => .stay (s.untilPromoted sid c e)
          | _, _ =>
            let (serial, s1) := s.nextSerial c.blk
            let key := ts.toNat * 2 ^ 32 + serial.toNat
            match s.orderFault b d key with
            | some k => Res.uni s k
            | none =>
              let (id, s2) := s1.drawSerial
              let t1 := g.task b id t serial (s.coreOf c.blk)
              let parent := if w.spec.sid.isSome then b.task.map (·.id) else none
              let inTask := match w.spec.sid with | some sid => (s.unit sid).task.isSome | none => false
              let t2 := { t1 with ord := some ⟨d, ts⟩, parent := if inTask then parent else none }
              spawnEnd e t2 serial (if inTask then none else w.spec.sid) s2 c)

/-! ### Futures (R297, R298, R303 to R307) -/

/-- A future that an operation names. -/
def State.futurePlace (s : State) (c : Ctx) (va : DWord) (acc : Acc) : Except (Cause × Option Syndrome) FutRef × State :=
  if va.toNat % 16 ≠ 0 then (.error (.align, none), s)
  else
    match translate s (s.xreq c.blk) va.toNat acc with
    | (.error (k, syn), s1) => (.error (k, if va.toNat < 2 ^ 55 then some syn else none), s1)
    | (.ok x, s1) =>
      if x.sc then (.error (.accessFault, none), s1)
      else
        -- the step reads the record at its home (R37)
        let met (r : FutRef) : State := if acc == .write || (s1.ctxWave c).spec.sid.isSome then s1 else s1.meet (s1.ctxFn c) r.addr 16
        match x.place with
        | .hbm a =>
          let r : FutRef := ⟨x.gpa, a, (s1.homeCore (s1.ctxFn c) x.gpa x.place (s1.coreOf c.blk)).getD 0⟩
          (.ok r, met r)
        | .slice p off => let r : FutRef := ⟨x.gpa, sliceAddr p off, p⟩; (.ok r, met r)
        | _ => (.error (.accessFault, none), s1)

/-- A fault that names a future's VA (R350). -/
def Res.future (s : State) (va : DWord) (k : Cause) (syn : Option Syndrome) : Res := .fault s { cause := k, fva := va, syn := syn }

/-- An operation on the future that SRC0 names. -/
def onFuture (e : Enc) (acc : Acc) (f : State → Ctx → DWord → FutRef → Res) (s : State) (c : Ctx) : Res :=
  match (s.ctxWave c).useSPairAt e.src0 with
  | .error k => Res.uni s k
  | .ok va =>
    match s.futurePlace c va acc with
    | (.error (k, syn), s1) => Res.future s1 va k syn
    | (.ok r, s1) => f s1 c va r

/-- The step of an operation on a future discards the core's copy of the record (R114, R298). -/
def State.dropFuture (s : State) (c : Ctx) (r : FutRef) : State := s.dropL1 (s.coreOf c.blk) r.addr 16

/-- FNEW (R304). -/
def execFnew (e : Enc) (s : State) : Outcome State Fault Refusal :=
  s.issue (.fnew e) e false (onFuture e .write (fun s c va r =>
    match (s.ctxWave c).spec.sid with
    | some sid => Res.next (s.hold sid (.fnew r))
    | none =>
      match s.futNew (s.ctxFn c) r with
      | .ok s1 => Res.next (s1.dropFuture c r)
      | .double => Res.future s va .doubleResolve none
      | .fault k => Res.future s va k none))

/-- A resolution outside every unit (R298, R299, R305): a release of the wave, which waits for its writes at peers, and the step at the
record's home. -/
def resolveNow (s : State) (c : Ctx) (va : DWord) (r : FutRef) (st : Nat) (val : DWord) (ok : State → Res) (double : State → Res) : Res :=
  if (s.ctxWave c).owesPeer then .stay s
  else
    let s1 := s.release c.blk c.wave
    match s1.resolve (s1.ctxFn c) r st val false with
    | .ok s2 => ok (s2.dropFuture c r)
    | .double => double (s1.dropFuture c r)
    | .fault k => Res.future (s1.dropFuture c r) va k none

/-- FRESOLVE and FPOISON (R305, R334). -/
def resolveBody (e : Enc) (st : Nat) (val : Wave → Except Cause DWord) (s : State) (c : Ctx) : Res :=
  match val (s.ctxWave c) with
  | .error k => Res.uni s k
  | .ok v =>
    let status := e.fn == 1
    let answer (b : Bool) (s : State) : State := s.setCtxWave c ((s.ctxWave c).setQs c.acting e.dst.toNat b)
    onFuture e .readWrite (fun s c va r =>
      match (s.ctxWave c).spec.sid with
      | some sid => Res.next (s.hold sid (.resolve c.pc va r st v false))
      | none =>
        resolveNow s c va r st v (fun s1 => Res.next (if status then answer true s1 else s1))
          (fun s1 => if status then Res.next (answer false s1) else Res.future s1 va .doubleResolve none)) s c

/-- A `.ST` resolution may not run inside a unit (R334). -/
def resolveForm (e : Enc) (st : Nat) (val : Wave → Except Cause DWord) : State → Ctx → Res :=
  if e.fn == 1 then notInUnit e (resolveBody e st val) else resolveBody e st val

/-- FRESOLVE (R305). -/
def execFresolve (e : Enc) (s : State) : Outcome State Fault Refusal :=
  s.issue (.fresolve e) e false (resolveForm e 1 (fun w => w.useSPairAt e.src1))

/-- FPOISON (R305). -/
def execFpoison (e : Enc) (s : State) : Outcome State Fault Refusal :=
  s.issue (.fpoison e) e false (resolveForm e 2 (fun w => (w.sCode e.src1).use.map (fun x => x.setWidth 64)))

/-- TEXIT (R302). -/
def execTexit (e : Enc) (s : State) : Outcome State Fault Refusal :=
  s.issue (.texit e) e false (fun s c =>
    if !e.mod.getLsbD 0 then .stay (exitWave s c)
    else
      match (s.ctxWave c).useSPairAt e.src1 with
      | .error k => Res.uni s k
      | .ok v =>
        onFuture e .readWrite (fun s c va r =>
          match (s.ctxWave c).spec.sid with
          | some sid => .stay (exitWave (s.hold sid (.resolve c.pc va r 1 v false)) c)
          | none => resolveNow s c va r 1 v (fun s1 => .stay (exitWave s1 c)) (fun s1 => Res.future s1 va .doubleResolve none)) s c)

/-- Register a continuation (R298, R299, R306). -/
def awaitBody (e : Enc) (codes : List (BitVec 8)) (s : State) (c : Ctx) : Res :=
  let b := s.block c.blk
  let w := s.ctxWave c
  match (do let g ← w.readSpawn e.src0 true; let vs ← codes.mapM (fun k => w.useSPairAt k); .ok (g, vs) :
      Except Cause (Group × List DWord)) with
  | .error k => Res.uni s k
  | .ok (g, vas) =>
    match s.spawnFault b.fn g g.entry with
    | some k => Res.uni s k
    | none =>
      if 16 < b.childDepth then Res.uni s .spawnDepth
      else
        let places : Except (DWord × Cause × Option Syndrome) (List FutRef) × State :=
          vas.foldl (fun acc va =>
            match acc with
            | (.error x, s) => (.error x, s)
            | (.ok l, s) =>
              match s.futurePlace c va .readWrite with
              | (.error (k, syn), s1) => (.error (va, k, syn), s1)
              | (.ok p, s1) => (.ok (l ++ [p]), s1)) (.ok [], s)
        match places with
        | (.error (va, k, syn), s1) => Res.future s1 va k syn
        | (.ok ps, s1) =>
          let (serial, s2) := s1.nextSerial c.blk
          let (id, s3) := s2.drawSerial
          let t := g.task b id g.entry serial (s.coreOf c.blk)
          let done (s : State) : Res :=
            let s4 := s.tookSerial c.blk
            Res.next (s4.setCtxWave c ((s4.ctxWave c).writeS e.dst [⟨serial, false⟩]))
          match w.spec.sid with
          | some sid => done (s3.hold sid (.await t ps))
          | none =>
            match s3.await t ps with
            | .error (k, va) => Res.future s1 (va.getD (vas.headD 0)) k none
            | .ok s4 => done (ps.foldl (fun s r => s.dropFuture c r) s4)

/-- FAWAIT (R306). -/
def execFawait (e : Enc) (s : State) : Outcome State Fault Refusal := s.issue (.fawait e) e false (awaitBody e [e.src1])
/-- FJOIN2 (R306). -/
def execFjoin2 (e : Enc) (s : State) : Outcome State Fault Refusal := s.issue (.fjoin2 e) e false (awaitBody e [e.src1, e.src2])

/-- The end of FGET with the record's 16 bytes (R299, R307): a move, so poison travels (R39). -/
def fgetEnd (e : Enc) (s : State) (c : Ctx) (bs : List Byte) (loP valP : Bool) : Res :=
  let d (n : Nat) : Word := BitVec.ofNat 32 (natOfBytes ((bs.drop (4 * n)).take 4))
  let ws : List PWord := [⟨d 0, loP⟩, ⟨d 1, loP⟩, ⟨d 2, valP⟩, ⟨d 3, valP⟩]
  let s1 := s.setCtxWave c ((s.ctxWave c).writeS e.dst ws)
  let st := (d 0).toNat % 4
  Res.next (if st = 1 ∨ st = 2 then s1.acquire c.blk c.wave else s1)

/-- FGET (R307); in a unit the read is a tracked load (R313). -/
def execFget (e : Enc) (s : State) : Outcome State Fault Refusal :=
  s.issue (.fget e) e false (onFuture e .read (fun s c _ r =>
    match (s.ctxWave c).spec.sid with
    | none =>
      fgetEnd e (s.dropFuture c r) c (s.bytesAt r.addr 16) (s.poisonAt r.addr 8) (s.poisonAt (r.addr + 8) 8)
    | some sid =>
      match s.specRead sid (fun _ => r.home) r.addr 16 with
      | .ok s1 (bs, p) => fgetEnd e (s1.unstalled c) c bs p p
      | .stall _ on => .stay (if s.isFrontier (s.unit sid) then s.clearWay on else s.stallEdge c e sid on)
      | .abort s1 r => .stay (if s.isFrontier (s.unit sid) then s.stallIssue c e .promote else s1.abort [sid] r)))

/-- TAFF (R303). -/
def execTaff (e : Enc) (s : State) : Outcome State Fault Refusal :=
  s.issue (.taff e) e false (fun s c =>
    match (s.ctxWave c).useSPairAt e.src0 with
    | .error k => Res.uni s k
    | .ok va =>
      match translate s (s.xreq c.blk) va.toNat .any with
      | (.error (k, syn), s1) => .fault s1 { cause := k, fva := va, syn := if va.toNat < 2 ^ 55 then some syn else none }
      | (.ok x, s1) =>
        let fn := s1.ctxFn c
        let n : Word := match s1.homeCore fn x.gpa x.place (s1.coreOf c.blk) with
          | some p => (match s1.logCore fn p with | some l => BitVec.ofNat 32 l | none => 0xFFFFFFFF)
          | none => 0xFFFFFFFF
        Res.next (s1.setCtxWave c ((s1.ctxWave c).writeS e.dst [⟨n, false⟩])))

/-! ### Dispatch of tasks (R291, R295, R296, R310, R324) -/

/-- The finished tasks below a key commit (R322). -/
def State.commitBelow (s : State) (fn d k : Nat) : State := (s.finishedBelow fn d k).foldl (fun s i => s.commitUnit i) s

/-- The core runs 16 speculative units (R310). -/
def State.coreUnits (s : State) (core : Nat) : Nat :=
  (s.units.filter (fun (_, u) => !u.finished && s.coreOf u.blk == core)).length

/-- A SID and a core place are free (R310). -/
def State.canAdmit (s : State) (core : Nat) : Bool := decide (s.coreUnits core < 16) && decide (s.units.length < 4096)

/-- Some free SID of the pool (R310, log 4). -/
def State.drawSid (s : State) : Nat × State :=
  let (p, s1) := s.drawPick 4096
  let free := (List.range 4096).find? (fun i => (s.units.get? ((p + i) % 4096)).isNone)
  ((p + free.getD 0) % 4096, s1)

/-- An ordered task starts: promoted at once where it is the frontier task (R324), as a unit where a SID and a core place are
free, else parked (R310).  Its start is an acquire (R336). -/
def State.startOrdered (s0 : State) (blk core : Nat) (t : Task) : State :=
  let s := if t.ord.isSome then s0.discardUnowned core else s0
  let w := s.wave blk 0
  match t.ord, t.key with
  | some o, some k =>
    if s.taskFrontier t then
      let s1 := s.commitBelow t.fn o.dom k
      s1.setWave blk 0 { s1.wave blk 0 with spec := { (s1.wave blk 0).spec with promoted := true } }
    else if s.canAdmit core then
      let (sid, s1) := s.drawSid
      let s2 := s1.setUnit sid { fn := t.fn, blk := blk, wave := 0, ord := t.ord, task := some t }
      s2.setWave blk 0 { s2.wave blk 0 with spec := { (s2.wave blk 0).spec with sid := some sid } }
    else
      let m := firstLanes t.fibres
      let p : Park := { lanes := m, why := .admitTask, enc := {}, acting := m, nextPc := t.entry, since := s.clock }
      s.setWave blk 0 { w.park p with batches := [] }
  | _, _ => s

/-- Start a task on a core (R22, R291). -/
def State.startTask (s : State) (core base : Nat) (t : Task) : State :=
  let s1 := { s with tasks := s.tasks.filter (fun u => u.id != t.id) }
  let t1 := { t with core := core, overflow := false, passed := 0 }
  let b : Block := { fn := t.fn, ticket := 0, scratch := t.scratch, task := some t1, codeFrom := t.codeFrom }
  let (s2, id) := s1.addBlock core base b [t.wave]
  let w := s2.wave id 0
  let s3 := s2.setWave id 0 { w with spec := { abr := t.abr, aborts := t.aborts } }
  let c := s3.core core
  (s3.setCore core { c with ordNext := t.ord.isNone, taskNext := false }).startOrdered id core t1

/-- Count the tasks that were passed over. -/
def State.passOver (s : State) (ts : List Task) : State :=
  { s with tasks := s.tasks.map (fun t => if ts.any (fun u => u.id == t.id) then { t with passed := t.passed + 1 } else t) }

/-- Some block waits that could be placed on a core: blocks and tasks then alternate (R380). -/
def State.blockWaits (s : State) (core : Nat) : Bool :=
  let fn := s.clusterHolder (core / 8)
  (match s.restorePlace fn with | some (_, c, _) => c == core | none => false) ||
  (s.launchOrder fn).any (fun l => match s.launchPlace l with | some (_, c, _) => c == core | none => false)

/-- A core takes a task now. -/
def State.taskTurn (s : State) (core : Nat) : Bool := (s.core core).taskNext || !s.blockWaits core

/-- TASK_DISPATCH (R295): the argument is the core. -/
def execTaskDispatch (s : State) : Outcome State Fault Refusal :=
  let core := s.arg 0
  let s0 := s.refillQueue core
  if !s0.taskTurn core then .next s0
  else
    match s0.ownTask core with
    | none => .next s0
    | some (t, ahead) =>
      match s0.taskRoom core t with
      | none => .next s0
      | some base => .next ((s0.passOver ahead).startTask core base t)

/-- TASK_STEALABLE (R296): the argument is the task. -/
def execTaskStealable (s : State) : Outcome State Fault Refusal :=
  .next { s with tasks := s.tasks.map (fun t => if t.id == s.arg 0 && s.aged t then { t with stealable := true } else t) }

/-- TASK_STEAL (R296): the argument is the core. -/
def execTaskSteal (s : State) : Outcome State Fault Refusal :=
  let core := s.arg 0
  if !s.taskTurn core then .next s
  else
    match s.stolenTask (s.clusterOwner (core / 8)) core with
    | none => .next s
    | some t =>
      match s.taskRoom core t with
      | none => .next s
      -- the core's own tasks did not fit (R295, log 154)
      | some base => .next ((s.passOver (s.taskOrder core)).startTask core base t)

/-- CONTINUATION_OVERFLOW_RETRY (R294): a released continuation that waits at its home is queued once there is room; the
argument is its task. -/
def execContinuationOverflowRetry (s : State) : Outcome State Fault Refusal :=
  match s.conts.find? (fun c => c.stuck.isSome && c.task.id == s.arg 0) with
  | none => .next s
  | some c =>
    let home := c.stuck.getD 0
    match s.enqueue c.task (s.contTarget c.task home) with
    | none => .next s
    | some s1 => .next { s1 with conts := s1.conts.filter (fun x => x.task.id != c.task.id) }

end Sys2Proof.Machine
end

