-- ==== Sys2Proof/Machine/Speculation.lean ====
section
/-!
DEFINITION. Sys2Proof/Machine/Speculation.lean: the instructions of the speculation engine, opcodes 0xD4 to 0xDC, and its steps (R310 to
R348).
-/

namespace Sys2Proof.Machine

open Host

/-! ### Domains (R316, R339, R340) -/

/-- A domain of a function. -/
def State.domain (s : State) (fn d : Nat) : Domain := (s.fn fn).domains.get {} d
def State.setDomain (s : State) (fn d : Nat) (x : Domain) : State :=
  s.setFn fn { s.fn fn with domains := (s.fn fn).domains.set d x }

/-- Speculation is enabled for a function: on at least one core that it owns (R339). -/
def State.specEnabled (s : State) (fn : Nat) : Bool := (s.coresOf fn).any (fun c => s.specOn c)

/-- ODOM (R339). -/
def execOdom (e : Enc) (s : State) : Outcome State Fault Refusal :=
  s.issue (.odom e) e false (fun s c =>
    let fn := s.ctxFn c
    let d := e.mod.toNat % 4
    if !s.specEnabled fn || (s.domain fn d).open_ then Res.uni s .accessFault
    else Res.next (s.setDomain fn d { open_ := true }))

/-- Some finished task of a domain has not committed. -/
def State.uncommitted (s : State) (fn d : Nat) : Bool :=
  s.units.any (fun (_, u) => u.fn == fn && u.finished && (u.ord.map (·.dom)) == some d)

/-- Write a predicate in every member whose guard holds. -/
def State.setActing (s : State) (c : Ctx) (q : Nat) (b : Bool) : State := s.setCtxWave c ((s.ctxWave c).setQs c.acting q b)

/-- CDOM (R340). -/
def execCdom (e : Enc) (s : State) : Outcome State Fault Refusal :=
  s.issue (.cdom e) e false (fun s c =>
    let fn := s.ctxFn c
    let d := e.mod.toNat % 4
    let x := s.domain fn d
    if !x.open_ then Res.next (s.setActing c e.dst.toNat true)
    else if s.unf fn d != 0 || s.uncommitted fn d then Res.next (s.setActing c e.dst.toNat false)
    else Res.next (((s.setDomain fn d { x with open_ := false }).setActing c e.dst.toNat true).acquire c.blk c.wave))

/-! ### Regions (R329 to R331, R341 to R343) -/

/-- FENCE by a wave outside every unit (R336). -/
def State.fenceWave (s : State) (blk wave : Nat) : State := (s.release blk wave).acquire blk wave

/-- Set a wave's speculation status. -/
def State.setSpec (s : State) (blk wave : Nat) (f : SpecWave → SpecWave) : State :=
  let w := s.wave blk wave
  s.setWave blk wave { w with spec := f w.spec }

/-- Open a speculative region (R310, R341): `fibres` resume at `retry` with q := 0 if it aborts. -/
def State.openRegion (s : State) (blk wave : Nat) (fibres : BitVec 32) (retry : DWord) (q : Nat) : State :=
  let (sid, s1) := s.drawSid
  let w := s1.wave blk wave
  let u : SpecUnit :=
    { fn := (s1.block blk).fn, blk := blk, wave := wave, retryPc := retry, retryQ := q, retryDepth := w.emdepth
      retryBase := (w.lane (lowLane fibres)).base, fibres := fibres }
  (s1.setUnit sid u).setSpec blk wave (fun x => { x with sid := some sid, nest := 1 })

/-- Open a serial region with the function's token (R331). -/
def State.openSerial (s : State) (blk wave : Nat) : State :=
  let fn := (s.block blk).fn
  let f := s.fn fn
  (s.setFn fn { f with token := some (blk, wave) }).setSpec blk wave (fun x => { x with serial := true, nest := 1 })

/-- Regions on a core are serial where speculation is not enabled on it, or where the cluster is on loan (R331, R416). -/
def State.serialCore (s : State) (fn core : Nat) : Bool := !s.specOn core || s.clusterOwner (core / 8) != fn

/-- RBEGIN and RBEGIN.SER (R341). -/
def rbeginBody (e : Enc) (ser : Bool) (s : State) (c : Ctx) : Res :=
  let w := s.ctxWave c
  let q := e.dst.toNat
  let level (s : State) : Res :=
    Res.next ((s.setSpec c.blk c.wave (fun x => { x with nest := x.nest + 1 })).setActing c q true)
  if c.members != w.live then Res.uni s .accessFault
  else if w.spec.nest = 15 then Res.uni s .accessFault
  else
    match w.spec.sid with
    | some sid => if ser && (s.unit sid).task.isSome then .stay (s.stallIssue c e .promote) else level s
    | none =>
      if w.spec.serial || w.spec.promoted then level s
      else
        let s1 := s.fenceWave c.blk c.wave
        if (s1.ctxWave c).stopped.isSome then .stay s1
        else if ser || s1.serialCore (s1.ctxFn c) (s1.coreOf c.blk) then
          if (s1.fn (s1.ctxFn c)).token.isNone then Res.next ((s1.openSerial c.blk c.wave).setActing c q true)
          else .ok (s1.parkLanes c e c.members .token) false 0
        else if s1.canAdmit (s1.coreOf c.blk) then
          Res.next ((s1.openRegion c.blk c.wave c.members c.nextPc q).setActing c q true)
        else .ok (s1.parkLanes c e c.members .admission) false 0

/-- RBEGIN (R341). -/
def execRbegin (e : Enc) (s : State) : Outcome State Fault Refusal := s.issue (.rbegin e) e false (rbeginBody e false)
/-- RBEGIN.SER (R331, R341). -/
def execRbeginSer (e : Enc) (s : State) : Outcome State Fault Refusal := s.issue (.rbeginSer e) e false (rbeginBody e true)

/-- A region commits (R329): its wave is no unit any more. -/
def State.commitRegion (s : State) (sid : Nat) : State :=
  let u := s.unit sid
  (s.commitUnit sid).setSpec u.blk u.wave (fun x => { x with sid := none, nest := 0 })

/-- REND (R342). -/
def execRend (e : Enc) (s : State) : Outcome State Fault Refusal :=
  s.issue (.rend e) e false (fun s c =>
    let w := s.ctxWave c
    let n := w.spec.nest
    let down (s : State) : State := s.setSpec c.blk c.wave (fun x => { x with nest := n - 1 })
    if n = 0 then Res.next s
    else if 1 < n then Res.next (down s)
    else if w.spec.serial then
      let s1 := s.release c.blk c.wave
      Res.next ((s1.returnToken (s1.ctxFn c) c.blk c.wave).setSpec c.blk c.wave (fun x => { x with serial := false, nest := 0 }))
    else
      match w.spec.sid with
      | none => Res.next (down s)
      | some sid =>
        let u := s.unit sid
        if u.task.isSome then Res.next (down s)
        else if u.deps.isEmpty then Res.next ((s.commitRegion sid).fenceWave c.blk c.wave)
        else .ok ((s.setUnit sid { u with atRend := true }).parkLanes c e c.members .rend) false 0)

/-- RABORT (R343). -/
def execRabort (e : Enc) (s : State) : Outcome State Fault Refusal :=
  s.issue (.rabort e) e false (fun s c =>
    match inRegion s c with
    | some sid => .stay (s.abort [sid] 8)
    | none => Res.next s)

/-! ### Status (R344, R345, R347) -/

/-- The two words of RSTAT (R344). -/
def rstatWords (s : State) (c : Ctx) : List Word :=
  let w := s.ctxWave c
  let b (x : Bool) (n : Nat) : Nat := if x then 2 ^ n else 0
  let ord := match (s.block c.blk).task with | some t => t.ord.isSome | none => false
  let u := match w.spec.sid with | some k => s.unit k | none => {}
  let wset := match w.spec.sid with | some k => (s.writeSet k).length | none => 0
  [BitVec.ofNat 32 (b w.spec.sid.isSome 0 + b ord 1 + b w.spec.serial 2 + b (ord && w.spec.promoted) 3 + u.depth * 2 ^ 4 +
      w.spec.nest * 2 ^ 8 + w.spec.abr * 2 ^ 12 + w.spec.aborts * 2 ^ 16),
    BitVec.ofNat 32 (u.reads.length + wset * 2 ^ 16)]

/-- RSTAT (R344). -/
def execRstatSpec (e : Enc) (s : State) : Outcome State Fault Refusal :=
  s.issue (.rstatSpec e) e false (fun s c => Res.next (s.setCtxWave c ((s.ctxWave c).writeS e.dst (clean (rstatWords s c)))))

/-- The four words of TFRONT (R345). -/
def tfrontWords (s : State) (fn d : Nat) : List Word :=
  let x := s.domain fn d
  if x.open_ then
    let ts : DWord := BitVec.ofNat 64 (x.pubFront / 2 ^ 32)
    dwords ts ++ [BitVec.ofNat 32 x.pubFront, BitVec.ofNat 32 (min 65535 (s.unf fn d) + 2 ^ 16)]
  else [0xFFFFFFFF, 0xFFFFFFFF, 0xFFFFFFFF, 0]

/-- TFRONT (R345). -/
def execTfront (e : Enc) (s : State) : Outcome State Fault Refusal :=
  s.issue (.tfront e) e false (fun s c =>
    Res.next (s.setCtxWave c ((s.ctxWave c).writeS e.dst (clean (tfrontWords s (s.ctxFn c) (e.mod.toNat % 4))))))

/-- The four words of DEPQ (R347). -/
def depqWords (u : SpecUnit) : List Word :=
  let d (i : Nat) : Nat := match u.deps.get? i with | some k => k + 4096 | none => 0
  [BitVec.ofNat 32 (d 0 + d 1 * 2 ^ 16), BitVec.ofNat 32 (d 2 + d 3 * 2 ^ 16)] ++ dwords u.anc

/-- DEPQ (R347). -/
def execDepq (e : Enc) (s : State) : Outcome State Fault Refusal :=
  s.issue (.depq e) e false (fun s c =>
    let ws := match inRegion s c with | some sid => depqWords (s.unit sid) | none => [0, 0, 0, 0]
    Res.next (s.setCtxWave c ((s.ctxWave c).writeS e.dst (clean ws))))

/-! ### TDEFER (R346) -/

/-- TDEFER (R324, R346). -/
def execTdefer (e : Enc) (s : State) : Outcome State Fault Refusal :=
  s.issue (.tdefer e) e false (fun s c =>
    let w := s.ctxWave c
    let timed := e.len == Len.l96
    let q := e.dst.toNat
    let yes (s : State) : Res := Res.next (if timed then s.setActing c q true else s)
    match w.spec.sid with
    | none => yes s
    | some sid =>
      if (s.unit sid).task.isNone then .stay (s.abort [sid] 5)
      else if s.isFrontier (s.unit sid) then
        let s1 := s.promote sid
        if (s1.ctxWave c).stopped.isSome then .stay s1 else yes s1
      else
        let lim := e.imm16.toNat
        if timed && lim == 0 then Res.next (s.setActing c q false)
        else .ok (s.parkLanes c e c.members (.tdefer (if timed then some (s.clock + lim * 1024) else none) q)) false 0)

/-- TDEFER_TIMEOUT (R346): arguments are the block, the wave and the number of the wait. -/
def execTdeferTimeout (s : State) : Outcome State Fault Refusal :=
  let blk := s.arg 0
  let wv := s.arg 1
  let w := s.wave blk wv
  match w.waits.get? (s.arg 2) with
  | some p =>
    (match p.why with
      | .tdefer (some lim) _ => .next (if lim ≤ s.clock then s.setWave blk wv (w.endDefer (s.arg 2) false) else s)
      | _ => .next s)
  | none => .next s

/-! ### Steps of the engine -/

/-- The first wait of a wave with a reason. -/
def Wave.waitFor (w : Wave) (p : Why → Bool) : Option (Nat × Park) := w.waits.find? (fun (_, x) => p x.why)

/-- A wait at RBEGIN is over: q := 1 and the batch goes on (R341). -/
def Wave.endBegin (w : Wave) (n : Nat) (p : Park) : Wave := (w.setQs p.acting p.enc.dst.toNat true).wake n

/-- UNIT_ADMIT (R310): a parked wave becomes a unit; arguments are the block and the wave. -/
def execUnitAdmit (s : State) : Outcome State Fault Refusal :=
  let blk := s.arg 0
  let wv := s.arg 1
  let w := s.wave blk wv
  let core := s.coreOf blk
  if w.onHold then .next s
  else
    match w.waitFor (fun y => y == .admission), w.waitFor (fun y => y == .admitTask), (s.block blk).task with
    | some (n, p), _, _ =>
      if s.canAdmit core then
        let s1 := s.openRegion blk wv p.lanes p.nextPc p.enc.dst.toNat
        .next (s1.setWave blk wv ((s1.wave blk wv).endBegin n p))
      else .next s
    | none, some (n, _), some t =>
      if s.canAdmit core || s.taskFrontier t then
        .next ((s.setWave blk wv (w.wake n)).startOrdered blk core t)
      else .next s
    | _, _, _ => .next s

/-- SERIAL_TOKEN_GRANT (R331): arguments are the block and the wave. -/
def execSerialTokenGrant (s : State) : Outcome State Fault Refusal :=
  let blk := s.arg 0
  let wv := s.arg 1
  let w := s.wave blk wv
  if w.onHold || (s.fn (s.block blk).fn).token.isSome then .next s
  else
    match w.waitFor (fun y => y == .token) with
    | none => .next s
    | some (n, p) =>
      let s1 := s.openSerial blk wv
      .next (s1.setWave blk wv ((s1.wave blk wv).endBegin n p))

/-- FRONTIER_PUBLISH (R321): arguments are the function and the domain. -/
def execFrontierPublish (s : State) : Outcome State Fault Refusal :=
  let fn := s.arg 0
  let d := s.arg 1
  let x := s.domain fn d
  .next (if x.open_ then s.setDomain fn d { x with pubFront := s.front fn d } else s)

/-- ORDERED_COMMIT (R322): the finished task of lowest key of a domain commits; the argument is its SID. -/
def execOrderedCommit (s : State) : Outcome State Fault Refusal :=
  let sid := s.arg 0
  let u := s.unit sid
  match u.ord, u.key with
  | some o, some k =>
    if u.finished && decide (k < s.front u.fn o.dom) && (s.finishedBelow u.fn o.dom k).isEmpty then .next (s.commitUnit sid)
    else .next s
  | _, _ => .next s

/-- A frontier task must be promoted (R324): it waits to be, holds a fault, or a rule would have aborted it. -/
def State.wantsPromotion (s : State) (u : SpecUnit) : Bool :=
  let w := s.wave u.blk u.wave
  u.owed || u.deferred.isSome || w.waits.any (fun (_, p) => match p.why with | .promote | .tdefer .. => true | _ => false)

/-- PROMOTION (R324): the argument is the SID. -/
def execPromotion (s : State) : Outcome State Fault Refusal :=
  let sid := s.arg 0
  let u := s.unit sid
  .next (if (s.units.get? sid).isSome && s.isFrontier u && s.wantsPromotion u && !(s.wave u.blk u.wave).onHold then s.promote sid else s)

/-- The end of a region's wait at REND (R329, R334, R342). -/
def State.endRend (s : State) (sid : Nat) : State :=
  let u := s.unit sid
  let s1 := s.commitRegion sid
  if u.exits then s1.endWave u.blk u.wave
  else
    let s2 := s1.setWave u.blk u.wave ((s1.wave u.blk u.wave).wakeWhere (fun y => y == .rend))
    s2.fenceWave u.blk u.wave

/-- REGION_COMMIT (R329): the argument is the SID. -/
def execRegionCommit (s : State) : Outcome State Fault Refusal :=
  let sid := s.arg 0
  let u := s.unit sid
  .next (if u.atRend && u.deps.isEmpty then s.endRend sid else s)

/-- EDGE_STALL_TIMEOUT (R328): arguments are the block, the wave and the number of the wait. -/
def execEdgeStallTimeout (s : State) : Outcome State Fault Refusal :=
  let w := s.wave (s.arg 0) (s.arg 1)
  match w.waits.get? (s.arg 2), w.spec.sid with
  | some p, some sid =>
    (match p.why with
      | .edge _ =>
        .next (if (s.unit sid).task.isNone && decide (p.since + 65536 ≤ s.clock) then s.abort [sid] 4 else s)
      | _ => .next s)
  | _, _ => .next s

/-- A stalled task that became the frontier task aborts the regions it waits on (R332). -/
def State.frontierClears (s : State) : State :=
  s.units.foldl (fun s (k, _) =>
    let u := s.unit k
    if (s.units.get? k).isSome && s.isFrontier u then
      let on := (s.wave u.blk u.wave).waits.flatMap (fun (_, p) => match p.why with | .edge on => on | _ => [])
      if on.isEmpty then s else s.clearWay on
    else s) s

end Sys2Proof.Machine
end

