-- ==== Sys2Proof/Machine/Rings.lean ====
section
/-!
DEFINITION. Sys2Proof/Machine/Rings.lean: guest-programmed rings (R353, R354, R421), events and the virtual error registers (R422 to
R426), and the rows of the event ring.
-/

namespace Sys2Proof.Machine

open Host

/-! ### Ring control words (R352, R422) -/

/-- A control word after a write of its RW and W1C fields (R352). -/
def ringCtlWrite (old v : Word) : Word :=
  let kept : Word := if v.getLsbD 6 then old &&& 0x80 else old &&& 0xFFFF00C0
  kept ||| (v &&& 0x3F)

/-- A control word with EN and BAD as a check leaves them (R353). -/
def ringChecked (ctl : Word) (ok : Bool) : Word := if ok then ctl &&& ~~~(0x80 : Word) else (ctl &&& ~~~(1 : Word)) ||| 0x80

/-- A control word with EN cleared by a check at a record access (R421); BAD reports enablings only (R353). -/
def ringOff (ctl : Word) : Word := ctl &&& ~~~(1 : Word)

/-- A record was dropped: LOST and LOSTCNT (R354, R422). -/
def ringLost (ctl : Word) : Word :=
  let n := ctl.toNat / 2 ^ 16
  (ctl &&& 0xFFFF) ||| 0x40 ||| BitVec.ofNat 32 ((if n < 65535 then n + 1 else n) * 2 ^ 16)

/-- The base of a ring: a multiple of 4 KiB (R352). -/
def ringBase (b : DWord) : Nat := b.toNat % 2 ^ 56 / 4096 * 4096

/-- OBJ of an event (R423). -/
def eventObj (kind n : Nat) : Nat := kind * 4096 + n % 4096

/-- RING_BAD_BASE of a function's ring (R421): to its event ring and the PF's. -/
def State.badBase (s : State) (fn kind n gpa : Nat) : State := s.event [fn, 0] fn 0x01 (eventObj kind n) (BitVec.ofNat 64 gpa) 0

/-! ### Recording an event (R422 to R426) -/

/-- The severity of an event of a function (R425). -/
def Fn.severity (f : Fn) (c : Option Nat) : Nat := match c with | none => 0 | some k => if f.vesev.getLsbD k then 2 else 1

/-- The 64 bytes of an event record (R423). -/
def Event.bytes (e : Event) (sev seq clock : Nat) : List Byte :=
  let w0 := e.code + sev * 2 ^ 8 + e.func * 2 ^ 10 + e.obj * 2 ^ 16 + seq * 2 ^ 32
  let h (i : Nat) : Nat := (e.hdr.getD i 0).toNat
  bytesOfNat 64 (w0 + clock * 2 ^ 64 + e.addr.toNat * 2 ^ 128 + e.info.toNat * 2 ^ 192 + h 0 * 2 ^ 256 + h 1 * 2 ^ 320 +
    h 2 * 2 ^ 384 + h 3 * 2 ^ 448)

/-- Write an event into a function's ring, or drop it (R422). -/
def State.recordIn (s : State) (e : Event) (ring : Nat) : State :=
  let f := s.fn ring
  if !ringRoomFor f.evctl f.evprod f.evcons then s.setFn ring { f with evctl := ringLost f.evctl }
  else
    let base := ringBase f.evbase
    let gpa := base + 64 * (f.evprod.toNat % ringSize f.evctl)
    let bytes := e.bytes ((s.fn e.func).severity e.cls) f.evprod.toNat ((s.clock - f.readyAt + f.clockAdd) % 2 ^ 64)
    -- every page of the ring is checked at a record access (R421)
    match if s.s2PagesOk ring base (64 * ringSize f.evctl) .write then s.s2Write ring gpa bytes else none with
    | none =>
      (s.setFn ring { f with evctl := ringLost (ringOff f.evctl) }).badBase ring 2 0 base
    | some s1 =>
      let g := s1.fn ring
      -- the function's own classes signal by R425
      s1.setFn ring { g with evprod := g.evprod + 1, irqs := if e.cls.isSome && ring == e.func then g.irqs else g.irqs + 1 }

/-- The error registers of an unmasked event's function (R425). -/
def Fn.noteEvent (f : Fn) (e : Event) : Fn :=
  match e.cls with
  | none => f
  | some k =>
    if f.vemask.getLsbD k then f
    else
      let bit : DWord := 1#64 <<< k
      let f1 := { f with vestat := f.vestat ||| bit, irqs := f.irqs + 1 }
      let f2 := if f1.vefep.getLsbD 3 then f1
        else { f1 with vefep := BitVec.ofNat 64 (k + 8), vehdr := (List.range 4).map (fun i => (i, e.hdr.getD i 0)) }
      if f.vesev.getLsbD k then
        { f2 with fatal := true, queues := f2.queues.map (fun (q, x) => (q, { x with ctl := x.ctl &&& ~~~(1 : Word) })) }
      else f2

/-- EVENT_RECORD (R422 to R426): the oldest waiting event is recorded. -/
def execEventRecord (s : State) : Outcome State Fault Refusal :=
  match s.events with
  | [] => .next s
  | e :: r =>
    let s1 := e.rings.foldl (fun s k => s.recordIn e k) { s with events := r }
    .next (s1.setFn e.func ((s1.fn e.func).noteEvent e))

/-- Count a write of reserved bits (R3). -/
def State.countRsv (s : State) (fn : Nat) (bad : Bool) : State := if bad then s.bumpRsv fn else s

/-- A write to EVCTL (R422): one that leaves EN = 1 checks the ring (R353, R421). -/
def State.writeEvctl (s : State) (fn : Nat) (v : Word) : State :=
  let f := s.fn fn
  let c := ringCtlWrite f.evctl v
  let s1 := s.countRsv fn (v &&& 0xFF00 != 0)
  if c.getLsbD 0 then
    let ok := s.s2PagesOk fn (ringBase f.evbase) (64 * ringSize c) .write
    let s2 := s1.setFn fn { s1.fn fn with evctl := ringChecked c ok }
    if ok then s2 else s2.badBase fn 2 0 (ringBase f.evbase)
  else s1.setFn fn { s1.fn fn with evctl := c }

/-- EVCTL_ENABLE (R421, R422): arguments are the function and the value, whose EN is 1. -/
def execEvctlEnable (s : State) : Outcome State Fault Refusal :=
  .next (if (s.fn (s.arg 0)).resetting then s else s.writeEvctl (s.arg 0) (BitVec.ofNat 32 (s.arg 1) ||| 1))

/-- EVCTL_LOST_CLEAR (R422): arguments are the function and the value, whose LOST is 1. -/
def execEvctlLostClear (s : State) : Outcome State Fault Refusal :=
  .next (if (s.fn (s.arg 0)).resetting then s else s.writeEvctl (s.arg 0) (BitVec.ofNat 32 (s.arg 1) ||| 0x40))

/-- A consumer index lies beyond PROD (R353). -/
def consBeyond (new cons prod : Word) : Bool := decide ((prod - cons).toNat < (new - cons).toNat)

/-- CONS_BAD (R353, R421): to the function's ring and the PF's. -/
def State.consBad (s : State) (fn kind : Nat) (v : Word) : State :=
  s.event [fn, 0] fn 0x03 (eventObj kind 0) 0 (v.setWidth 64)

/-- A write to EVCONS (R421, R422). -/
def State.writeEvcons (s : State) (fn : Nat) (v : Word) : State :=
  let f := s.fn fn
  if consBeyond v f.evcons f.evprod then s.consBad fn 2 v else s.setFn fn { f with evcons := v }

/-- EVCONS_WRITE (R421, R422): arguments are the function and the value. -/
def execEvconsWrite (s : State) : Outcome State Fault Refusal :=
  .next (if (s.fn (s.arg 0)).resetting then s else s.writeEvcons (s.arg 0) (BitVec.ofNat 32 (s.arg 1)))

/-- A write to VESTAT (R425); clearing ST bit CLS clears V. -/
def State.writeVestat (s : State) (fn : Nat) (v : DWord) : State :=
  let f := s.fn fn
  let f1 := { f with vestat := f.vestat &&& ~~~(v &&& 0x7F) }
  let f2 := if f.vefep.getLsbD 3 && v.getLsbD (f.vefep.toNat % 8) then { f1 with vefep := f1.vefep &&& ~~~(8 : DWord) } else f1
  (s.setFn fn f2).countRsv fn (v &&& 0xFFFFFFFFFFFFFF80 != 0)

/-- VESTAT_CLEAR (R425): arguments are the function and the value. -/
def execVestatClear (s : State) : Outcome State Fault Refusal :=
  .next (if (s.fn (s.arg 0)).resetting then s else s.writeVestat (s.arg 0) (BitVec.ofNat 64 (s.arg 1)))

end Sys2Proof.Machine
end

