-- ==== Sys2Proof/Machine/Matrix.lean ====
section
/-!
DEFINITION. Sys2Proof/Machine/Matrix.lean: the matrix engine and the matrix stream, opcodes 0xB0 to 0xBC (R249 to R275).
-/

namespace Sys2Proof.Machine

open Host

/-! ### The stream's issue (R250, R274) -/

/-- What a stream instruction comes to. -/
inductive SRes where
  /-- it acted; the stream goes on at the next PC, or at the one given -/
  | ok (s : State) (pc : Option DWord)
  /-- it waits, with nothing changed but the wait -/
  | stay (s : State)
  | fault (s : State) (f : FaultInfo)
  /-- it acted, and raises POISON (R263) -/
  | after (s : State) (f : FaultInfo)

/-- Change the stream of a block. -/
def State.onStream (s : State) (blk : Nat) (f : Stream → Stream) : State :=
  let k := s.block blk
  match k.stream with
  | none => s
  | some m => s.setBlock blk { k with stream := some (f m) }

/-- The stream may issue. -/
def Stream.live (m : Stream) : Bool := !m.ended && m.wait.isNone && m.stopped.isNone && m.emul.isNone

/-- A PC of 55 bits (R249). -/
def pc55 (x : DWord) : DWord := x &&& 0x007FFFFFFFFFFFFF

/-- Issue a stream instruction: the shared frame of all of them. -/
def State.sIssue (s : State) (i : Instr) (e : Enc) (body : State → Nat → Stream → SRes) : Outcome State Fault Refusal :=
  match s.cur with
  | some (.stream blk) =>
    match (s.block blk).stream with
    | some m =>
      if m.live then
        let next := seqPc m.pc e.len
        .next (match body s blk m with
          | .ok s1 pc => s1.onStream blk (fun m => { m with pc := pc55 (pc.getD next) })
          | .stay s1 => s1
          | .fault s1 f => s1.streamRaise blk m.pc next (rawOf i) f
          | .after s1 f =>
            (s1.onStream blk (fun m => { m with pc := pc55 next })).streamRaise blk m.pc next (rawOf i) { f with resume := .inPlace })
      else .fault .noIssuer
    | none => .fault .noIssuer
  | _ => .fault .noIssuer

/-- NOP (R47, R85): no effect, whatever its guard; in a stream it is padding. -/
def execNop (e : Enc) (s : State) : Outcome State Fault Refusal :=
  match s.cur with
  | some (.stream _) => s.sIssue (.nop e) e (fun s _ _ => .ok s none)
  | _ => s.issue (.nop e) e false (fun s _ => Res.next s)

/-! ### Operands (R253 to R256) -/

/-- Attributes of an operand's page. -/
structure Panel where
  fmt : Nat := 0
  blk : Nat := 0
  sgrp : Nat := 0
  deriving DecidableEq, Repr

/-- The fault of an operand. -/
def opFault (c : Cause) (va : Nat) (syn : Option Syndrome) : FaultInfo := { cause := c, fva := BitVec.ofNat 64 va, syn := syn }

/-- Translate n bytes of the stream's operand at a block-local offset (R253). -/
def State.panelXlat (s : State) (blk : Nat) (m : Stream) (off n : Nat) (acc : Acc) : Except FaultInfo Panel × State :=
  let r := (pagePieces (m.mwb.toNat + off) n).foldl (fun (r : Except FaultInfo (Option Panel) × State) (va, _) =>
    match r.1 with
    | .error _ => r
    | .ok p =>
      match translate r.2 (r.2.xreq blk) va acc with
      | (.error (k, syn), s1) => (.error (opFault k va (if va < 2 ^ 55 then some syn else none)), s1)
      | (.ok x, s1) =>
        let q : Panel := { fmt := x.fmt, blk := x.blk, sgrp := x.sgrp }
        if x.gpa ≠ localBase + (va - m.mwb.toNat) ∨ x.stk then (.error (opFault .accessFault va none), s1)
        else match p with
          | none => (.ok (some q), s1)
          | some p0 => if p0 = q then (.ok (some q), s1) else (.error (opFault .fmtMismatch va none), s1)) (.ok none, s)
  match r with
  | (.error f, s1) => (.error f, s1)
  | (.ok p, s1) => (.ok (p.getD {}), s1)

/-- K per row of an operand format (R254). -/
def panelK (f : Nat) : Nat := match f with | 7 | 8 => 32 | 14 => 128 | _ => 64

/-- The bytes of a row that are read (R255). -/
def panelRow (f : Nat) : Nat := match f with | 12 | 13 => 48 | 15 => 16 | _ => 64

/-- The scale bytes of an operand's rows (R256); none where the operand is unscaled. -/
def State.panelScales (s : State) (blk : Nat) (m : Stream) (p : Panel) (off rows : Nat) :
    Except FaultInfo (List (List PWord)) × State :=
  if p.blk = 0 || !isNarrow p.fmt then (.ok [], s)
  else
    let per := panelK p.fmt / 2 ^ (3 + p.blk)
    let base := ((s.fn (s.block blk).fn).scbase.get 0 p.sgrp)
    (List.range rows).foldl (fun (r : Except FaultInfo (List (List PWord)) × State) i =>
      match r.1 with
      | .error _ => r
      | .ok l =>
        let row := m.mwb.toNat + off + 64 * i
        let a := (base + BitVec.ofNat 64 (row / 64 * per)).toNat
        match r.2.readVA blk a per with
        | .fault s1 k va syn => (.error (opFault k va syn), s1)
        | .ok s1 bs q => (.ok (l ++ [bs.map (fun b => (⟨b.setWidth 32, q⟩ : PWord))]), s1)) (.ok [], s)

/-- The host address of a block-local offset. -/
def State.localHost (s : State) (blk off : Nat) : Nat := sliceAddr (s.coreOf blk) ((s.block blk).scrBase + off)

/-! ### Elements and steps (R259, R260) -/

/-- A decoded float element with its scale: its exact value, and whether its code is a zero. -/
structure FElem where
  val : FVal
  zero : Bool
  deriving DecidableEq, Repr

/-- Element k of a row given as a number. -/
def rowCode (f row k : Nat) : Nat := row / 2 ^ (elemBits f * k) % 2 ^ elemBits f

/-- A float element (R256, R259). -/
def floatElemOf (f code sc : Nat) : FElem :=
  let v := codeVal f code
  let z := match v with | .fin _ m _ => m == 0 | _ => false
  if sc = 255 then ⟨.nan false, z⟩
  else match v with
    | .fin n m e => ⟨.fin n m (e + ((sc : Int) - 127)), z⟩
    | x => ⟨x, z⟩

/-- The float elements of a row. -/
def floatRow (f : Nat) (p : Panel) (bytes : List Byte) (scales : List PWord) : List FElem :=
  let row := natOfBytes bytes
  (List.range (panelK f)).map (fun k =>
    let sc := match scales[k / 2 ^ (3 + p.blk)]? with | some x => x.val.toNat % 256 | none => 127
    floatElemOf f (rowCode f row k) sc)

/-- The integer elements of a row: T2 codes read as −1, 0 and 1, the reserved code as 0. -/
def intRow (f : Nat) (bytes : List Byte) : List Int :=
  let row := natOfBytes bytes
  (List.range 64).map (fun k =>
    let c := rowCode f row k
    match f with
    | 1 => if c < 128 then (c : Int) else (c : Int) - 256
    | 15 => if c = 1 then 1 else if c = 3 then -1 else 0
    | _ => (c : Int))

/-- A product (R259) and the flags of MSTAT it sets. -/
def stepProd (a b : FElem) : FVal × Word :=
  if a.zero then (.fin false 0 0, 0)
  else match a.val, b.val with
    | .nan _, _ => (.nan false, 32)
    | _, .nan _ => (.nan false, 32)
    | .inf x, .inf y => (.inf (x != y), 0)
    | .inf x, .fin y m _ => if m = 0 then (.nan false, 1) else (.inf (x != y), 0)
    | .fin x _ _, .inf y => (.inf (x != y), 0)
    | .fin x m e, .fin y n g => (.fin (x != y) (m * n) (e + g), 0)

/-- The sum s of a step (R259): an F32 pattern and the flags of MSTAT. -/
def stepSum (ps : List (FVal × Word)) : Nat × Word :=
  let fl := ps.foldl (fun a p => a ||| p.2) (0 : Word)
  let vs := ps.map (·.1)
  if vs.any (fun v => v.isNan) then (F32.nan, fl)
  else
    let pos := vs.any (fun v => v == .inf false)
    let neg := vs.any (fun v => v == .inf true)
    if pos && neg then (F32.nan, fl ||| 1)
    else if pos then (F32.inf, fl)
    else if neg then (F32.signBit + F32.inf, fl)
    else
      let fins := vs.filterMap (fun v => match v with | .fin n m e => if m = 0 then none else some (n, m, e) | _ => none)
      match fins with
      | [] => (0, fl)
      | (_, m0, e0) :: _ =>
        let top := fins.foldl (fun (t : Int) (_, m, e) => max t (e + bitLen m - 1)) (e0 + bitLen m0 - 1)
        let u := top - 48
        let ts : List (Int × Bool) := fins.map (fun (n, m, e) =>
          let (q, rem, _) := quantize m e u
          ((if n then -(q : Int) else (q : Int)), rem != 0))
        let t : Int := (ts.map (fun (x : Int × Bool) => x.1)).foldl (· + ·) 0
        let fl1 := if ts.any (·.2) then fl ||| 4 else fl
        if t = 0 then (0, fl1)
        else
          let (r, g) := F32.roundTo .rne (decide (t < 0)) t.natAbs u false
          (r, fl1 ||| (if g.overflow then 2 else 0) ||| (if g.inexact then 4 else 0))

/-- One float accumulation (R259). -/
def stepAcc (acc : Word) (s : Nat) : Word × Word :=
  let a := F32.unpack acc.toNat
  let b := F32.unpack s
  if a.isNan || b.isNan then (BitVec.ofNat 32 F32.nan, 0)
  else
    let (r, g) := F32.addV .rne a b
    (BitVec.ofNat 32 r, (if g.invalid then 1 else 0) ||| (if g.overflow then 2 else 0) ||| (if g.inexact then 4 else 0))

/-- One integer accumulation (R260). -/
def stepInt (sat : Bool) (acc : Word) (t : Int) : Word × Word :=
  let x := acc.toInt + t
  let lo : Int := -(2 ^ 31)
  let hi : Int := 2 ^ 31 - 1
  let out := decide (x < lo) || decide (hi < x)
  (if sat && out then BitVec.ofInt 32 (if x < lo then lo else hi) else BitVec.ofInt 32 x, if out then 16 else 0)

/-- The words of a tile. -/
def Block.tile (k : Block) (x : Nat) : List Word := k.tiles.get (List.replicate 2048 0) x

/-- A tile changed word by word with row and column; the flags of every word are gathered. -/
def mapTile (t : List Word) (f : Nat → Nat → Word → Word × Word) : List Word × Word :=
  let r := t.zipIdx.map (fun (w, i) => f (i / 64) (i % 64) w)
  (r.map (·.1), r.foldl (fun a x => a ||| x.2) 0)

/-- A tile is poisoned (R257). -/
def Block.tilePoisoned (k : Block) (m : Stream) (x : Nat) : Bool :=
  m.tilePoison.getLsbD x || k.tileBad.any (fun u => u / 1024 == x)

/-! ### Held slots (R258) -/

/-- The offset of the slot an operand uses: HEAD for a pop, or the held slot; none where the check fails. -/
def Stream.readSlot (m : Stream) (k : Block) (q : Nat) (pop : Bool) : Option Nat :=
  let r := k.ring q
  match m.held.get? q with
  | none => if pop && r.v then some r.head else none
  | some h => if !pop && !h.producing then some h.slot else none

/-- The stream may take a slot now: it is there and no other waiter stands before the stream. -/
def Ring.streamTurn (r : Ring) (push : Bool) : Bool :=
  let l := if push then r.pushers else r.poppers
  (if push then r.canPush else r.canPop) && (l.isEmpty || l.head? == some .stream)

/-- The stream is among the waiters of an end, first where it may already take the slot. -/
def Ring.enlist (r : Ring) (push : Bool) : Ring :=
  if push then (if r.pushers.contains .stream then r else { r with pushers := r.pushers ++ [.stream] })
  else (if r.poppers.contains .stream then r else { r with poppers := r.poppers ++ [.stream] })

/-- The stream waits at a ring end. -/
def State.streamWait (s : State) (blk q : Nat) (push : Bool) : State :=
  let k := s.block blk
  (s.setRing blk q ((k.ring q).enlist push)).onStream blk (fun m => { m with wait := some (.ring q push) })

/-- The pops of an instruction, in order (R258): the state with every slot taken, or waiting. -/
def State.takePops (s : State) (blk : Nat) (qs : List Nat) : State ⊕ State :=
  let k := s.block blk
  match qs.find? (fun q => !(k.ring q).streamTurn false) with
  | some q =>
    -- slots it may already take stay its own
    let s1 := (qs.takeWhile (fun x => x != q)).foldl (fun s x => s.setRing blk x (((s.block blk).ring x).enlist false)) s
    .inr (s1.streamWait blk q false)
  | none =>
    .inl (qs.foldl (fun s q =>
      let r := (s.block blk).ring q
      let (r1, i, lap, err) := { r with poppers := r.poppers.filter (fun x => x != RingWaiter.stream) }.pop
      (s.setRing blk q r1).onStream blk (fun m => { m with held := m.held.set q ⟨i, lap, false, err⟩ })) s)

/-- Return the held slot of a ring (R258, FREE). -/
def State.streamFree (s : State) (blk q : Nat) : State :=
  match ((s.block blk).stream).bind (fun m => m.held.get? q) with
  | none => s
  | some h => (s.freeSlot blk q h.slot).onStream blk (fun m => { m with held := m.held.erase q })

/-! ### Checks of accumulator memory (R37, R257) -/

/-- The engine reads a tile: its units' errors are met. -/
def State.meetTile (s : State) (blk x : Nat) : State := s.meet (s.block blk).fn (accAddr (s.coreOf blk) (8192 * x)) 8192

/-- The check units that n bytes of accumulator memory touch have been written: their checks are formed (R509). -/
def State.formTile (s : State) (blk off n : Nat) : State :=
  if s.faulty.isEmpty && s.mgmt.elog.isEmpty then s
  else
    let core := s.coreOf blk
    let s1 := s.formChecks (accAddr core off) n
    let k := s1.block blk
    let bad := s1.poisoned.filter (fun u => decide (accBase ≤ u))
    let k1 := { k with tileBad := bad.foldl (fun l u => setInsert l ((u - accAddr core 0) / 8)) k.tileBad }
    { s1.setBlock blk k1 with poisoned := s1.poisoned.filter (fun u => decide (u < accBase)) }

/-- The engine reads bytes of slots at their homes: panel rows, one after the other (R37). -/
def State.meetRows (s : State) (blk off pitch bytes rows : Nat) : State :=
  if s.faulty.isEmpty then s
  else (List.range rows).foldl (fun s i => s.meet (s.block blk).fn (s.localHost blk (off + pitch * i)) bytes) s

/-! ### MMA and MMAT (R263) -/

/-- The pair of formats is one an instruction accepts (R254). -/
def pairOk (ternary : Bool) (fa fb : Nat) : Bool :=
  let isInt (f : Nat) : Bool := f == 1 || f == 2
  let mx (f : Nat) : Bool := decide (10 ≤ f) && decide (f ≤ 13)
  if ternary then isInt fa && fb == 15
  else (fa == 8 && fb == 8) || (fa == 7 && fb == 7) || (mx fa && mx fb) || (fa == 14 && fb == 14) || (isInt fa && isInt fb)

/-- One panel as an instruction reads it: where, its attributes and its scales. -/
structure PanelRead where
  off : Nat
  attr : Panel
  scales : List (List PWord)

/-- Translate and scale the panels of one operand (R253, R256): every fault comes before any effect. -/
def State.readPanels (s : State) (blk : Nat) (m : Stream) (offs : List Nat) (n rows : Nat) : Except FaultInfo (List PanelRead) × State :=
  offs.foldl (fun (r : Except FaultInfo (List PanelRead) × State) o =>
    match r.1 with
    | .error _ => r
    | .ok l =>
      match r.2.panelXlat blk m o n .read with
      | (.error f, s1) => (.error f, s1)
      | (.ok p, s1) =>
        match s1.panelScales blk m p o rows with
        | (.error f, s2) => (.error f, s2)
        | (.ok sc, s2) => (.ok (l ++ [⟨o, p, sc⟩]), s2)) (.ok [], s)

/-- The bytes of a row of a panel. -/
def State.panelBytes (s : State) (blk : Nat) (p : PanelRead) (pitch i : Nat) : List Byte :=
  s.bytesAt (s.localHost blk (p.off + pitch * i)) (panelRow p.attr.fmt)

/-- A row of a panel or its scales are poisoned. -/
def State.rowPoison (s : State) (blk : Nat) (p : PanelRead) (pitch i : Nat) : Bool :=
  s.poisonAt (s.localHost blk (p.off + pitch * i)) (panelRow p.attr.fmt) || (p.scales.getD i []).any (fun x => x.poison)

/-- The bytes of element k of a row of a panel, or its scale, are poisoned. -/
def State.elemPoison (s : State) (blk : Nat) (p : PanelRead) (pitch i k : Nat) : Bool :=
  let w := elemBits p.attr.fmt
  let lo := w * k / 8
  s.poisonAt (s.localHost blk (p.off + pitch * i + lo)) ((w * (k + 1) + 7) / 8 - lo) ||
  (match (p.scales.getD i [])[k / 2 ^ (3 + p.attr.blk)]? with | some x => x.poison | none => false)

/-- What a step leaves: tiles, flags of MSTAT, and whether poison was consumed: certainly, or only if bytes that a skipped
product needs were read (R261). -/
structure StepOut where
  tiles : List (List Word)
  flags : Word
  bad : Bool
  maybe : Bool

/-- One step over one pair of panels (R259, R260); `errB` says that the slot of B is read as poisoned (R258).  Poisoned B bytes are
consumed certainly where they hold an element k for which some row of A has a code other than zero: the engine may leave the others
unread (R261). -/
def State.matrixStep (s : State) (blk : Nat) (ternary sat errB : Bool) (a b : PanelRead) (tiles : List (List Word)) : StepOut :=
  let fa := a.attr.fmt
  let fb := b.attr.fmt
  let pb := if ternary then 16 else 64
  let ab := (List.range 32).map (fun i => s.panelBytes blk a 64 i)
  let cols := if ternary then 128 else 64
  let bb := (List.range cols).map (fun j => s.panelBytes blk b pb j)
  let badA := (List.range 32).any (fun i => s.rowPoison blk a 64 i)
  let badB := errB || (List.range cols).any (fun j => s.rowPoison blk b pb j)
  let sure (n : Nat) (live : Nat → Bool) : Bool :=
    badB && (List.range n).any (fun k => live k && (errB || (List.range cols).any (fun j => s.elemPoison blk b pb j k)))
  if fa ≤ 2 then
    let ra := ab.map (intRow fa)
    let rb := bb.map (intRow fb)
    let res := tiles.zipIdx.map (fun (t, n) => mapTile t (fun i j acc =>
      stepInt sat acc (List.zipWith (· * ·) (ra.getD i []) (rb.getD (64 * n + j) [])).sum))
    let rsv := ternary && bb.any (fun bs => (List.range 64).any (fun k => rowCode 15 (natOfBytes bs) k == 2))
    let needed := sure 64 (fun k => ra.any (fun r => r.getD k 0 != 0))
    { tiles := res.map (·.1), flags := res.foldl (fun f r => f ||| r.2) (if rsv then 8 else 0), bad := badA || needed, maybe := badB && !needed }
  else
    let ra := (List.range 32).map (fun i => floatRow fa a.attr (ab.getD i []) (a.scales.getD i []))
    let rb := (List.range 64).map (fun j => floatRow fb b.attr (bb.getD j []) (b.scales.getD j []))
    let res := tiles.map (fun t => mapTile t (fun i j acc =>
      let (x, f) := stepSum (List.zipWith stepProd (ra.getD i []) (rb.getD j []))
      let (r, g) := stepAcc acc x
      (r, f ||| g)))
    let needed := sure (panelK fa) (fun k => ra.any (fun r => match r[k]? with | some x => !x.zero | none => false))
    { tiles := res.map (·.1), flags := res.foldl (fun f r => f ||| r.2) 0, bad := badA || needed, maybe := badB && !needed }

/-- MMA and MMAT (R263). -/
def mmaBody (e : Enc) (ternary : Bool) (s : State) (blk : Nat) (m : Stream) : SRes :=
  let k := s.block blk
  let qa := e.src0.toNat
  let qb := e.src1.toNat
  let popA := e.mod.getLsbD 0
  let popB := e.mod.getLsbD 2
  let n := e.ext.toNat % 16 + 1
  let offA := e.ext.toNat / 16 % 64 * 1024
  let offB := e.ext.toNat / 1024 % 64 * 1024
  let pb := if ternary then 2048 else 4096
  let x := e.dst.toNat
  if k.nring ≤ qa ∨ k.nring ≤ qb then .fault s { cause := .accessFault, obj := ringObj (if k.nring ≤ qa then qa else qb) }
  else
    match m.readSlot k qa popA, m.readSlot k qb popB with
    | some ia, some ib =>
      let ra := k.ring qa
      let rb := k.ring qb
      if 2 ^ ra.lsz < offA + n * 2048 then .fault s { cause := .ringMisuse, obj := ringObj qa }
      else if 2 ^ rb.lsz < offB + n * pb then .fault s { cause := .ringMisuse, obj := ringObj qb }
      else
        let oa := (List.range n).map (fun j => ra.slotOff ia + offA + j * 2048)
        let ob := (List.range n).map (fun j => rb.slotOff ib + offB + j * pb)
        match s.readPanels blk m oa 2048 32 with
        | (.error f, s1) => .fault s1 f
        | (.ok as, s1) =>
          match s1.readPanels blk m ob pb (if ternary then 128 else 64) with
          | (.error f, s2) => .fault s2 f
          | (.ok bs, s2) =>
            if (as.zip bs).any (fun (a, b) => !pairOk ternary a.attr.fmt b.attr.fmt) then .fault s2 (opFault .fmtMismatch (m.mwb.toNat + (match (as.zip bs).find? (fun (a, b) => !pairOk ternary a.attr.fmt b.attr.fmt) with | some (a, _) => a.off | none => 0)) none)
            else
              match s2.takePops blk ((if popA then [qa] else []) ++ (if popB then [qb] else [])) with
              | .inr s3 => .stay s3
              | .inl s0 =>
                let xs := if ternary then [x, x + 1] else [x]
                let s1 := as.foldl (fun s a => s.meetRows blk a.off 64 (panelRow a.attr.fmt) 32) s0
                let s2 := bs.foldl (fun s b => s.meetRows blk b.off (if ternary then 16 else 64) (panelRow b.attr.fmt) (if ternary then 128 else 64)) s1
                let s3 := xs.foldl (fun s t => s.meetTile blk t) s2
                let k3 := s3.block blk
                let held := match k3.stream with | some m => m.held | none => []
                let err (q : Nat) : Bool := match held.get? q with | some h => h.err | none => false
                let accBad := xs.any (fun t => k3.tilePoisoned (k3.stream.getD {}) t)
                let out := (as.zip bs).foldl (fun (o : StepOut) (a, b) =>
                  let r := s3.matrixStep blk ternary (e.mod.getLsbD 4) (err qb) a b o.tiles
                  { r with flags := o.flags ||| r.flags, bad := o.bad || r.bad, maybe := o.maybe || r.maybe })
                  { tiles := xs.map k3.tile, flags := 0, bad := err qa || accBad, maybe := false }
                let (pick, s4) := if out.maybe && !out.bad then s3.drawBool else (false, s3)
                let poison := out.bad || pick
                let k4 := s4.block blk
                let tiles := (xs.zip out.tiles).foldl (fun t (i, ws) => t.set i ws) k4.tiles
                let written := xs.foldl (fun s t => s.formTile blk (8192 * t) 8192) (s4.setBlock blk { k4 with tiles := tiles })
                let s5 := written.onStream blk (fun m =>
                  { m with mstat := m.mstat ||| out.flags
                           tilePoison := if poison then xs.foldl (fun t i => t ||| laneBit i) m.tilePoison else m.tilePoison })
                let s6 := if e.mod.getLsbD 1 then s5.streamFree blk qa else s5
                let s7 := if e.mod.getLsbD 3 then s6.streamFree blk qb else s6
                if poison then .after s7 { cause := .poison } else .ok s7 none
    | none, _ => .fault s { cause := .ringMisuse, obj := ringObj qa }
    | _, none => .fault s { cause := .ringMisuse, obj := ringObj qb }

/-- MMA (R263). -/
def execMma (e : Enc) (s : State) : Outcome State Fault Refusal := s.sIssue (.mma e) e (mmaBody e false)
/-- MMAT (R263). -/
def execMmat (e : Enc) (s : State) : Outcome State Fault Refusal := s.sIssue (.mmat e) e (mmaBody e true)

/-! ### MZERO, MLDX, MSTX (R264 to R266) -/

/-- A tile written whole (R264, R265): its poison goes. -/
def State.putTile (s : State) (blk x : Nat) (ws : List Word) : State :=
  let k := s.block blk
  ((s.setBlock blk { k with tiles := k.tiles.set x ws, tileBad := k.tileBad.filter (fun u => u / 1024 != x) }).onStream blk
    (fun m => { m with tilePoison := m.tilePoison &&& ~~~(laneBit x) })).formTile blk (8192 * x) 8192

/-- MZERO (R264). -/
def execMzero (e : Enc) (s : State) : Outcome State Fault Refusal :=
  s.sIssue (.mzero e) e (fun s blk _ =>
    .ok ((List.range (e.mod.toNat % 32 + 1)).foldl (fun s i => s.putTile blk (e.dst.toNat + i) (List.replicate 2048 0)) s) none)

/-- The tile word of a stored element (R265). -/
def mldxWord (f c : Nat) : Word :=
  match f with
  | 7 | 8 => BitVec.ofNat 32 (decodeFloat f c 127 F32 .rne).1
  | 1 | 2 | 3 | 4 => (decodeInt f c).1
  | _ => BitVec.ofNat 32 c

/-- MLDX (R265). -/
def execMldx (e : Enc) (s : State) : Outcome State Fault Refusal :=
  s.sIssue (.mldx e) e (fun s blk m =>
    let k := s.block blk
    let q := e.src0.toNat
    let x := e.dst.toNat
    let off := e.ext.toNat % 64 * 1024
    let pop := e.mod.getLsbD 0
    if k.nring ≤ q then .fault s { cause := .accessFault, obj := ringObj q }
    else
      match m.readSlot k q pop with
      | none => .fault s { cause := .ringMisuse, obj := ringObj q }
      | some i =>
        let r := k.ring q
        let o := r.slotOff i + off
        -- the first byte's page gives the format, which fixes the tile's bytes
        match s.panelXlat blk m o 1 .read with
        | (.error f, s1) => .fault s1 f
        | (.ok p, s1) =>
          if decide (10 ≤ p.fmt) then .fault s1 (opFault .fmtMismatch (m.mwb.toNat + o) none)
          else
            let bits := if p.fmt = 0 then 32 else elemBits p.fmt
            let pitch := 8 * bits
            if 2 ^ r.lsz < off + 32 * pitch then .fault s1 { cause := .ringMisuse, obj := ringObj q }
            else
              match s1.panelXlat blk m o (32 * pitch) .read with
              | (.error f, s2) => .fault s2 f
              | (.ok _, s2) =>
                match s2.takePops blk (if pop then [q] else []) with
                | .inr s3 => .stay s3
                | .inl s0 =>
                  let s3 := s0.meetRows blk o pitch pitch 32
                  let err := match ((s3.block blk).stream).bind (fun m => m.held.get? q) with | some h => h.err | none => false
                  let bad := err || s3.poisonAt (s3.localHost blk o) (32 * pitch)
                  let ws := (List.range 32).flatMap (fun row =>
                    let v := natOfBytes (s3.bytesAt (s3.localHost blk (o + row * pitch)) pitch)
                    (List.range 64).map (fun c => mldxWord p.fmt (v / 2 ^ (bits * c) % 2 ^ bits)))
                  let s4 := s3.putTile blk x ws
                  let s5 := if bad then s4.onStream blk (fun m => { m with tilePoison := m.tilePoison ||| laneBit x }) else s4
                  .ok (if e.mod.getLsbD 1 then s5.streamFree blk q else s5) none)

/-- The slot MSTX writes: TAIL for a push, or the held slot; none where the check fails (R258). -/
def Stream.writeSlot (m : Stream) (k : Block) (q : Nat) (push fill : Bool) : Option Nat :=
  let r := k.ring q
  if r.be && !(push && fill) then none
  else match m.held.get? q with
    | none => if push && r.v then some r.tail else none
    | some h => if !push && h.producing then some h.slot else none

/-- A row of a tile encoded (R266): its bytes with their poison, and the flags of MSTAT. -/
def mstxRow (e : Enc) (ws : List (Word × Bool)) : List (Byte × Bool) × Word :=
  let f := e.fn.toNat % 16
  let b := elemBits f
  let rnd := e.mod.toNat % 8
  let rm := Rm.ofCode (if rnd = 0 then 0 else rnd - 1)
  let cs := ws.map (fun (w, p) =>
    let x := if e.mod.getLsbD 4 then intElem w else floatElem F32 w.toNat
    let (c, fl) := encodeAny x.val x.nanNeg x.int f 127 false (e.mod.getLsbD 3) (.mode rm)
    (c, fl, p))
  let v := packCodes b (cs.map (·.1))
  let bytes := (bytesOfNat (8 * b) v).zipIdx.map (fun (y, i) =>
    (y, cs.zipIdx.any (fun ((_, _, p), j) => p && decide (8 * i < b * j + b) && decide (b * j < 8 * i + 8))))
  let fl := cs.foldl (fun (a : Word) (_, g, _) =>
    a ||| (if g.invalid then 1 else 0) ||| (if g.overflow then 2 else 0) ||| (if g.inexact then 4 else 0)) 0
  (bytes, fl)

/-- MSTX (R266). -/
def execMstx (e : Enc) (s : State) : Outcome State Fault Refusal :=
  s.sIssue (.mstx e) e (fun s blk m =>
    let k := s.block blk
    let q := e.dst.toNat
    let x := e.src0.toNat
    let push := e.ext.getLsbD 0
    let fill := e.ext.getLsbD 1
    let off := e.ext.toNat / 4 % 64 * 1024
    let f := e.fn.toNat % 16
    let n := 256 * elemBits f
    if k.nring ≤ q then .fault s { cause := .accessFault, obj := ringObj q }
    else
      match m.writeSlot k q push fill with
      | none => .fault s { cause := .ringMisuse, obj := ringObj q }
      | some i =>
        let r := k.ring q
        let o := r.slotOff i + off
        if 2 ^ r.lsz < off + n then .fault s { cause := .ringMisuse, obj := ringObj q }
        else
          match s.panelXlat blk m o n .write with
          | (.error g, s1) => .fault s1 g
          | (.ok p, s1) =>
            if p.fmt ≠ 0 ∧ p.fmt ≠ f then .fault s1 (opFault .fmtMismatch (m.mwb.toNat + o) none)
            else if push && !((s1.block blk).ring q).streamTurn true then .stay (s1.streamWait blk q true)
            else
              let r0 := (s1.block blk).ring q
              let (r1, _, lap) := { r0 with pushers := r0.pushers.filter (fun y => y != RingWaiter.stream) }.push
              let s2 := (if push then s1.setRing blk q r1 else s1).meetTile blk x
              let k2 := s2.block blk
              let all := m.tilePoison.getLsbD x
              let ws := (k2.tile x).zipIdx.map (fun (w, j) => (w, all || k2.tileBad.contains ((x * 2048 + j) / 2)))
              let rows := (List.range 32).map (fun j => mstxRow e ((ws.drop (64 * j)).take 64))
              let bytes := (rows.flatMap (·.1)).zipIdx.map (fun ((b, pz), j) => (s2.localHost blk (o + j), b, pz))
              let s3 := (destRuns bytes).foldl (fun s (a, bs, pz) => s.writeOut k.fn none a bs pz) s2
              let s4 := s3.onStream blk (fun m => { m with mstat := rows.foldl (fun a y => a ||| y.2) m.mstat })
              let slot := i
              let s5 :=
                if push && fill && r.be then
                  -- one arrival and the tile's bytes, then each unit counted off (R258)
                  let b := r.bb + slot
                  let t := s4.contribute blk b { arrivals := 1, add := n, stream := true }
                  (List.range ((n + 255) / 256)).foldl (fun s j => s.contribute blk b { sub := min 256 (n - 256 * j), stream := true }) t
                else if fill then (s4.fillSlot blk q slot false).onStream blk (fun m => { m with held := m.held.erase q })
                else if push then s4.onStream blk (fun m => { m with held := m.held.set q ⟨slot, lap, true, false⟩ })
                else s4
              .ok s5 none)

/-! ### MWAITB, MARRIVE and control (R267 to R270) -/

/-- MWAITB (R267). -/
def execMwaitb (e : Enc) (s : State) : Outcome State Fault Refusal :=
  s.sIssue (.mwaitb e) e (fun s blk _ =>
    let k := s.block blk
    let b := e.src0.toNat
    let par := e.mod.getLsbD 0
    if decide (k.nbar ≤ b) || !(k.bar b).v then .fault s { cause := .accessFault, obj := barObj b }
    else if (k.bar b).psn then .fault s { cause := (k.bar b).ecause, obj := barObj b }
    else if (k.bar b).passes par then .ok s none
    else .stay (s.onStream blk (fun m => { m with wait := some (.bar b par (rawOf (.mwaitb e))) })))

/-- MARRIVE (R268): what the stream wrote and counted before reaches its barriers first. -/
def execMarrive (e : Enc) (s : State) : Outcome State Fault Refusal :=
  s.sIssue (.marrive e) e (fun s blk _ =>
    let k := s.block blk
    let b := e.src0.toNat
    if decide (k.nbar ≤ b) || !(k.bar b).v then .fault s { cause := .accessFault, obj := barObj b }
    else .ok ((s.drainStream blk).contribute blk b { arrivals := 1, stream := true }) none)

/-- MLOOP (R269). -/
def execMloop (e : Enc) (s : State) : Outcome State Fault Refusal :=
  s.sIssue (.mloop e) e (fun s blk _ =>
    .ok (s.onStream blk (fun m => { m with n := m.n.set e.dst.toNat (e.imm16.setWidth 32) })) none)

/-- A branch of the stream (R269). -/
def streamBranch (e : Enc) (s : State) (m : Stream) (f : State → State) : SRes :=
  let t := pc55 (m.pc + branchOffset e)
  if t &&& 0x1F == 0x1C then .fault s { cause := .illegalPlacement } else .ok (f s) (some t)

/-- MBRA (R269). -/
def execMbra (e : Enc) (s : State) : Outcome State Fault Refusal :=
  s.sIssue (.mbra e) e (fun s _ m => streamBranch e s m id)

/-- MBRA.NZ (R269). -/
def execMbraNz (e : Enc) (s : State) : Outcome State Fault Refusal :=
  s.sIssue (.mbraNz e) e (fun s blk m =>
    let i := e.src0.toNat
    let n := m.n.get 0 i
    if n = 0 then .ok s none
    else streamBranch e s m (fun s => s.onStream blk (fun m => { m with n := m.n.set i (n - 1) })))

/-- MEND (R252). -/
def execMend (e : Enc) (s : State) : Outcome State Fault Refusal :=
  s.sIssue (.mend e) e (fun s blk _ => .ok ((s.drainStream blk).onStream blk (fun m => { m with ended := true })) none)

/-- MYIELD (R270): every earlier instruction of the stream has completed; what it counted off fill barriers is judged, and their slots
have moved. -/
def execMyield (e : Enc) (s : State) : Outcome State Fault Refusal := s.sIssue (.myield e) e (fun s blk _ => .ok (s.drainStream blk) none)

/-! ### MXRD and MXWR (R271) -/

/-- The wave issues MXRD and MXWR (R59): it is in emulation mode and the proxy wave of a block with a matrix stream. -/
def State.mxAllowed (s : State) (blk wave : Nat) : Bool :=
  let k := s.block blk
  (s.wave blk wave).emdepth != 0 && k.stream.isSome && (match k.waves.find? (fun (_, w) => !w.ended) with | some (p, _) => p == wave | none => false)

/-- Issue one of them: anywhere else in a wave it is an undefined encoding. -/
def State.issueMx (s : State) (i : Instr) (opc : BitVec 8) (e : Enc) (body : State → Ctx → Res) : Outcome State Fault Refusal :=
  match s.cur with
  | some (.wave b w _) => if s.mxAllowed b w then s.issue i e false body else s.issueEmulated i opc e (rawOf i) false
  | _ => .fault .noIssuer

/-- The index word of MXRD and MXWR. -/
def mxIndex (w : Wave) (e : Enc) : Except Cause Nat := (w.sCode e.src1).use.map (fun x => x.toNat)

/-- The word of a tile that a lane names. -/
def mxPos (i l : Nat) : Nat := i % 32 * 64 + 32 * (i / 32 % 2) + l

/-- MXRD (R271). -/
def execMxrd (e : Enc) (s : State) : Outcome State Fault Refusal :=
  s.issueMx (.mxrd e) 0xBB e (fun s0 c =>
    let s := s0.meetTile c.blk e.src0.toNat
    let k := s.block c.blk
    lanesBody e (fun _ w l => do
      let i ← mxIndex w e
      let x := e.src0.toNat
      w.withDst l e 1 (.ok { words := [⟨(k.tile x).getD (mxPos i l) 0, k.tilePoisoned (k.stream.getD {}) x⟩] })) s c)

/-- A state word of the stream (R271). -/
def Stream.word (m : Stream) (i : Nat) : Word :=
  match i with
  | 0 => m.pc.setWidth 32
  | 1 => (m.pc >>> 32).setWidth 32
  | 2 | 3 | 4 | 5 => m.n.get 0 (i - 2)
  | 6 => m.mstat
  | 7 => m.tilePoison
  | _ => 0

/-- MXRD.S (R271). -/
def execMxrdS (e : Enc) (s : State) : Outcome State Fault Refusal :=
  s.issueMx (.mxrdS e) 0xBB e (fun s c =>
    let m := (s.block c.blk).stream.getD {}
    lanesBody e (fun _ w l => do
      let i ← mxIndex w e
      w.withDst l e 1 (.ok { words := [⟨m.word (i % 16), false⟩] })) s c)

/-- MXWR (R271): the lanes in ascending order write their words; a poisoned value poisons the tile. -/
def execMxwr (e : Enc) (s : State) : Outcome State Fault Refusal :=
  s.issueMx (.mxwr e) 0xBC e (fun s c =>
    let w := s.ctxWave c
    let x := e.dst.toNat
    match laneResults c.acting (fun l => do
        let v ← w.src0 l e
        let _ ← mxIndex w e
        .ok { words := [v] }) with
    | .error (q, m) => .fault s { cause := q, lanes := m, perFibre := true }
    | .ok rs =>
      let i := match mxIndex w e with | .ok i => i | .error _ => 0
      let k := s.block c.blk
      let t := rs.foldl (fun t (l, r) => t.set (mxPos i l) (r.words.headD {}).val) (k.tile x)
      let bad := rs.any (fun (_, r) => (r.words.headD {}).poison)
      let i0 := mxPos i 0
      -- a unit both of whose words are written is formed anew (R39)
      let whole (u : Nat) : Bool := (lanesOf c.acting).any (fun l => (2048 * x + i0 + l) / 2 == u && c.acting.getLsbD (l ^^^ 1))
      let s0 := s.setBlock c.blk { k with tiles := k.tiles.set x t, tileBad := k.tileBad.filter (fun u => !whole u) }
      let s1 := (lanesOf c.acting).foldl (fun s l => s.formTile c.blk (8192 * x + 4 * (i0 + l)) 4) s0
      Res.next (if bad then s1.onStream c.blk (fun m => { m with tilePoison := m.tilePoison ||| laneBit x }) else s1))

/-- A write of a stream state word (R271): words 2 to 7. -/
def Stream.setWord (m : Stream) (i : Nat) (v : Word) : Stream :=
  match i with
  | 2 | 3 | 4 | 5 => { m with n := m.n.set (i - 2) v }
  | 6 => { m with mstat := v &&& 0x3F }
  | 7 => { m with tilePoison := v }
  | _ => m

/-- MXWR.S (R271): the leader's value; reserved bits of MSTAT written nonzero count in RSVWRITE (R3). -/
def execMxwrS (e : Enc) (s : State) : Outcome State Fault Refusal :=
  s.issueMx (.mxwrS e) 0xBC e (fun s c =>
    let w := s.ctxWave c
    let ops : Except Cause (Word × Nat) := do
      let v ← (← w.src0 c.leader e).use
      let i ← mxIndex w e
      .ok (v, i % 16)
    match ops with
    | .error q => Res.fault s { cause := q, lanes := laneBit c.leader, perFibre := true }
    | .ok (v, i) =>
      let s1 := s.onStream c.blk (fun m => m.setWord i v)
      Res.next (if i = 6 ∧ v.toNat / 64 ≠ 0 then s1.bumpRsv (s1.ctxFn c) else s1))

/-! ### The stream's handler (R251, R363) -/

/-- PROXY_EMULATION_ENTRY (R251, R363): the stream of a block stands at an encoding to emulate; the proxy wave, once its
%emdepth is 0, runs the handler.  With no wave left the stream faults ACCESS_FAULT.  The argument is the block. -/
def execProxyEmulationEntry (s : State) : Outcome State Fault Refusal :=
  let blk := s.arg 0
  let k := s.block blk
  match k.stream with
  | none => .next s
  | some m =>
    match m.emul with
    | none => .next s
    | some x =>
      if x.running.isSome || m.stopped.isSome || k.core.isNone || k.saving then .next s
      else
        match (k.waves.find? (fun (_, w) => !w.ended)) with
        | none => .next ((s.onStream blk (fun m => { m with emul := none })).streamRaise blk m.pc x.nextPc x.raw { cause := .accessFault })
        | some (p, w) =>
          if w.emdepth ≠ 0 || w.stopped.isSome || w.evicted then .next s
          else if w.emWindow = 0 then
            .next ((s.onStream blk (fun m => { m with emul := none })).streamRaise blk m.pc x.nextPc x.raw { cause := .emulNest })
          else
            let fibres := w.live
            let ow := operandWords x.opc x.enc x.raw true x.disabled fibres fibres m.pc
            let w1 := w.enter (s.fn k.fn).emEntry fibres fibres (w.frameOf fibres x.nextPc true) ow
            .next ((s.setWave blk p w1).onStream blk (fun m => { m with emul := some { x with running := some p } }))

end Sys2Proof.Machine
end

