-- ==== Sys2Proof/Machine/Stack.lean ====
section
/-!
DEFINITION. Sys2Proof/Machine/Stack.lean: the stack engine, opcodes 0xC0 to 0xC4, and its two steps (R276 to R289).
-/

namespace Sys2Proof.Machine

open Host

/-! ### Descriptors (R277, R285) -/

/-- K of a descriptor. -/
def Desc.k (d : Desc) : Nat := 64 * d.kg
/-- The format of W is an integer format. -/
def Desc.isInt (d : Desc) : Bool := d.fmt == 1 || d.fmt == 2
/-- The bytes of a row of W (R277). -/
def Desc.rowBytes (d : Desc) : Nat := d.k * elemBits d.fmt / 8
/-- AS: the bytes from one activation vector to the next (R278). -/
def Desc.vecBytes (d : Desc) : Nat := ((if d.isInt then d.k else 2 * d.k) + 63) / 64 * 64

/-- The descriptor of a 256-bit record; none where R277 refuses it. -/
def descOf (x : Nat) : Option Desc :=
  let d : Desc :=
    { wbase := BitVec.ofNat 64 x, rows := recField x 64 32, kg := recField x 96 16, pitch := recField x 112 16, fmt := recField x 128 4 }
  let ok := decide (x % 256 = 0) && decide (1 ≤ d.rows) && decide (d.rows ≤ 1048576) && decide (1 ≤ d.kg) && decide (d.kg ≤ 1024) &&
    decide (1 ≤ d.pitch) && [1, 2, 7, 8, 10, 11, 14].contains d.fmt && decide (x / 2 ^ 132 = 0) && decide (d.rowBytes ≤ d.pitch * 256)
  if ok then some d else none

/-- The offset of SMVCFG (R284). -/
def smvOffset (e : Enc) : DWord :=
  match e.len with
  | .l128 => e.imm32.signExtend 64
  | _ => e.imm16.signExtend 64

/-- The pages of n bytes at a VA for a load of the leader, or the fault of one (R285). -/
def loadParts (s : State) (q : XReq) (va n : Nat) : Except (Cause × Nat × Option Syndrome) (List GroupPart) × State :=
  (pagePieces va n).foldl (fun (acc : Except (Cause × Nat × Option Syndrome) (List GroupPart) × State) (a, k) =>
    match acc with
    | (.error f, s) => (.error f, s)
    | (.ok gs, s) =>
      match translate s q a .read with
      | (.error (f, syn), s1) => (.error (f, a, if a < 2 ^ 55 then some syn else none), s1)
      | (.ok x, s1) => (.ok (gs ++ [⟨x, k⟩]), s1)) (.ok [], s)

/-- SMVCFG (R285): the record is read as a plain load of the leader (R130), inside a unit as a tracked load (R313).  The fabric aperture
holds no record: R289 gives the instruction no REMOTE_FAIL (log 156). -/
def smvcfgBody (e : Enc) (s : State) (c : Ctx) : Res :=
  let w := s.ctxWave c
  match useSPair w e.src0 with
  | .error k => Res.uni s k
  | .ok b =>
    let a := b + smvOffset e
    if (smvOffset e).toNat % 32 ≠ 0 then .fault s { cause := .align, fva := a }
    else
      match loadParts s (s.xreq c.blk) a.toNat 32 with
      | (.error (k, va, syn), s1) => .fault s1 { cause := k, fva := BitVec.ofNat 64 va, syn := syn }
      | (.ok gs, s1) =>
        if gs.any (fun g => g.peer.isSome || !g.x.place.covers s1 c.blk g.n) then .fault s1 { cause := .accessFault, fva := a }
        else
          match w.spec.sid, gs.any (fun g => g.x.sc) with
          | some sid, true => .stay (s1.untilPromoted sid c e)
          | sid, _ =>
            let m : MemCtx := { c := c, e := e, grp := 0, raw := rawOf (.smvcfg e) }
            match (s1.readParts sid s1 m c.leader gs).r with
            | .stop s2 => .stay s2
            | .fault s2 k syn => .fault s2 { cause := k, fva := a, syn := syn }
            | .ok s2 bs p =>
              if p then .fault s2 { cause := .poison, fva := a }
              else match descOf (natOfBytes bs) with
                | none => .fault s2 { cause := .accessFault, fva := a }
                | some d =>
                  let s3 := s2.unstalled c
                  let w1 := s3.ctxWave c
                  Res.next (s3.setCtxWave c { w1 with descs := w1.descs.set (e.dst.toNat % 4) d })

/-- SMVCFG (R285). -/
def execSmvcfg (e : Enc) (s : State) : Outcome State Fault Refusal :=
  s.issue (.smvcfg e) e false (fun s c => (smvcfgBody e s c).reporting s c)

/-! ### SMV and SMVB (R286) -/

/-- The tag of a slot of a wave (R280). -/
def Wave.tag (w : Wave) (slot : Nat) : Nat := slot + w.tagGen.get 0 slot * 16

/-- A tag slot is busy. -/
def Block.tagBusy (k : Block) (wave slot : Nat) : Bool := k.stackCmds.any (fun (_, c) => c.wave == wave && c.slot == slot)

/-- Commands outstanding on a core (R286). -/
def State.stacksOn (s : State) (core : Nat) : Nat := ((s.residents core).map (fun (_, b) => b.stackCmds.length)).sum

/-- The units of a command's results (R281). -/
def StackCmd.unitCount (c : StackCmd) : Nat := (4 * c.n * c.nv + 255) / 256
/-- The bytes of a unit. -/
def StackCmd.unitBytes (c : StackCmd) (u : Nat) : Nat := min 256 (4 * c.n * c.nv - 256 * u)

/-- SMV and SMVB (R286). -/
def smvBody (i : Instr) (e : Enc) (nv n : Nat) (s0 : State) (c : Ctx) : Res :=
  let w := s0.ctxWave c
  let k := s0.block c.blk
  let b := e.ext.toNat % 128
  let ops : Except Cause (Nat × Nat × Nat) := do
    let a ← useS w e.src0
    let r ← useS w e.src1
    let r0 ← useS w e.src2
    .ok (a, r, r0)
  match ops with
  | .error q => Res.bar s0 b q
  | .ok (aoff, roff, r0) =>
    match w.descs.get? (e.mod.toNat % 4) with
    | none => Res.bar s0 b .accessFault
    | some d =>
      if (e.mod.getLsbD 3 && !d.isInt) || decide (d.rows < r0 + n) then Res.bar s0 b .accessFault
      else if k.scratch < aoff + nv * d.vecBytes ∨ k.scratch < roff + 4 * n * nv then Res.bar s0 b .accessFault
      else if aoff % 64 ≠ 0 ∨ roff % 4 ≠ 0 then Res.bar s0 b .align
      else if decide (k.nbar ≤ b) || !(k.bar b).v then Res.bar s0 b .accessFault
      else if 64 ≤ s0.stacksOn (s0.coreOf c.blk) then .stay s0
      else
        match (List.range 16).find? (fun t => !k.tagBusy c.wave t) with
        | none => .stay s0
        | some slot =>
          let va := s0.localHost c.blk aoff
          let ra := s0.localHost c.blk roff
          let acc := e.mod.getLsbD 2
          -- the vectors, and under ACC the start values, are read now (R278, R279), with the checks of their units (R37)
          let s := (s0.meet (s0.ctxFn c) va (nv * d.vecBytes)).meet (s0.ctxFn c) ra (if acc then 4 * n * nv else 0)
          let cmd : StackCmd :=
            { wave := c.wave, slot := slot, pc := c.pc, desc := d, acc := acc, sat := e.mod.getLsbD 3, r0 := r0, n := n, nv := nv
              roff := roff, bar := b, vecs := s.bytesAt va (nv * d.vecBytes)
              vecsBad := (List.range nv).filter (fun v => s.poisonAt (va + v * d.vecBytes) d.vecBytes)
              start := if acc then (List.range (n * nv)).map (fun j => ⟨s.wordAt (ra + 4 * j), s.poisonAt (ra + 4 * j) 4⟩) else [] }
          let (id, s1) := s.drawSerial
          let k1 := s1.block c.blk
          let s2 := s1.setBlock c.blk { k1 with stackCmds := k1.stackCmds.set id cmd }
          let s3 := s2.contribute c.blk b { source := .stack c.wave (siteOf c i) id, arrivals := 1, add := 4 * n * nv }
          Res.next (s3.setCtxWave c ((s3.ctxWave c).writeS e.dst (clean [BitVec.ofNat 32 (w.tag slot)])))

/-- SMV (R286). -/
def execSmv (e : Enc) (s : State) : Outcome State Fault Refusal :=
  s.issue (.smv e) e false (notInUnit e (smvBody (.smv e) e 1 e.imm16.toNat))

/-- SMVB (R286). -/
def execSmvb (e : Enc) (s : State) : Outcome State Fault Refusal :=
  s.issue (.smvb e) e false (notInUnit e (smvBody (.smvb e) e (e.imm16.toNat / 8192 + 1) (e.imm16.toNat % 8192 + 1)))

/-- The command a tag of a wave names (R280, R287). -/
def Block.tagged (k : Block) (wave : Nat) (w : Wave) (tag : Nat) : Option (Nat × StackCmd) :=
  if tag / 16 % 4096 = w.tagGen.get 0 (tag % 16) then k.stackCmds.find? (fun (_, c) => c.wave == wave && c.slot == tag % 16) else none

/-- SMVQ (R287). -/
def execSmvq (e : Enc) (s : State) : Outcome State Fault Refusal :=
  s.issue (.smvq e) e false (fun s c =>
    let k := s.block c.blk
    uniBody e (fun _ w => do
      let t ← useS w e.src0
      .ok (clean [match k.tagged c.wave w t with | some (_, x) => if x.running then 2 else 1 | none => 0])) s c)

/-- A unit is written to the scratch (R281). -/
def State.writeUnit (s : State) (blk : Nat) (c : StackCmd) (u : Nat) : State :=
  let a := s.localHost blk (c.roff + 256 * u)
  let ws := (List.range (c.unitBytes u / 4)).map (fun j => c.results.get {} (64 * u + j))
  let bytes := ws.zipIdx.flatMap (fun (x, j) => (bytesOfNat 4 x.val.toNat).zipIdx.map (fun (b, i) => (a + 4 * j + i, b, x.poison)))
  (destRuns bytes).foldl (fun s (a, bs, p) => s.writeOut (s.block blk).fn none a bs p) s

/-- Every word of a unit has been computed. -/
def StackCmd.unitDone (c : StackCmd) (u : Nat) : Bool :=
  (List.range (c.unitBytes u / 4)).all (fun j => (c.results.get? (64 * u + j)).isSome)

/-- A unit is counted off the barrier (R281); with the last one the command is over and its tag slot frees. -/
def State.countUnit (s : State) (blk id u : Nat) : State :=
  let k := s.block blk
  match k.stackCmds.get? id with
  | none => s
  | some c =>
    let c1 := { c with units := setInsert c.units u }
    let s1 := (s.setBlock blk { k with stackCmds := k.stackCmds.set id c1 }).contribute blk c.bar { sub := c.unitBytes u }
    if c1.units.length = c.unitCount then s1.dropStack blk id else s1

/-- Cancel a command (R287): each unit not counted is counted off; one that is computed may have been written or not. -/
def State.cancelStack (s : State) (blk id : Nat) : State :=
  match (s.block blk).stackCmds.get? id with
  | none => s
  | some c =>
    (List.range c.unitCount).foldl (fun s u =>
      if c.units.contains u then s
      else
        let (wr, s1) := if c.unitDone u then s.drawBool else (false, s)
        (if wr then s1.writeUnit blk c u else s1).countUnit blk id u) s

/-- SMVCAN (R287). -/
def execSmvcan (e : Enc) (s : State) : Outcome State Fault Refusal :=
  s.issue (.smvcan e) e false (fun s c =>
    match useS (s.ctxWave c) e.src0 with
    | .error k => Res.uni s k
    | .ok t =>
      match (s.block c.blk).tagged c.wave (s.ctxWave c) t with
      | none => Res.next s
      | some (id, _) => Res.next (s.cancelStack c.blk id))

/-! ### Running (R279, R282) -/

/-- The VA of a row (R277). -/
def Desc.rowVa (d : Desc) (r : Nat) : Nat := (d.wbase.toNat + r * d.pitch * 256) % 2 ^ 64

/-- The stack of a host address (R276). -/
def stackOf (h : Nat) : Nat := h / 65536 % 16

/-- A row as a stack reads it: its stack, its bytes, its poison and its scales; or the fault it meets. -/
inductive RowRead where
  | ok (s : State) (stack : Nat) (host : Nat) (x : Xlat)
  | fault (s : State) (k : Cause) (va : Nat) (syn : Option Syndrome)

/-- Translate a row (R277, R282). -/
def State.rowXlat (s : State) (blk : Nat) (d : Desc) (r : Nat) : RowRead :=
  let va := d.rowVa r
  if va % 65536 + d.rowBytes > 65536 then .fault s .accessFault va none
  else
    match translate s (s.xreq blk) va .read with
    | (.error (k, syn), s1) => .fault s1 k va (if va < 2 ^ 55 then some syn else none)
    | (.ok x, s1) =>
      match x.place with
      | .hbm h => if !x.stk then .fault s1 .accessFault va none else if x.fmt ≠ d.fmt then .fault s1 .fmtMismatch va none else .ok s1 (stackOf h) h x
      | _ => .fault s1 .accessFault va none

/-- The scales of a row's blocks (R278): each on a stack-resident page of the row's own stack. -/
def State.rowScales (s : State) (blk : Nat) (d : Desc) (r stack : Nat) (x : Xlat) :
    Except (Cause × Nat × Option Syndrome) (List PWord) × State :=
  if x.blk = 0 || !isNarrow d.fmt then (.ok [], s)
  else
    let per := 2 ^ (3 + x.blk)
    let bytes := blockBytes d.fmt x.blk
    let q := s.xreq blk
    let base := (s.fn q.fn).scbase.get 0 x.sgrp
    (List.range ((d.k + per - 1) / per)).foldl (fun (acc : Except (Cause × Nat × Option Syndrome) (List PWord) × State) j =>
      match acc.1 with
      | .error _ => acc
      | .ok l =>
        let a := (base + BitVec.ofNat 64 ((d.rowVa r + j * bytes) / bytes)).toNat
        match translate acc.2 q a .read with
        | (.error (k, syn), s1) => (.error (k, a, if a < 2 ^ 55 then some syn else none), s1)
        | (.ok y, s1) =>
          match y.place with
          | .hbm h =>
            if y.stk && stackOf h == stack then
              let s2 := s1.meet q.fn h 1
              (.ok (l ++ [⟨(s2.byteAt h).setWidth 32, s2.poisonAt h 1⟩]), s2)
            else (.error (.accessFault, a, none), s1)
          | _ => (.error (.accessFault, a, none), s1)) (.ok [], s)

/-- The result word of one row and one vector (R279). -/
def stackResult (c : StackCmd) (wrow : List Byte) (blkCode : Nat) (scales : List PWord) (start : Word) (vec : List Byte) : Word :=
  let d := c.desc
  let w := natOfBytes wrow
  let a := natOfBytes vec
  if d.isInt then
    let s8 (x : Nat) : Int := if x < 128 then (x : Int) else (x : Int) - 256
    let t := (List.range d.k).foldl (fun (t : Int) k =>
      let x := w / 2 ^ (8 * k) % 256
      t + s8 (a / 2 ^ (8 * k) % 256) * (if d.fmt = 1 then s8 x else (x : Int))) start.toInt
    if c.sat then BitVec.ofInt 32 (clampInt (-(2 ^ 31)) (2 ^ 31 - 1) t) else BitVec.ofInt 32 t
  else
    (List.range d.kg).foldl (fun acc g =>
      let ps := (List.range 64).map (fun i =>
        let k := 64 * g + i
        let sc := match scales[k / 2 ^ (3 + blkCode)]? with | some x => x.val.toNat % 256 | none => 127
        stepProd (floatElemOf 8 (a / 2 ^ (16 * k) % 65536) 127) (floatElemOf d.fmt (rowCode d.fmt w k) sc))
      (stepAcc acc (stepSum ps).1).1) start

/-- A command fails (R282): the barrier is poisoned, one record is written, the tag slot frees. -/
def State.failStack (s : State) (blk id row : Nat) (c : StackCmd) (k : Cause) (va : Nat) (syn : Option Syndrome) : State :=
  let b := s.block blk
  let fn := s.fn b.fn
  let r : TrapRec :=
    { id := s.serial, fn := b.fn, cause := k, kind := 3, pc := c.pc, fva := BitVec.ofNat 64 va, blk := b.handle, wave := c.wave
      obj := barObj c.bar, aux := BitVec.ofNat 64 row, aux2 := BitVec.ofNat 32 ((b.waves.get {} c.wave).tag c.slot), syn := syn
      byWave := false }
  let s1 := { s.setFn b.fn { fn with recs := fn.recs ++ [r] } with serial := s.serial + 1 }
  (s1.dropStack blk id).poisonBar blk c.bar k

/-- Put results of a row into a command. -/
def StackCmd.put (c : StackCmd) (j : Nat) (rs : List PWord) : StackCmd :=
  { c with results := rs.zipIdx.foldl (fun t (x, v) => t.set (v * c.n + j) x) c.results }

/-- The commands that wait at a stack (R286). -/
def State.stackLine (s : State) (st : Nat) : List (Nat × Nat) :=
  (s.stackQ.get [] st).filter (fun (b, i) => ((s.block b).stackCmds.get? i).isSome)

/-- The step of the barrier has not judged a command's contribution yet (R281): the command may still be dropped. -/
def Block.unjudged (k : Block) (c : StackCmd) (id : Nat) : Bool :=
  (k.bar c.bar).pend.any (fun x => match x.source with | .stack _ _ i => i == id | _ => false)

/-- A stack computes row r0 + j of a command, if it holds the row and the row has no result yet (R279, R282). -/
def State.runRow (s : State) (blk id st j : Nat) : State :=
  match (s.block blk).stackCmds.get? id with
  | none => s
  | some c =>
    if (c.results.get? j).isSome then s
    else
      let row := c.r0 + j
      match s.rowXlat blk c.desc row with
      | .fault s1 q va syn => s1.failStack blk id row c q va syn
      | .ok s1 stack h x =>
        if stack ≠ st then s1
        else
          match s1.rowScales blk c.desc row stack x with
          | (.error (q, va, syn), s2) => s2.failStack blk id row c q va syn
          | (.ok scs, s2) =>
            let s3 := s2.meet (s2.block blk).fn h c.desc.rowBytes
            let bytes := s3.bytesAt h c.desc.rowBytes
            let bad := s3.poisonAt h c.desc.rowBytes || scs.any (fun y => y.poison)
            let as_ := c.desc.vecBytes
            let rs := (List.range c.nv).map (fun v =>
              let start := c.start.getD (v * c.n + j) {}
              (⟨stackResult c bytes x.blk scs start.val ((c.vecs.drop (v * as_)).take as_), bad || c.vecsBad.contains v || start.poison⟩ : PWord))
            let k3 := s3.block blk
            s3.setBlock blk { k3 with stackCmds := k3.stackCmds.set id (c.put j rs) }

/-- A stack serves a command: it computes the rows it holds (R286). -/
def State.runStack (s : State) (blk id st : Nat) (c : StackCmd) : State :=
  let k := s.block blk
  (List.range c.n).foldl (fun s j => s.runRow blk id st j)
    (s.setBlock blk { k with stackCmds := k.stackCmds.set id { c with running := true } })

/-- STACK_COMMAND_RUN (R279, R281, R286): a command whose contribution has been judged comes to a stack that has room for it, or, once it is
the oldest there, is served; arguments are the block, the command and the stack. -/
def execStackCommandRun (s : State) : Outcome State Fault Refusal :=
  let blk := s.arg 0
  let id := s.arg 1
  let st := s.arg 2
  match (s.block blk).stackCmds.get? id with
  | none => .next s
  | some c =>
    let q := s.stackLine st
    if (s.block blk).core.isNone || (s.block blk).unjudged c id then .next s
    else if !q.contains (blk, id) then .next (if q.length < 64 then { s with stackQ := s.stackQ.set st (q ++ [(blk, id)]) } else s)
    else if q.head? != some (blk, id) then .next s
    else .next ({ s with stackQ := s.stackQ.set st (q.drop 1) }.runStack blk id st c)

/-- STACK_RESULT_UNIT (R281): the next unit, once its words are all computed, is written and counted; arguments are the block, the command
and the unit. -/
def execStackResultUnit (s : State) : Outcome State Fault Refusal :=
  let blk := s.arg 0
  let id := s.arg 1
  let u := s.arg 2
  match (s.block blk).stackCmds.get? id with
  | none => .next s
  | some c =>
    if c.units.length != u || decide (c.unitCount ≤ u) || !c.unitDone u || (s.block blk).unjudged c id then .next s
    else .next ((s.writeUnit blk c u).countUnit blk id u)

end Sys2Proof.Machine
end

