-- ==== Sys2Proof/Machine/Save.lean ====
section
/-!
DEFINITION. Sys2Proof/Machine/Save.lean: the end of a block (R20, R226), saving and restoring a block (R137, R248, R275, R288, R337, R384
to R386), its answers (R355), and abandoning it.
-/

namespace Sys2Proof.Machine

open Host

/-! ### The end of a block (R20, R226) -/

/-- A block is over: its waves and its stream have ended, its commands and stores have completed, and no record holds it. -/
def Block.isOver (b : Block) : Bool :=
  b.waves.all (fun (_, w) => w.ended && w.acc.isEmpty) && (match b.stream with | some m => m.ended | none => true) &&
  b.copies.isEmpty && b.stackCmds.isEmpty && b.holds.isEmpty && !b.saving

/-- Note on a launch that one of its blocks was ended by ABANDON (R379). -/
def State.noteAbandon (s : State) (b : Block) : State :=
  if b.abandoned && b.task.isNone then
    { s with launches := s.launches.map (fun l => if l.fn == b.fn && l.ticket == b.ticket then { l with abandoned := true } else l) }
  else s

/-- Take a block that is over off the device. -/
def State.reap (s : State) (blk : Nat) : State :=
  let b := s.block blk
  if (s.blocks.get? blk).isSome && b.isOver then
    let s1 := s.noteAbandon b
    { s1 with blocks := s1.blocks.erase blk, restores := s1.restores.filter (fun k => k != blk) }
  else s

/-! ### Saving (R137, R248, R275, R288, R337, R362, R384) -/

/-- A wave stands where it can be saved: it is at an instruction boundary or a blocking point, no handler of it runs on (R362),
and it waits for no remote access's outcome. -/
def Wave.savable (w : Wave) : Bool :=
  w.acc.all (fun a => a.remote.isNone) &&
  (w.ended || w.evicted || w.stopped.isSome || w.emdepth == 0 || w.batches.isEmpty)

/-- A block can be saved now: its waves stand, and its stack commands have completed (R288). -/
def Block.savable (b : Block) : Bool :=
  b.saving && b.core.isSome && b.stackCmds.isEmpty && b.waves.all (fun (_, w) => w.savable)

/-- The speculative unit of a wave aborts with MIGRATE, or is promoted where it is the frontier task (R337). -/
def State.leaveUnit (s : State) (blk wave : Nat) : State :=
  match (s.wave blk wave).spec.sid with
  | none => s
  | some sid => if s.isFrontier (s.unit sid) then s.promote sid else s.abort [sid] 7

/-- Every access of a wave in flight completes (R137); a WAITW whose word still holds the comparand watches on. -/
def State.completeWave (s : State) (blk wave : Nat) : State :=
  let s1 := s.performWhere blk wave (fun _ => true)
  let reads := (s1.wave blk wave).acc.filter (fun a => a.remote.isNone)
  (reads.foldl (fun s a => if (s.accOf blk wave a.id).isSome then s.waitwRead blk wave a else s) s1).reportLate blk wave

/-- The accesses of a WAITW's wait are all local: it can be watched for an evicted wave. -/
def Park.watches (p : Park) : Bool := match p.why with | .waitw .. => true | _ => false

/-- The wait is a WAITW's; a saved wave waits for no outcome, so that a wait for remote lanes is a WAITW's too. -/
def Park.waitsWord (p : Park) : Bool := match p.why with | .waitw .. | .remote .. => true | _ => false

/-- The lanes of a wait that consumed poison. -/
def Why.poisoned (y : Why) : BitVec 32 :=
  match y with
  | .waitw _ bad => bad
  | .remote _ fails => maskOf ((fails.filter (fun f => f.cause == .poison)).map (·.lane))
  | _ => 0

/-- The watch of the waits that satisfy a test is dropped (R123): their lines are kept, and the poison that lanes of them consumed, which
is raised once the WAITW has been executed again. -/
def Wave.dropWatch (w : Wave) (blk wave : Nat) (p : Park → Bool) : Wave :=
  let ps := (w.waits.filter (fun (_, x) => p x)).map (·.2)
  let mine (a : Access) : Bool := a.kind.readsOnly && ps.any (fun x => x.lanes.getLsbD a.lane)
  let note (w : Wave) (x : Park) : Wave :=
    let c := waitCtx blk wave w x
    match x.why.poisoned, w.partDone x.lanes with
    | 0, _ | _, none => w
    | bad, some g => w.noteLate g { pc := c.pc, nextPc := c.nextPc, raw := rawOf (.waitw x.enc), lanes := bad }
  ps.foldl note { w with watch := (w.acc.filter mine).map (fun a => a.addr / 128 * 128), acc := w.acc.filter (fun a => !mine a) }

/-- The WAITWs whose watch was dropped execute again, with the lanes outside the done-mask (R123). -/
def Wave.rewatch (w : Wave) (p : Park → Bool) : Wave :=
  ((w.waits.filter (fun (_, x) => p x)).map (·.1)).foldl (fun w n => w.wakeAt n true) { w with watch := [] }

/-- The waves of a block by number. -/
def Block.waveIds (b : Block) : List Nat := b.waves.map (·.1)

/-- The chunks in flight of every command of a block finish (R248). -/
def State.finishChunks (s : State) (blk : Nat) : State :=
  (s.block blk).copies.foldl (fun s (id, c) =>
    c.flight.foldl (fun s i =>
      match (s.block blk).copies.get? id with
      | some d => if d.flight.contains i then s.chunkDone blk id i else s
      | none => s) s) s

/-- The listed bytes of a range of memory, by offset. -/
def memImage (m : List Cell) (a n : Nat) : List Cell :=
  (m.filter (fun (x, _) => decide (a ≤ x) && decide (x < a + n))).map (fun (x, b) => (x - a, b))

/-- A memory without the cells of a range. -/
def memClear (m : List Cell) (a n : Nat) : List Cell := m.filter (fun (x, _) => !(decide (a ≤ x) && decide (x < a + n)))

/-- The first host address of a resident block's scratch. -/
def State.scratchAddr (s : State) (blk : Nat) : Nat := sliceAddr (s.coreOf blk) (s.block blk).scrBase

/-- A block in the restore queue: the reclaimed ones at the head, in the order in which they were saved (R386). -/
def State.queueRestore (s : State) (blk : Nat) : State :=
  if (s.block blk).toHead then
    let (hd, tl) := (s.restores.takeWhile (fun k => (s.block k).toHead), s.restores.dropWhile (fun k => (s.block k).toHead))
    { s with restores := hd ++ [blk] ++ tl }
  else { s with restores := s.restores ++ [blk] }

/-- A saved block whose records are all answered waits to be restored (R386). -/
def State.settleSaved (s : State) (blk : Nat) : State :=
  let b := s.block blk
  if (s.blocks.get? blk).isSome && b.core.isNone && b.holds.isEmpty && !s.restores.contains blk then s.queueRestore blk else s

/-- The waves of a block as a save leaves them: no reservation (R118), and no access (R137). -/
def Wave.saved (w : Wave) (blk wave : Nat) : Wave := { w.dropWatch blk wave (fun _ => true) with resv := none, rresv := none, watch := [] }

/-- A block leaves its core: its scratch goes into its image, and the core's copies for it go (R137). -/
def State.takeOff (s0 : State) (blk : Nat) : State :=
  let s := s0.emptyL1 (s0.coreOf blk)
  let b := s.block blk
  let a := s.scratchAddr blk
  let img := memImage s.mem a b.scratch
  let bad := (s.poisoned.filter (fun x => decide (a ≤ x) && decide (x < a + b.scratch))).map (fun x => x - a)
  s.setBlock blk
    { b with
      core := none
      saving := false
      image := img
      imagePoison := bad
      residency := b.residency + (s.clock - b.placedAt)
      placedAt := s.clock
      saveBy := none
      waves := b.waves.map (fun (k, w) => (k, w.saved blk k))
      copies := b.copies.map (fun (k, c) => (k, { c with stage := match c.stage with | .queued _ => .waitsEntry | x => x, flight := [] })) }

/-- Save a block that can be saved. -/
def State.saveBlock (s : State) (blk : Nat) : State :=
  let ids := (s.block blk).waveIds
  let s1 := ids.foldl (fun s w => if (s.blocks.get? blk).isSome then s.leaveUnit blk w else s) s
  if (s1.blocks.get? blk).isNone then s1
  else
    let s2 := ids.foldl (fun s w => s.completeWave blk w) s1
    let s3 := (s2.drainAll blk).finishChunks blk
    s3.takeOff blk

/-- Put a saved block back on a core (R48, R137, R386): its scratch comes back, its waits are judged again, and WAITW executes again. -/
def State.restoreBlock (s0 : State) (blk core base : Nat) : State :=
  let b := s0.block blk
  let sT := if b.stream.isSome then s0.clearTiles core else s0
  let s := (sT.emptyL1 core).forgetCode core
  let a := sliceAddr core base
  let mem := b.image.foldl (fun m (o, x) => memSet m (a + o) x) (memClear s.mem a b.scratch)
  let bad := s.poisoned.filter (fun x => !(decide (a ≤ x) && decide (x < a + b.scratch)))
  let s1 := { s with
    mem := mem
    poisoned := b.imagePoison.foldl (fun p o => setInsert p (a + o)) bad
    restores := s.restores.filter (fun k => k != blk) }
  s1.setBlock blk
    { b with
      core := some core, scrBase := base, image := [], imagePoison := [], placedAt := s.clock, toHead := false
      -- the estimate keeps the age it was saved with (R393)
      estimate := b.estimate.map (fun (m, t) => (m, t + (s.clock - b.placedAt)))
      waves := b.waves.map (fun (k, w) => (k, w.rewatch Park.waitsWord)) }

/-- Throw a block away so that it starts again from its launch (R384). -/
def State.discardBlock (s : State) (blk : Nat) : State :=
  let s1 := (s.block blk).waveIds.foldl (fun s w =>
    match (s.wave blk w).spec.sid with
    | some sid => s.abort [sid] 7
    | none => s.returnToken (s.block blk).fn blk w) s
  let b := s1.block blk
  match s1.launchOf b with
  | none => s1
  | some l =>
    let i := b.x + l.gx * (b.y + l.gy * b.z)
    { s1 with
      blocks := s1.blocks.erase blk
      launches := s1.launches.map (fun k =>
        if k.fn == l.fn && k.ticket == l.ticket then { k with again := setInsert k.again i } else k) }

/-! ### Answers (R355, R363, R368, R408) -/

/-- End a block (R355): every wave ends as by EXIT and the stream ends; its other records need no answer. -/
def State.abandonBlock (s : State) (blk : Nat) : State :=
  let s1 := (s.block blk).waveIds.foldl (fun s w => if (s.wave blk w).ended then s else s.endWave blk w) s
  let b := s1.block blk
  let mine (r : TrapRec) : Bool := b.holds.contains r.id
  let fn := s1.fn b.fn
  let s2 := s1.setFn b.fn { fn with waiting := fn.waiting.filter (fun x => !mine x.record) }
  let susp := b.copies.filter (fun (_, c) => c.stage == .suspended)
  let s3 := s2.setBlock blk
    { b with
      holds := []
      answers := []
      abandoned := true
      stream := b.stream.map (fun m => { m with ended := true, stopped := none, wait := none, emul := none }) }
  -- a suspended command has no record left that could resume it
  let s4 := susp.foldl (fun s (id, _) => s.endCopy blk id (some .pageFault)) s3
  (s4.settleSaved blk).reap blk

/-- A wave that was stopped on a record is no longer: a handler's count starts again after WATCHDOG, and after a stall on the trap ring
(R362). -/
def Wave.answered (w : Wave) (r : TrapRec) : Wave :=
  { w with stopped := none, wdCount := if r.cause == .watchdog || (r.stalled && w.emdepth != 0) then 0 else w.wdCount }

/-- A wave that was stopped on a record goes on: at the same instruction, or at the next (R355).  An instruction that is skipped has
completed in no sense: poison that lanes of it consumed raises nothing more (log 155). -/
def Wave.goOn (w : Wave) (r : TrapRec) (skip : Bool) : Wave :=
  let w1 := w.answered r
  if skip then
    let m := maskOf ((lanesOf r.members).filter (fun l => (w1.lane l).pc == r.pc && (w1.lane l).cond == .runnable))
    let w2 := w1.mapLanes m (fun _ x => { x with pc := r.nextPc })
    let w3 := match w2.partDone r.members with | some g => w2.dropLate g | none => w2
    (w3.clearDone r.members).repartition m m
  else w1

/-- One answer takes effect on a block (R355): action 0 RETRY, 1 SKIP, 2 ABANDON. -/
def State.applyAnswer (s : State) (r : TrapRec) (act : Nat) (aux : DWord) : State :=
  let blk := r.blkId
  if !((s.block blk).holds.contains r.id) then s
  else
    let s0 := s.setBlock blk { s.block blk with holds := (s.block blk).holds.filter (fun k => k != r.id) }
    let goStream (f : Stream → Stream) (s : State) : State := s.onStream blk (fun m => f { m with stopped := none })
    let fin (s : State) : State := (s.settleSaved blk).reap blk
    match r.resume with
    | .copy id =>
      if act = 0 then
        let b := s0.block blk
        fin (s0.setBlock blk { b with copies := match b.copies.get? id with
          | some c => b.copies.set id { c with stage := .waitsEntry }
          | none => b.copies })
      else fin (s0.endCopy blk id (some .pageFault))
    | res =>
      if act = 2 ∨ (act = 1 ∧ res = .fetch) then s0.abandonBlock blk
      else if r.kind = 1 then
        fin (goStream (fun m => if act = 1 ∧ res = .reissue then { m with pc := r.nextPc } else m) s0)
      else
        let w := s0.wave blk r.wave
        let w1 := match res with
          | .hostcall d =>
            let pair := (dwords aux).zipIdx.foldl (fun (w : Wave) (x, i) => w.setS (d + i) ⟨x, false⟩) w
            pair.answered r
          | .reissue => w.goOn r (act == 1)
          | _ => w.goOn r false
        fin (s0.setWave blk r.wave w1)

/-- An answer (R355): it waits while the block is still being saved. -/
def State.answer (s : State) (r : TrapRec) (act : Nat) (aux : DWord) : State :=
  let b := s.block r.blkId
  if b.saving then s.setBlock r.blkId { b with answers := b.answers ++ [(r, act, aux)] }
  else s.applyAnswer r act aux

/-- The answers that came while a block was being saved take effect (R355). -/
def State.lateAnswers (s : State) (blk : Nat) : State :=
  let as := (s.block blk).answers
  as.foldl (fun s (r, act, aux) => s.applyAnswer r act aux) (s.setBlock blk { s.block blk with answers := [] })

/-- A save that ends after its deadline is reported in the PF event ring (R384, R424): INFO is the µs past it. -/
def State.reportOverdue (s : State) (b : Block) : State :=
  match b.saveBy, b.core with
  | some d, some c =>
    if d < s.clock then s.event [0] b.fn 0x06 (eventObj 5 (c / 8)) 0 (BitVec.ofNat 64 ((s.clock - d) / 800)) else s
  | _, _ => s

/-- BLOCK_SAVE_COMPLETE (R355, R384): the argument is the block. -/
def execBlockSaveComplete (s : State) : Outcome State Fault Refusal :=
  let blk := s.arg 0
  if (s.blocks.get? blk).isSome && (s.block blk).savable then
    let s1 := (s.reportOverdue (s.block blk)).saveBlock blk
    .next (if (s1.blocks.get? blk).isSome then (s1.lateAnswers blk).settleSaved blk else s1)
  else .next s

end Sys2Proof.Machine
end

