-- ==== Sys2Proof/Machine/Dispatcher.lean ====
section
/-!
DEFINITION. Sys2Proof/Machine/Dispatcher.lean: the dispatcher (R370 to R393): launch queues and records, placement, elastic waves,
eviction, the end of a slice, and the instructions 0x1C to 0x1F.
-/

namespace Sys2Proof.Machine

open Host

/-- A microsecond in core cycles (R8). -/
def usec : Nat := 800

/-! ### Queues (R370 to R372, R421) -/

def State.queue (s : State) (fn q : Nat) : Queue := (s.fn fn).queues.get {} q
def State.setQueue (s : State) (fn q : Nat) (x : Queue) : State :=
  s.setFn fn { s.fn fn with queues := (s.fn fn).queues.set q x }

/-- EN of a queue. -/
def Queue.on (q : Queue) : Bool := q.ctl.getLsbD 0
/-- The guest PA of slot 0: a multiple of 256. -/
def Queue.slots (q : Queue) : Nat := q.base.toNat % 2 ^ 56 / 256 * 256
/-- A queue that a check has disabled. -/
def Queue.off (q : Queue) : Queue := { q with ctl := q.ctl &&& ~~~(1 : Word) }

/-- A queue's ring does not translate (R421): EN := 0, and RING_BAD_BASE. -/
def State.queueBad (s : State) (fn q gpa : Nat) : State := (s.setQueue fn q (s.queue fn q).off).badBase fn 0 q gpa

/-- A write of an index to a queue's notify word (R371, R421). -/
def State.notify (s : State) (fn q idx : Nat) : State :=
  let x := s.queue fn q
  let n := ringSize x.ctl
  let s1 := if s.s2PagesOk fn x.slots (256 * n) .read then s else s.queueBad fn q x.slots
  let y := s1.queue fn q
  if n ≤ idx then
    (s1.setQueue fn q { y with bad := true }).event [fn] fn 0x02 (eventObj 0 q) 0 (BitVec.ofNat 64 idx)
  else s1.setQueue fn q { y with wr := idx, bad := false }

/-- A write of LQCTL (R370): one that leaves EN = 1 checks the queue (R421). -/
def State.writeLqctl (s : State) (fn q : Nat) (v : Word) : State :=
  let x := { s.queue fn q with ctl := v &&& 0x3F }
  let s1 := s.setQueue fn q x
  if x.on && !s1.s2PagesOk fn x.slots (256 * ringSize x.ctl) .read then s1.queueBad fn q x.slots else s1

/-- QUEUE_NOTIFY (R371): arguments are the function, the queue, the offset in its notify page and the value. -/
def execQueueNotify (s : State) : Outcome State Fault Refusal :=
  let fn := s.arg 0
  if (s.fn fn).resetting then .next s
  else if s.arg 2 ≠ 0 then .next (s.bumpRsv fn) else .next (s.notify fn (s.arg 1 % 16) (s.arg 3 % 2 ^ 32))

/-! ### Accepting a record (R372 to R376) -/

/-- Give a record the next ticket of a queue. -/
def State.takeTicket (s : State) (fn q record : Nat) (bad badCplt : Bool) : Word × State :=
  let x := s.queue fn q
  let t : Word := BitVec.ofNat 32 (q * 2 ^ 28 + x.count % 2 ^ 28)
  let s1 := s.setQueue fn q { x with count := x.count + 1 }
  (t, { s1 with launches := s1.launches ++ [{ fn := fn, ticket := t, record := record, bad := bad, badCplt := badCplt }] })

/-- Who translates for a function outside every block (R375, R379): the function, from its first core. -/
def State.fnReq (s : State) (fn : Nat) : XReq := { fn := fn, blk := none, core := (s.coresOf fn).headD 0 }

/-- Read n bytes of a function's VA at their homes; none where it faults or consumes poison. -/
def State.readFnVA (s : State) (fn va n : Nat) : Option (List Byte) × State :=
  (pagePieces va n).foldl (fun (acc : Option (List Byte) × State) (a, k) =>
    match acc with
    | (none, s) => (none, s)
    | (some bs, s) =>
      match translate s (s.fnReq fn) a .read with
      | (.error _, s1) => (none, s1)
      | (.ok x, s1) =>
        match x.place.host s1 none with
        | none => (none, s1)
        | some h => (if s1.poisonAt h k then none else some (bs ++ s1.bytesAt h k), s1.meet fn h k)) (some [], s)

/-- Read the ring table of a launch (R375); none refuses it. -/
def State.readRings (s : State) (l : Launch) : Option (List Word) × State :=
  let rtab := l.field 1792 64
  let n := l.field 216 8
  if rtab = 0 then (some [], s)
  else if rtab % 16 ≠ 0 then (none, s)
  else
    match s.readFnVA l.fn rtab (4 * n) with
    | (none, s1) => (none, s1)
    | (some bs, s1) => (some ((List.range n).map (fun i => BitVec.ofNat 32 (natOfBytes ((bs.drop (4 * i)).take 4)))), s1)

/-- An entry of the ring table that R375 allows. -/
def ringEntryOk (nbar : Nat) (w : Word) : Bool :=
  let n := w.toNat
  let ns := n / 32 % 256
  if n % 2 = 0 then decide (n = 0)
  else
    decide (n / 2 ^ 21 = 0) && decide (n / 2 % 16 ≤ 10) && decide (ns ≠ 0) &&
    (if w.getLsbD 13 then decide (n / 2 ^ 14 % 128 + ns + 1 ≤ nbar) else decide (n / 2 ^ 14 % 128 = 0))

/-- A used role descriptor in its ranges (R374). -/
def RoleDesc.inRange (r : RoleDesc) : Bool :=
  decide (r.kind ≠ 0) && decide (r.rsv = 0) && decide (r.wmin ≤ r.wmax) && decide (r.wmax ≤ 32) &&
  (if r.kind = 3 then decide (r.regs = 0) && decide (r.wmin = 0)
    else decide (1 ≤ r.regs) && decide (r.regs ≤ 24) && decide (1 ≤ r.wmin) && decide (r.wmin ≤ 32)) &&
  (decide (r.wmax ≤ r.wmin) || r.inv)

/-- The roles agree with each other and with NROLE (R376). -/
def Launch.rolesOk (l : Launch) : Bool :=
  let rs := l.roles.map (·.2)
  let mats := rs.filter (fun r => r.kind == 3)
  rs.all RoleDesc.inRange &&
  (l.field 0 3 != 0 || rs.all (fun r => r.kind == 2 && r.stage == 0 && r.wmax == r.wmin)) &&
  decide ((rs.map (·.stage)).eraseDups.length = rs.length) &&
  decide (mats.length ≤ 1) && (mats.isEmpty || rs.any (fun r => r.kind != 3)) &&
  decide (rs.foldl (fun n r => n + r.wmax) 0 ≤ 32)

/-- The record's fields lie in their ranges (R373, R376). -/
def Launch.fieldsOk (l : Launch) : Bool :=
  decide (l.field 13 19 = 0) && decide (l.field 224 32 = 0) && decide (l.field 608 32 = 0) && decide (l.field 1856 192 = 0) &&
  decide (l.field 0 3 ≤ 4) && decide (l.field 8 4 ≤ 8) &&
  decide (1 ≤ l.gx) && decide (1 ≤ l.gy) && decide (1 ≤ l.gz) && decide (l.blocks < 2 ^ 32) &&
  decide (l.field 192 16 ≤ 39936) && decide (l.field 208 8 ≤ 128) && decide (l.field 216 8 ≤ 32) &&
  (l.stream.isNone || decide (l.field 320 64 % 65536 = 0)) && decide (l.field 384 64 % 4 = 0)

/-- The gang fits an empty core of the function (R376). -/
def State.fitsEmpty (s : State) (l : Launch) : Bool :=
  let n := l.need (s.fn l.fn).emWindowNow
  n.within && (s.coresOf l.fn).any (fun c => decide (n.scratch ≤ s.scratchShare c))

/-- No predecessor is a ticket that its queue has not issued (R376). -/
def State.predsIssued (s : State) (l : Launch) : Bool :=
  (List.range 4).all (fun i =>
    let p := BitVec.ofNat 32 (l.field (640 + 32 * i) 32)
    p == 0xFFFFFFFF || (s.ticketDone l.fn p).isSome)

/-- The checks of R376 on a record with its ring table. -/
def State.launchOk (s : State) (l : Launch) (rings : Option (List Word)) : Bool :=
  !l.bad && l.fieldsOk && l.rolesOk &&
  (match rings with
    | none => false
    | some ws => ws.all (ringEntryOk (l.field 208 8)) && decide ((ringLayout ws).2 ≤ 256 * l.field 192 16)) &&
  s.fitsEmpty l && s.predsIssued l

/-- A launch by its function and ticket. -/
def Launch.is (l : Launch) (fn : Nat) (t : Word) : Bool := l.fn == fn && l.ticket == t

/-- Write a launch's status word with a release, or report that it could not be written (R379). -/
def State.writeCplt (s : State) (l : Launch) (status : Nat) : State :=
  let va := l.field 384 64
  if va = 0 then s
  else
    let failed (s : State) : State := s.event [l.fn] l.fn 0x0F 0 (BitVec.ofNat 64 va) (l.ticket.setWidth 64)
    if va % 4 ≠ 0 then failed s
    else
      match translate s (s.fnReq l.fn) va .write with
      | (.error _, s1) => failed s1
      | (.ok x, s1) =>
        match x.place with
        | .hbm _ | .slice .. =>
          (match x.place.host s1 none with
            | some h => s1.writeOut l.fn none h (bytesOfNat 4 status) false
            | none => failed s1)
        | _ => failed s1

/-- A launch is over. -/
def State.dropLaunch (s : State) (l : Launch) : State := { s with launches := s.launches.filter (fun k => !k.is l.fn l.ticket) }

/-- Check a launch (R376): it may place blocks from now on, or it is refused. -/
def State.checkLaunch (s : State) (l : Launch) : State :=
  let (rings, s1) := if l.bad then (none, s) else s.readRings l
  if s1.launchOk l rings then
    { s1 with launches := s1.launches.map (fun k => if k.is l.fn l.ticket then { k with checked := true, rings := rings.getD [] } else k) }
  else
    let s2 := (s1.dropLaunch l).event [l.fn] l.fn 0x04 0 0 (l.ticket.setWidth 64)
    if l.badCplt then s2 else s2.writeCplt l 2

/-- Read the record at RD of a queue, if it has one to read (R372). -/
def State.readRecord (s : State) (fn q : Nat) : State :=
  let x := s.queue fn q
  if !x.on || x.bad || x.rd == x.wr then s
  else
    let gpa := x.slots + 256 * x.rd
    match if s.s2PagesOk fn x.slots (256 * ringSize x.ctl) .read then s.s2Access fn gpa .read else none with
    | none => s.queueBad fn q x.slots
    | some (h, s0) =>
      let s1 := s0.meet fn h 256
      let (t, s2) := s1.takeTicket fn q (s1.natAt h 256) (s1.poisonAt h 256) (s1.poisonAt (h + 48) 8)
      let y := s2.queue fn q
      let s3 := s2.setQueue fn q { y with rd := (y.rd + 1) % ringSize y.ctl }
      match s3.launches.find? (fun l => l.is fn t) with
      | some l => s3.checkLaunch l
      | none => s3

/-- LAUNCH_RECORD_ACCEPT (R372, R388): arguments are the function and the queue; a record that LAUNCH gave goes first. -/
def execLaunchRecordAccept (s : State) : Outcome State Fault Refusal :=
  let fn := s.arg 0
  let q := s.arg 1 % 16
  if (s.fn fn).resetting then .next s
  else
    match s.launches.find? (fun l => l.fn == fn && !l.checked && l.ticket.toNat / 2 ^ 28 == q) with
    | some l => .next (s.checkLaunch l)
    | none => .next (s.readRecord fn q)

/-- LAUNCH_COMPLETE (R379): arguments are the function and the ticket. -/
def execLaunchComplete (s : State) : Outcome State Fault Refusal :=
  let fn := s.arg 0
  match s.launches.find? (fun l => l.is fn (BitVec.ofNat 32 (s.arg 1))) with
  | none => .next s
  | some l =>
    let mine := s.blocks.any (fun (_, b) => b.task.isNone && b.fn == fn && b.ticket == l.ticket)
    if !l.checked || l.nextIdx.isSome || mine then .next s
    else .next ((s.dropLaunch l).writeCplt l (if l.abandoned then 3 else 1))

/-! ### Eviction (R383) -/

/-- A reason that is a blocking point (R42, R312). -/
def Why.blocking (y : Why) : Bool := match y with | .gang .. | .cnt .. | .ffence => false | _ => true

/-- The clock since which a wave waits at blocking points, if it does. -/
def Wave.waitsSince (w : Wave) : Option Nat :=
  if w.ended || w.evicted || w.stopped.isSome || !w.batches.isEmpty || w.waits.isEmpty || !w.waits.all (fun (_, p) => p.why.blocking) then none
  else some (w.waits.foldl (fun n (_, p) => max n p.since) 0)

/-- The clock since which a wave waits: at blocking points, or parked on a deferred fault (R42, R335). -/
def State.waitsSince (s : State) (w : Wave) : Option Nat :=
  match w.spec.sid with
  | some k =>
    let u := s.unit k
    if u.deferred.isSome && !w.ended && !w.evicted && w.stopped.isNone then some u.deferredAt else w.waitsSince
  | none => w.waitsSince

/-- The wait of an evicted wave is over, as its blocking point judges it (R383). -/
def State.waitOver (s : State) (blk wave : Nat) (y : Why) : Bool :=
  let b := s.block blk
  let w := s.wave blk wave
  match y with
  | .waitb n par => (b.bar n).passes par || !(b.bar n).v
  | .ringEnd c push =>
    let r := b.ring c
    let first := (if push then r.pushers else r.poppers).head?
    !r.v || ((if push then r.canPush else r.canPop) &&
      (match first with | some (.wave k n) => k == wave && (w.waits.get? n).isSome | _ => false))
  | .ringRoom c => decide ((b.ring c).pushers.length < 16)
  | .waitk mask nbs => w.batchesDone mask nbs
  -- a watched line has been written (R123)
  | .waitw .. => w.watch.isEmpty
  | .remote left _ => left == 0 || w.acc.all (fun a => a.remote.isNone)
  | .admission => s.canAdmit (s.coreOf blk)
  | .admitTask => s.canAdmit (s.coreOf blk) || (match b.task with | some t => s.taskFrontier t | none => true)
  | .token => (s.fn b.fn).token.isNone
  | .record id _ => !((s.fn b.fn).recs.any (fun r => r.id == id))
  | .edge _ | .promote | .tdefer .. | .rend | .gang .. | .cnt .. | .ffence => true

/-- The proxy wave (R251): the lowest-numbered wave that has not ended. -/
def Block.proxy (b : Block) : Option (Nat × Wave) := b.waves.find? (fun (_, w) => !w.ended)

/-- The stream needs a wave: it is the proxy wave, and an encoding waits for it or runs on it (R251). -/
def Block.streamNeeds (b : Block) (wave : Nat) : Bool :=
  match b.stream.bind (fun m => m.emul) with
  | some e => (match e.running with | some k => k == wave | none => (b.proxy.map (·.1)) == some wave)
  | none => false

/-- An evicted wave may go on (R251, R380, R383). -/
def State.wantsBack (s : State) (blk wave : Nat) : Bool :=
  let w := s.wave blk wave
  w.evicted && (!w.batches.isEmpty || w.waits.any (fun (_, p) => s.waitOver blk wave p.why) || (s.block blk).streamNeeds wave)

/-- What a wave takes when it comes back. -/
def Wave.backNeed (w : Wave) : Need := { waves := 1, regs := w.regs }

/-- The evicted waves of a core that may go on: those that a stream needs ahead of every other (R251). -/
def State.backWaves (s : State) (core : Nat) : List (Nat × Nat) :=
  let ws := (s.onCore core).flatMap (fun (k, b) => if b.saving then [] else (b.waveIds.filter (fun w => s.wantsBack k w)).map (fun w => (k, w)))
  ws.filter (fun (b, w) => (s.block b).streamNeeds w) ++ ws.filter (fun (b, w) => !(s.block b).streamNeeds w)

/-- What waits to be placed on a core, as needs (R383): evicted waves, the next saved block, the next blocks, the tasks. -/
def State.waitingNeeds (s : State) (core : Nat) : List Need :=
  let fn := s.clusterHolder (core / 8)
  let em := (s.fn fn).emWindowNow
  let (o, p) := s.waitingTasks core
  (s.backWaves core).map (fun (b, w) => (s.wave b w).backNeed) ++
  (if s.serves fn core then
    ((s.restores.find? (fun b => (s.block b).fn == fn)).map (fun b => (s.block b).need)).toList ++
      (s.launchOrder fn).map (fun l => l.need em)
    else []) ++
  (o ++ p).map (fun t => gangNeed [t.wave] em 0 0 t.scratch false)

/-- A need fits a core but for its registers. -/
def State.onlyRegs (s : State) (core : Nat) (n : Need) : Bool :=
  let t := (s.taken core).add n
  decide (12288 < t.regs) && { t with regs := 0 }.within && (s.scratchFit core n.scratch).isSome

/-- The wave of a core that has waited longest, at least 1,024 cycles. -/
def State.evictable (s : State) (core : Nat) : Option (Nat × Nat) :=
  let ws := (s.onCore core).flatMap (fun (k, b) =>
    if b.saving then [] else b.waves.filterMap (fun (i, w) => (s.waitsSince w).map (fun t => (t, k, i))))
  let best := ws.foldl (fun (m : Option (Nat × Nat × Nat)) x =>
    match m with | some y => if x.1 < y.1 then some x else m | none => some x) none
  best.bind (fun (t, k, i) => if t + 1024 ≤ s.clock then some (k, i) else none)

/-- WAVE_EVICT (R337, R383): arguments are the block and the wave. -/
def execWaveEvict (s : State) : Outcome State Fault Refusal :=
  let blk := s.arg 0
  let wv := s.arg 1
  match (s.block blk).core with
  | none => .next s
  | some core =>
    if s.evictable core != some (blk, wv) || !(s.waitingNeeds core).any (fun n => s.onlyRegs core n) then .next s
    else
      let s1 := (s.leaveUnit blk wv).completeWave blk wv
      if ((s1.blocks.get? blk).bind (fun b => b.waves.get? wv)).isNone then .next s1
      else
        let w := s1.wave blk wv
        .next (s1.setWave blk wv (if w.ended || w.stopped.isSome then w
          else { w.dropWatch blk wv Park.watches with evicted := true, resv := none, rresv := none }))

/-! ### Placement (R380, R382) -/

/-- The block of a launch at a linear index, before it is placed (R206, R377, R385). -/
def Launch.block (l : Launch) (i : Nat) : Block :=
  let (x, y, z) := l.coords i
  let rs := (ringLayout l.rings).1
  { fn := l.fn, ticket := l.ticket, x := x, y := y, z := z, nblk := l.blocks, scratch := 256 * l.field 192 16, nbar := l.field 208 8
    nring := l.field 216 8, rings := rs, bars := fillBars rs, clean := l.field 3 1 != 0, expdur := l.field 32 32
    stream := l.stream.map (fun pc => { pc := pc, mwb := BitVec.ofNat 64 (l.field 320 64) }) }

/-- The launch has placed a block. -/
def Launch.placed (l : Launch) (now : Nat) : Launch :=
  let l1 := { l with firstAt := some (l.firstAt.getD now) }
  match l.again with
  | _ :: r => { l1 with again := r }
  | [] => { l1 with next := l.next + 1 }

/-- Place the next block of a launch (R48, R377, R378, R380). -/
def State.placeBlock (s : State) (l : Launch) (i core base : Nat) : State :=
  let (s1, _) := s.addBlock core base { l.block i with codeFrom := l.firstAt.getD s.clock } l.gang
  let f := s1.fn l.fn
  let s2 := s1.setFn l.fn { f with turn := (l.ticket.toNat / 2 ^ 28 + 1) % 16 }
  { s2 with launches := s2.launches.map (fun k => if k.is l.fn l.ticket then k.placed s.clock else k) }

/-- After a block has been placed on a core a task goes first (R380). -/
def State.thenTask (s : State) (core : Nat) : State := s.setCore core { s.core core with taskNext := true }

/-- A task could be dispatched on a core now. -/
def State.taskWaits (s : State) (core : Nat) : Bool :=
  match s.ownTask core with
  | some (t, _) => (s.taskRoom core t).isSome
  | none => false

/-- BLOCK_PLACEMENT (R380): the argument is the core. -/
def execBlockPlacement (s : State) : Outcome State Fault Refusal :=
  let core := s.arg 0
  match (s.backWaves core).find? (fun (b, w) => (s.room core (s.wave b w).backNeed).isSome) with
  | some (b, w) => .next (s.setWave b w ({ s.wave b w with evicted := false }.rewatch Park.watches))
  | none =>
    let fn := s.clusterHolder (core / 8)
    if ((s.core core).taskNext && s.taskWaits core) || !s.ready fn then .next s
    else
      let here (p : Option (Nat × Nat × Nat)) : Option (Nat × Nat × Nat) := p.filter (fun (_, c, _) => c == core)
      match here (s.restorePlace fn) with
      | some (b, c, o) => .next ((s.restoreBlock b c o).thenTask core)
      | none =>
        match (s.launchOrder fn).findSome? (fun l => (here (s.launchPlace l)).map (fun p => (l, p))) with
        | some (l, i, c, o) => .next ((s.placeBlock l i c o).thenTask core)
        | none => .next s

/-- The input ring of an elastic wave has no filled slot (R382). -/
def Block.starved (b : Block) (w : Wave) : Bool :=
  match w.elastic with
  | some c => w.emdepth == 0 && (b.ring c).count 2 == 0
  | none => false

/-- ELASTIC_PARK (R382): arguments are the block and the wave. -/
def execElasticPark (s : State) : Outcome State Fault Refusal :=
  let w := s.wave (s.arg 0) (s.arg 1)
  .next (if (s.block (s.arg 0)).starved w && !w.ended && !w.batches.isEmpty then s.setWave (s.arg 0) (s.arg 1) { w with parked := true } else s)

/-- A parked elastic wave goes on when its ring has a filled slot (R382). -/
def Block.unpark (b : Block) : Block := b.mapWaves (fun w => if w.parked && !b.starved w then { w with parked := false } else w)

/-! ### The end of a slice (R384, R386, R417) -/

/-- rem of a block in cycles (R384). -/
def State.remCycles (s : State) (b : Block) : Nat :=
  match b.estimate with
  | some (m, t) => m * usec - (s.clock - t)
  | none => b.expdur * usec - (b.residency + (s.clock - b.placedAt))

/-- bytes of a block (R384). -/
def Block.saveBytes (b : Block) : Nat :=
  b.waves.foldl (fun n (_, w) => n + w.regs * 128) 0 + b.scratch + (if b.stream.isSome then 262144 else 0)

/-- The cores of a cluster. -/
def clusterCores (k : Nat) : List Nat := (List.range 8).map (fun i => 8 * k + i)

/-- The blocks of a cluster. -/
def State.onCluster (s : State) (k : Nat) : List (Nat × Block) := (clusterCores k).flatMap s.onCore

/-- The save estimate of a cluster is above D µs: 204.8 GB/s is 204,800 bytes per µs (R384). -/
def State.saveAbove (s : State) (k d : Nat) : Bool :=
  (clusterCores k).any (fun c => decide (204800 * d < (s.onCore c).foldl (fun n (_, b) => n + b.saveBytes) 0))

/-- A block of a cluster is to be saved by a deadline. -/
def Block.saveNow (b : Block) (deadline : Nat) (toHead : Bool) : Block := { b with saving := true, saveBy := some deadline, toHead := toHead }

/-- A cluster chooses its mode against a deadline of D µs (R384). -/
def State.sliceEnd (s : State) (k d : Nat) (reclaim : Bool) : State :=
  let deadline := s.clock + d * usec
  let bs := s.onCluster k
  let s0 := { s with draining := s.draining.set k deadline }
  if bs.all (fun (_, b) => decide (s.remCycles b ≤ d * usec)) then
    if reclaim then bs.foldl (fun s (i, _) => s.setBlock i { s.block i with toHead := true }) s0 else s0
  else if bs.all (fun (_, b) => b.clean && b.waves.all (fun (_, w) => w.resv.isNone)) && s.saveAbove k d then
    bs.foldl (fun s (i, b) => if b.saving then s else s.discardBlock i) s0
  else bs.foldl (fun s (i, _) => s.setBlock i ((s.block i).saveNow deadline reclaim)) s0

/-- SLICE_END (R384): arguments are the cluster and D in µs. -/
def execSliceEnd (s : State) : Outcome State Fault Refusal := .next (s.sliceEnd (s.arg 0 % 32) (s.arg 1) false)

/-- DRAIN_DEADLINE (R384): the argument is the cluster; what is still resident is saved. -/
def execDrainDeadline (s : State) : Outcome State Fault Refusal :=
  let k := s.arg 0
  match s.draining.get? k with
  | none => .next s
  | some d =>
    if s.clock < d then .next s
    else
      let s1 := (s.onCluster k).foldl (fun s (i, b) => if b.saving then s else s.setBlock i (b.saveNow d b.toHead)) s
      .next { s1 with draining := s1.draining.erase k }

/-- Zeros over the scratch share of a core (R416): clean, and without copies. -/
def State.zeroShare (s : State) (core : Nat) : State :=
  let a := sliceAddr core 0
  let z := 2 ^ 24
  { s with
    mem := memClear s.mem a z
    poisoned := s.poisoned.filter (fun x => !(decide (a ≤ x) && decide (x < a + z)))
    cores := s.cores.map (fun (k, c) =>
      (k, { c with l1 := c.l1.filter (fun (w, _) => !(decide (a ≤ 4 * w) && decide (4 * w < a + z))) })) }

/-- Zeros over the scratch shares of a cluster. -/
def State.zeroCluster (s : State) (k : Nat) : State := (clusterCores k).foldl (fun s c => s.zeroShare c) s

/-- CLUSTER_RETURN (R386, R417): the argument is the cluster. -/
def execClusterReturn (s : State) : Outcome State Fault Refusal :=
  let k := s.arg 0
  if !s.clusterRecl k || (s.onCluster k).any (fun (_, b) => b.fn != s.clusterOwner k) then .next s
  else
    let s1 := s.zeroCluster k
    let s2 := { s1 with
      clown := s1.clown.set k (s1.clown.get 0 k &&& ~~~(0x1000 : DWord))
      draining := s1.draining.erase k
      former := s1.former.erase k }
    .next (s2.event [0] (s.clusterOwner k) 0x07 (eventObj 5 k) 0 (BitVec.ofNat 64 (s.former.get 0 k)))

/-! ### LAUNCH, SCHSEL, GANGWAIT and PHASE (R387 to R392) -/

/-- LAUNCH (R388). -/
def launchBody (e : Enc) (s : State) (c : Ctx) : Res :=
  let w := s.ctxWave c
  let fn := s.ctxFn c
  match (do let q ← (w.sCode e.src1).use; let a ← w.useSPairAt e.src0; .ok (q, a) : Except Cause (Word × DWord)) with
  | .error k => Res.uni s k
  | .ok (q, a) =>
    if 15 < q.toNat ∨ (s.queue fn q.toNat).on = false then Res.uni s .accessFault
    else if a.toNat % 256 ≠ 0 then .fault s { cause := .align, fva := a }
    else
      let s0 := s.release c.blk c.wave
      match s0.readVA c.blk a.toNat 256 with
      | .fault s1 k va syn => .fault s1 { cause := k, fva := BitVec.ofNat 64 va, syn := syn }
      | .ok s1 bs p =>
        if p then .fault s1 { cause := .poison, fva := a }
        else
          let (t, s2) := s1.takeTicket fn q.toNat (natOfBytes bs) false false
          Res.next (s2.setCtxWave c ((s2.ctxWave c).writeS e.dst [⟨t, false⟩]))

/-- LAUNCH (R388). -/
def execLaunch (e : Enc) (s : State) : Outcome State Fault Refusal := s.issue (.launch e) e false (notInUnit e (launchBody e))

/-- The variant for a size (R389): the smallest MAXSIZE that holds it, ties to the lowest index. -/
def Launch.variant (l : Launch) (size : Nat) : Option Nat :=
  let m (i : Nat) : Nat := l.field (1280 + 64 * i) 32
  ((List.range (l.field 8 4)).filter (fun i => decide (size ≤ m i))).foldl (fun (b : Option Nat) i =>
    match b with | some j => if m i < m j then some i else b | none => some i) none

/-- The four words of SCHSEL for a choice (R389). -/
def schselWords (l : Launch) (size : Word) (v : Option Nat) (next : DWord) : List Word :=
  match v with
  | some i =>
    let t : Int := (l.field 256 64 : Int) + 4 * l.signed (1280 + 64 * i + 32) 32
    dwords (BitVec.ofInt 64 t) ++ [BitVec.ofNat 32 i, size]
  | none => dwords next ++ [0xFFFFFFFF, size]

/-- SCHSEL (R389). -/
def execSchsel (e : Enc) (s : State) : Outcome State Fault Refusal :=
  s.issue (.schsel e) e false (fun s c =>
    let b := s.block c.blk
    let l := (s.launchOf b).getD {}
    let done (s : State) (size : Word) (v : Option Nat) : Res :=
      Res.next (s.setCtxWave c ((s.ctxWave c).writeS e.dst (clean (schselWords l size v c.nextPc))))
    match b.choice with
    | some (size, v) => done s size v
    | none =>
      match (s.ctxWave c).useSPairAt e.src0 with
      | .error k => Res.uni s k
      | .ok a =>
        if a.toNat % 4 ≠ 0 then .fault s { cause := .align, fva := a }
        else
          match s.readVA c.blk a.toNat 4 with
          | .fault s1 k va syn => .fault s1 { cause := k, fva := BitVec.ofNat 64 va, syn := syn }
          | .ok s1 bs p =>
            if p then .fault s1 { cause := .poison, fva := a }
            else
              let size : Word := BitVec.ofNat 32 (natOfBytes bs)
              let v := l.variant size.toNat
              done (s1.setBlock c.blk { s1.block c.blk with choice := some (size, v) }) size v)

/-- PHASE (R390). -/
def execPhase (e : Enc) (s : State) : Outcome State Fault Refusal :=
  s.issue (.phase e) e false (fun s c =>
    let est : Except Cause (Option Nat) := match e.len with
      | .l64 => if e.mod.getLsbD 0 then ((s.ctxWave c).sCode e.src0).use.map (fun x => some x.toNat) else .ok none
      | _ => .ok (some e.imm16.toNat)
    match est with
    | .error k => Res.uni s k
    | .ok m =>
      let b := s.block c.blk
      let old := b.estimate
      Res.next (s.setBlock c.blk
        { b with phase := b.phase + 1, choice := none, estimate := match m with | some x => some (x, s.clock) | none => old }))

/-- GANGWAIT has its answer: q, and 1 is an acquire (R391). -/
def gangAnswer (e : Enc) (b : Bool) (s : State) (c : Ctx) : State :=
  let s1 := s.setActing c e.dst.toNat b
  if b then s1.acquire c.blk c.wave else s1

/-- GANGWAIT (R391). -/
def execGangwait (e : Enc) (s : State) : Outcome State Fault Refusal :=
  s.issue (.gangwait e) e false (fun s c =>
    let w := s.ctxWave c
    let waits := e.mod.getLsbD 0
    match (do let t ← (w.sCode e.src0).use; let n ← (if waits then (w.sCode e.src1).use else .ok 0); .ok (t, n) :
        Except Cause (Word × Word)) with
    | .error k => Res.uni s k
    | .ok (t, n) =>
      match s.ticketDone (s.ctxFn c) t with
      | none => Res.uni s .accessFault
      | some true => Res.next (gangAnswer e true s c)
      | some false =>
        let lim := n.toNat % 65536 * 1024
        if waits && lim != 0 then .ok (s.parkLanes c e c.members (.gang t.toNat (s.clock + lim))) false 0
        else Res.next (gangAnswer e false s c))

/-- End a wait of GANGWAIT.W with its answer (R391). -/
def State.endGang (s : State) (blk wave n : Nat) (p : Park) (b : Bool) : State :=
  let w := s.wave blk wave
  let w1 := (lanesOf p.acting).foldl (fun w l => w.onWaiter n l (fun y => y.setQ p.enc.dst.toNat b)) w
  let s1 := s.setWave blk wave (w1.wake n)
  if b then s1.acquire blk wave else s1

/-- The waits of a wave for launches are judged (R391). -/
def State.judgeGang (s : State) (blk wave : Nat) : State :=
  (s.wave blk wave).waits.foldl (fun s (n, p) =>
    match p.why with
    | .gang t _ =>
      if s.ticketDone (s.block blk).fn (BitVec.ofNat 32 t) == some true then s.endGang blk wave n p true else s
    | _ => s) s

/-- GANGWAIT_TIMEOUT (R391): arguments are the block, the wave and the number of the wait. -/
def execGangwaitTimeout (s : State) : Outcome State Fault Refusal :=
  let blk := s.arg 0
  let wv := s.arg 1
  match (s.wave blk wv).waits.get? (s.arg 2) with
  | some p =>
    (match p.why with
      | .gang t lim =>
        .next (if s.clock < lim then s
          else s.endGang blk wv (s.arg 2) p (s.ticketDone (s.block blk).fn (BitVec.ofNat 32 t) == some true))
      | _ => .next s)
  | none => .next s

end Sys2Proof.Machine
end

