-- ==== Sys2Proof/Machine/Route.lean ====
section
/-!
DEFINITION. Sys2Proof/Machine/Route.lean: the route tables and the choice of a port (R494, R495), the age of a packet (R488), and a
packet's hop.
-/

namespace Sys2Proof.Machine

open Host

/-! ### Ports as a route sees them -/

def State.port (s : State) (p : Nat) : Port := s.ports.get {} p
def State.setPort (s : State) (p : Nat) (x : Port) : State := { s with ports := s.ports.set p x }

/-- RECONF of a port. -/
def Port.reconf (p : Port) : Bool := p.pctl.getLsbD 1

/-- A port a hop may take (R495). -/
def Port.usable (p : Port) : Bool := p.state == .active && !p.reconf

/-- A port whose traffic waits (R495). -/
def Port.holding (p : Port) : Bool :=
  match p.state with
  | .lock | .summary | .mismatch | .draining | .quiet => true
  | .active => p.reconf
  | .down | .failed => false

/-- The bytes queued at a port. -/
def Port.queue (p : Port) : Nat :=
  p.txBytes.foldl (fun n (_, bs) => n + bs.length) 0 + p.txq.foldl (fun n (_, ps) => n + (ps.map (fun q => q.bytes.length)).sum) 0

/-- Port kinds (R478). -/
def electrical (p : Nat) : Bool := decide (p ≤ 30)
def optical (p : Nat) : Bool := decide (32 ≤ p) && decide (p ≤ 95)

/-! ### The tables (R494) -/

/-- The entry of a group in the active bank; none where it is ignored or reads as V = 0. -/
def State.groupEntry (s : State) (g : Nat) : Option DWord :=
  let e := (if s.rtAct then s.rtgrpB else s.rtgrp).get 0 g
  let p0 := e.toNat / 4 % 128
  let p1 := e.toNat / 512 % 128
  if g == s.grp || !e.getLsbD 0 then none
  else if e.getLsbD 1 || (optical p0 && (!e.getLsbD 16 || optical p1)) then some e
  else none

/-- The entry of a member in the active bank. -/
def State.memberEntry (s : State) (m : Nat) : Option DWord :=
  let e := (if s.rtAct then s.rtmemB else s.rtmem).get 0 m
  if m == s.member || !e.getLsbD 0 || !electrical (e.toNat / 2 % 128) || (e.getLsbD 15 && !optical (e.toNat / 256 % 128)) then none
  else some e

/-- Two ports with the preferred one first. -/
def prefer (swap : Bool) (a b : Nat) : List Nat := if swap then [b, a] else [a, b]

/-- The ports of a local hop, the preferred first (R495). -/
def State.localPorts (s : State) (p : Packet) (m : Nat) : List Nat :=
  match s.memberEntry m with
  | none => []
  | some e =>
    let a := e.toNat / 2 % 128
    let b := e.toNat / 256 % 128
    if e.getLsbD 15 then prefer (p.spray && p.rcls == 2 && decide (2 * (s.port b).queue < (s.port a).queue) && (s.port b).usable) a b
    else [a]

/-- The ports of a hop on the minimal path to a member of a group, the preferred first (R495). -/
def State.toward (s : State) (p : Packet) (g m : Nat) : List Nat :=
  if g == s.grp then s.localPorts p m
  else
    match s.groupEntry g with
    | none => []
    | some e =>
      if e.getLsbD 1 then s.localPorts p (e.toNat / 2 ^ 17 % 32)
      else
        let a := e.toNat / 4 % 128
        let b := e.toNat / 512 % 128
        if !e.getLsbD 16 then [a]
        else if p.spray then prefer (decide ((s.port b).queue < (s.port a).queue)) a b
        else prefer (Config.routeHash [p.src.grp, p.src.mem, p.src.func, p.dst.grp, p.dst.mem, p.dst.func, p.tc] % 2 == 1) a b

/-- The intermediate group of a non-minimal route (R495). -/
def State.igrpOf (s : State) (p : Packet) : Option Nat :=
  let gs := (List.range 4096).filter (fun g => g != p.src.grp && g != p.dst.grp && (s.groupEntry g).isSome)
  gs[Config.routeHash [p.src.grp, p.src.mem, p.dst.grp, p.dst.mem, p.msgid] % gs.length]?

/-- The packet with the route its source chooses (R495). -/
def State.planned (s : State) (p : Packet) : Packet :=
  if !p.fresh || p.body.isResponse || p.rcls == 0 || p.dst.grp == s.grp || (p.rcls == 2 && !p.spray) then p
  else
    match s.igrpOf p with
    | none => p
    | some g =>
      let first (ps : List Nat) : Nat := match ps with | a :: _ => (s.port a).queue | [] => 0
      let non := p.rcls == 1 ||
        decide (2 * first (s.toward p g 0) < first (s.toward p p.dst.grp p.dst.mem))
      if non then { p with igrp := some g } else p

/-- The candidate ports of a packet's hop, the preferred first. -/
def State.candidates (s : State) (p : Packet) : List Nat :=
  if p.dst.grp == s.grp then s.toward p p.dst.grp p.dst.mem
  else
    match p.igrp with
    | some g => if g == s.grp then s.toward p p.dst.grp p.dst.mem else s.toward p g 0
    | none => s.toward p p.dst.grp p.dst.mem

/-- A candidate is usable or held (R472, R495). -/
def State.routed (s : State) (p : Packet) : Bool :=
  s.isHere p.dst || (s.candidates (s.planned p)).any (fun a => (s.port a).usable || (s.port a).holding)

/-! ### A hop -/

/-- The index of a packet within its message. -/
def Body.index (b : Body) : Nat :=
  match b with
  | .msg _ _ i _ _ => i
  | _ => 0

/-- A packet has left its source: the clocks that run from there (R459, R461). -/
def State.leftSource (s : State) (p : Packet) : State :=
  if p.body.isAccess then
    match s.findAccess p.src.func p.msgid with
    | some (b, w, a) => s.accessLeft b w a.id
    | none => s
  else s.onMsg p.src.func p.msgid (fun m =>
    { m with firstAt := some (m.firstAt.getD s.clock), lastAt := m.lastAt.set p.body.index s.clock })

/-- Send a packet of this module's; one that is looped back leaves at once (R456). -/
def State.sendOut (s : State) (p : Packet) : State := if s.isHere p.dst then (s.send p).leftSource p else s.send p

/-- A request that no port can carry (R495): UNREACHABLE at its source, a RESPONSE with that code at a later hop. -/
def State.noRoute (s : State) (p : Packet) : State :=
  if p.body.isResponse then s
  else if !p.fresh then s.answerTo p (.response 2 [] false)
  else if p.body.isAccess then s.toInbox { dst := p.src, src := p.src, msgid := p.msgid, body := .response 2 [] false }
  else s.msgCode p.src.func p.msgid 2

/-- A message that has begun is not held by a MARK (R437). -/
def State.begun (s : State) (p : Packet) : Bool :=
  match s.msg? p.src.func p.msgid with
  | some m => m.firstAt.isSome
  | none => false

/-- A message, GET or FADD64 of a function (R460, R464), not one of the engines' own. -/
def Body.isMessage (b : Body) : Bool :=
  match b with
  | .msg .. | .get .. | .fadd .. => true
  | _ => false

/-- A packet is held at its source by a MARK (R437). -/
def State.heldByMark (s : State) (p : Packet) : Bool :=
  p.fresh && s.marked.contains p.dst && (p.body.isAccess || (p.body.isMessage && !s.begun p))

/-- The ticks of 128 µs since a packet came (R488). -/
def State.ticksSince (s : State) (p : Packet) : Nat := (s.clock - p.since) / 102400

/-- The virtual channel of a packet's next hop (R495). -/
def Packet.vc (p : Packet) : Nat := if p.body.isResponse then 5 + p.hops else p.hops

/-- The packet may use its next VC: a request uses VC 0 to 4 and a response VC 5 to 7 (R495). -/
def Packet.vcOk (p : Packet) : Bool := if p.body.isResponse then decide (p.hops < 3) else decide (p.hops < 5)

/-- A packet before it on its ORD channel has not left (R461). -/
def State.behind (s : State) (i : Nat) (p : Packet) : Bool :=
  !p.spray && (s.egress.take i).any (fun q =>
    q.src == p.src && q.dst == p.dst && q.tc == p.tc && !q.spray && q.body.isResponse == p.body.isResponse)

/-- A packet's ORD sequence number (R461), kept per source, destination and class. -/
def State.numbered (s : State) (p : Packet) : Packet × State :=
  if !p.fresh || p.spray || p.body.isResponse then (p, s)
  else
    let same (c : Channel) : Bool := c.func == p.src.func && c.dst == p.dst && c.tc == p.tc
    let n := match s.seqOut.find? same with | some c => c.units | none => 0
    ({ p with seq := n },
      { s with seqOut := s.seqOut.filter (fun c => !same c) ++ [{ func := p.src.func, dst := p.dst, tc := p.tc, units := (n + 1) % 65536 }] })

/-- A request of this module's takes a unit of its channel (R487). -/
def Packet.takesUnit (p : Packet) : Bool := p.fresh && !p.body.isResponse

/-- A packet joins a port's queue; it may still be looked up again until it starts (R495). -/
def State.queueAt (s : State) (p : Packet) (port : Nat) : State :=
  let x := s.port port
  let s1 := s.setPort port { x with txq := x.txq.set p.vc (x.txq.get [] p.vc ++ [p]) }
  if p.takesUnit then s1.setUnits p.src.func p.dst p.tc (s1.chanUnits p.src.func p.dst p.tc - 1) else s1

/-- The packets that have not started at a port are looked up again (R495, R496). -/
def State.requeue (s : State) (port : Nat) : State :=
  let x := s.port port
  let ps := x.txq.flatMap (fun (_, l) => l)
  let s1 := ps.foldl (fun s p => if p.takesUnit then s.giveUnits p.src.func p.dst p.tc 1 else s) (s.setPort port { x with txq := [] })
  { s1 with egress := (ps.map (fun p => if p.fresh then { p with igrp := none } else p)) ++ s1.egress }

/-- A packet starts at a port: its number and its age are settled, and it has left this module (R461, R488). -/
def State.startPacket (s : State) (p : Packet) : List Byte × State :=
  let (q, s1) := s.numbered p
  let age := if q.fresh then 0 else q.age + s1.ticksSince q
  (({ q with age := age } : Packet).bytes, if q.fresh then s1.leftSource q else s1)

/-- PACKET_HOP (R487, R488, R495): the argument is the place of the packet among those that wait. -/
def execPacketHop (s : State) : Outcome State Fault Refusal :=
  match s.egress[s.arg 0]? with
  | none => .next s
  | some p =>
    let off : State := { s with egress := s.egress.eraseIdx (s.arg 0) }
    if !p.fresh && decide (15600 ≤ p.age + s.ticksSince p) then .next off
    else if s.heldByMark p || s.behind (s.arg 0) p then .next s
    else if p.fresh && !p.body.isResponse && s.chanUnits p.src.func p.dst p.tc == 0 then .next s
    else
      let q := s.planned p
      let cs := s.candidates q
      match cs.find? (fun a => (s.port a).usable) with
      | some a => if q.vcOk then .next (off.queueAt q a) else .next (off.noRoute p)
      | none => if cs.any (fun a => (s.port a).holding) then .next s else .next (off.noRoute p)

end Sys2Proof.Machine
end

