-- ==== Sys2Proof/Machine/Fabric.lean ====
section
/-!
DEFINITION. Sys2Proof/Machine/Fabric.lean: the fabric engine's messages, windows, counters, work requests and collectives (R460 to
R468), and the instructions 0xE8 to 0xEF (R469 to R475).
-/

namespace Sys2Proof.Machine

open Host

/-! ### Counters (R462) -/

/-- A completion counter. -/
def Fn.counter (f : Fn) (c : Nat) : DWord := f.counters.get 0 (c % 4096)

/-- Add to a counter, mod 2^64. -/
def State.addCounter (s : State) (fn c : Nat) (n : DWord) : State :=
  let f := s.fn fn
  s.setFn fn { f with counters := f.counters.set (c % 4096) (f.counter c + n) }

/-- A counter has reached a target: (c − t) mod 2^64 < 2^63. -/
def Fn.reached (f : Fn) (c : Nat) (t : DWord) : Bool := !(f.counter c - t).msb

/-! ### Local bytes (R463, R464) -/

/-- Read n bytes of a function's VA at their homes, with their poison; none where a translation fails. -/
def State.fnRead (s : State) (fn va n : Nat) : Option (List Byte × Bool) × State :=
  (pagePieces va n).foldl (fun (acc : Option (List Byte × Bool) × State) (a, k) =>
    match acc with
    | (none, s) => (none, s)
    | (some (bs, p), s) =>
      match translate s (s.fnReq fn) a .read with
      | (.error _, s1) => (none, s1)
      | (.ok x, s1) =>
        match x.place.host s1 none with
        | none => (none, s1)
        | some h => (some (bs ++ s1.bytesAt h k, p || s1.poisonAt h k), s1.meet fn h k)) (some ([], false), s)

/-- Write bytes at a function's VA at their homes; false where a translation fails. -/
def State.fnWrite (s : State) (fn va : Nat) (bs : List Byte) (poison : Bool) : Bool × State :=
  (pagePieces va bs.length).foldl (fun (acc : Bool × State) (a, k) =>
    match acc with
    | (false, s) => (false, s)
    | (true, s) =>
      match translate s (s.fnReq fn) a .write with
      | (.error _, s1) => (false, s1)
      | (.ok x, s1) =>
        match x.place.host s1 none with
        | none => (false, s1)
        | some h => (true, s1.writeOut fn none h ((bs.drop (a - va)).take k) poison)) (true, s)

/-- Read the packets' bytes of a message of n bytes (R460): a message of length 0 has one header packet. -/
def State.readPieces (s : State) (fn va n : Nat) : Option (List (List Byte × Bool)) × State :=
  (List.range (max 1 ((n + 511) / 512))).foldl (fun (acc : Option (List (List Byte × Bool)) × State) i =>
    match acc with
    | (none, s) => (none, s)
    | (some ps, s) =>
      match s.fnRead fn (va + 512 * i) (min 512 (n - 512 * i)) with
      | (none, s1) => (none, s1)
      | (some p, s1) => (some (ps ++ [p]), s1)) (some [], s)

/-! ### Sending (R460, R461) -/

/-- A message's packets and their send. -/
def State.sendMsg (s : State) (m : OutMsg) (tc rcls : Nat) (bodies : List Body) : State :=
  let p (b : Body) : Packet :=
    { dst := m.dst, src := s.ownTriple m.fn, tc := tc, msgid := m.id, body := b, rcls := rcls, spray := s.sprayOn m.fn tc }
  let ps := bodies.map p
  ps.foldl State.sendOut { s with msgs := s.msgs ++ [{ m with pkts := ps }] }

/-- The bodies of a message's packets. -/
def msgBodies (dest : MsgTo) (total : Nat) (pieces : List (List Byte × Bool)) : List Body :=
  pieces.zipIdx.map (fun ((bs, p), i) => .msg dest total i bs p)

/-! ### Windows (R463) -/

def Fn.window (f : Fn) (w : Nat) : Window := f.windows.get {} (w % 1024)

/-- LIFE in cycles (R488). -/
def life : Nat := 1600000000

/-- A RECV that would move a window's generation into one half must wait until RTMO + LIFE has passed since the generation
entered the other (R463); generation 0 stands in the lower half from clock 0 on. -/
def State.genWaits (s : State) (fn w : Nat) : Bool :=
  let f := s.fn fn
  let x := f.window w
  let wait (at_ : Option Nat) : Bool := match at_ with | some t => decide (s.clock < t + f.rtmo + life) | none => false
  if x.gen == 127 then wait (some (x.loAt.getD 0)) else x.gen == 255 && wait x.hiAt

/-- Register a window (R463). -/
def State.register (s : State) (fn w base len ctr : Nat) : State :=
  let f := s.fn fn
  let x := f.window w
  let g := (x.gen + 1) % 256
  let y : Window :=
    { base := BitVec.ofNat 64 base, len := len, ctr := ctr, gen := g, valid := decide (len ≠ 0)
      loAt := if g == 0 then some s.clock else x.loAt
      hiAt := if g == 128 then some s.clock else x.hiAt }
  s.setFn fn { f with windows := f.windows.set (w % 1024) y }

/-- A packet is dropped for its window (R463), counted for STALE_DROP (R467). -/
def State.staleDrop (s : State) (fn : Nat) (p : Packet) : State :=
  let f := s.fn fn
  let n := f.stale + 1
  let (tell, s1) := s.drawBool
  if tell then (s1.setFn fn { f with stale := 0 }).eventOf p.hdr [fn] fn 0x43 0 0 (BitVec.ofNat 64 n)
  else s1.setFn fn { f with stale := n }

/-! ### Work requests (R464, R465) -/

def WorkRec.field (r : WorkRec) (lo n : Nat) : Nat := recField r.record lo n
def Fn.workList (f : Fn) (l : Nat) : WorkList := f.lists.get {} (l % 64)
def State.setList (s : State) (fn l : Nat) (x : WorkList) : State := s.setFn fn { s.fn fn with lists := (s.fn fn).lists.set (l % 64) x }

/-- A record's handle (R465). -/
def WorkList.handle (x : WorkList) (l slot : Nat) : Nat := l + slot * 64 + x.gens.get 0 slot % 256 * 2 ^ 14

/-- The record of a handle. -/
def Fn.recordOf (f : Fn) (h : Nat) : Option WorkRec :=
  let x := f.workList h
  (x.recs.find? (fun r => r.slot == h / 64 % 256)).bind (fun r => if x.handle (h % 64) r.slot = h then some r else none)

/-- A record leaves its list: its slot's generation advances. -/
def WorkList.remove (x : WorkList) (slot : Nat) : WorkList :=
  { x with recs := x.recs.filter (fun r => r.slot != slot), gens := x.gens.set slot ((x.gens.get 0 slot + 1) % 256) }

/-- A fired record's failure (R464, R467), with the header of its message's first packet where there is one (R423). -/
def State.wrFailed (s : State) (fn handle code : Nat) (hdr : List DWord) : State :=
  s.eventOf hdr [fn] fn 0x40 0 0 (BitVec.ofNat 64 (handle + code * 2 ^ 32))

/-- A fired record's outcome (R464). -/
def State.wrDone (s : State) (fn handle record code : Nat) (hdr : List DWord) : State :=
  if code ≠ 0 then s.wrFailed fn handle code hdr
  else if recField record 6 1 = 1 then s.addCounter fn (recField record 48 12) 1
  else s

/-- Fire a record (R464). -/
def State.fire (s : State) (fn handle : Nat) (r : WorkRec) : State :=
  let x := r.record
  let tc := r.field 4 2
  let v := r.field 16 15
  let win := r.field 32 10
  let gen := r.field 8 8
  let laddr := r.field 64 64
  let roff := r.field 128 64
  let len := r.field 192 32
  let msg (s : State) (total : Nat) (bodies : List Body) : State :=
    let (e, s1) := s.vdnLookup fn v
    if !vdnOk e then
      let s2 := if vdnMalformed e then s1.vdnBad fn v else s1
      s2.wrDone fn handle x 2 []
    else
      let (id, s2) := s1.drawSerial
      s2.sendMsg { id := id, fn := fn, dst := vdnTriple e, vdn := v, record := some x, handle := handle, blk := r.blk, wave := r.wave, total := total }
        tc (vdnRcls e) bodies
  match r.field 0 4 with
  | 0 =>
    match s.readPieces fn laddr len with
    | (none, s1) => s1.wrDone fn handle x 5 []
    | (some ps, s1) => msg s1 len (msgBodies (.window win gen roff) len ps)
  | 1 => msg s len [.get win gen roff len]
  | 2 => msg s 8 [.fadd win gen roff (BitVec.ofNat 64 (r.field 256 64))]
  | 3 => (s.register fn win laddr len (r.field 224 12)).wrDone fn handle x 0 []
  | 4 => (s.addCounter fn (r.field 48 12) (BitVec.ofNat 64 (r.field 256 64))).wrDone fn handle x 0 []
  | _ => s.wrDone fn handle x 0 []

/-- The head of a list may fire (R465), its window's generation apart. -/
def State.headReady (s : State) (fn l : Nat) : Option WorkRec :=
  match ((s.fn fn).workList l).recs with
  | [] => none
  | r :: _ =>
    match r.thr with
    | none => none
    | some t => if (s.fn fn).reached (r.field 384 12) t then some r else none

/-- Fire the head of a list. -/
def State.fireHead (s : State) (fn l : Nat) (r : WorkRec) : State :=
  let x := (s.fn fn).workList l
  (s.setList fn l (x.remove r.slot)).fire fn (x.handle (l % 64) r.slot) r

/-- WORK_REQUEST_FIRE (R465): arguments are the function and the list. -/
def execWorkRequestFire (s : State) : Outcome State Fault Refusal :=
  let fn := s.arg 0
  match s.headReady fn (s.arg 1) with
  | none => .next s
  | some r => if r.field 0 4 = 3 ∧ s.genWaits fn (r.field 32 10) then .next s else .next (s.fireHead fn (s.arg 1) r)

/-- RECV_GENERATION_WAIT_EXPIRY (R463): a RECV at the head that moves its window's generation into the other half fires once it
may.  Arguments are the function and the list. -/
def execRecvGenerationWaitExpiry (s : State) : Outcome State Fault Refusal :=
  let fn := s.arg 0
  match s.headReady fn (s.arg 1) with
  | none => .next s
  | some r =>
    let g := ((s.fn fn).window (r.field 32 10)).gen
    if r.field 0 4 = 3 ∧ (g = 127 ∨ g = 255) ∧ s.genWaits fn (r.field 32 10) = false then .next (s.fireHead fn (s.arg 1) r) else .next s

/-- Take a message off the table. -/
def State.dropMsg (s : State) (fn id : Nat) : State := { s with msgs := s.msgs.filter (fun m => !(m.fn == fn && m.id == id)) }

/-- WORK_REQUEST_COMPLETE (R464): arguments are the function and the message. -/
def execWorkRequestComplete (s : State) : Outcome State Fault Refusal :=
  let fn := s.arg 0
  match s.msg? fn (s.arg 1) with
  | none => .next s
  | some m =>
    match m.code, m.cid with
    | some k, none =>
      let s1 := s.dropMsg fn m.id
      .next (match m.record with | some x => s1.wrDone fn m.handle x k (((m.pkts.head?).map Packet.hdr).getD []) | none => s1)
    | _, _ => .next s

/-! ### Collectives (R466) -/

def Coll.field (c : Coll) (lo n : Nat) : Nat := recField c.record lo n
def Coll.dt (c : Coll) : Nat := c.field 0 2
def Coll.rop (c : Coll) : Nat := c.field 2 2
def Coll.tc (c : Coll) : Nat := c.field 4 2
def Coll.rank (c : Coll) : Nat := c.field 8 16
def Coll.p (c : Coll) : Nat := c.field 24 16
def Coll.n (c : Coll) : Nat := c.field 256 32
def Coll.cid (c : Coll) : Nat := c.field 288 16
/-- The element size e. -/
def Coll.esize (c : Coll) : Nat := match c.dt with | 0 | 1 => 4 | 2 => 2 | _ => 1
def Coll.src (c : Coll) : Nat := c.field 128 64
def Coll.dst (c : Coll) : Nat := c.field 192 64
def Coll.stage (c : Coll) : Nat := c.field 320 64

/-- What every member's record must agree in. -/
def Coll.key (c : Coll) : List Nat := [c.op, c.dt, c.rop, c.tc, c.p, c.n, c.cid] ++ c.peers

/-- The collective reduces. -/
def Coll.reduces (c : Coll) : Bool := c.op == 0 || c.op == 2

/-- Elements per block of the scatter: ceil(N/P) for ALLREDUCE. -/
def Coll.block (c : Coll) : Nat := if c.op = 0 then (c.n + c.p - 1) / c.p else c.n

/-- The bytes of block k: the last of ALLREDUCE is shorter. -/
def Coll.blockBytes (c : Coll) (k : Nat) : Nat := (if c.op = 0 then min c.block (c.n - k * c.block) else c.n) * c.esize

/-- Where block k starts, in bytes. -/
def Coll.blockAt (c : Coll) (k : Nat) : Nat := k * c.block * c.esize

/-- The ranks that contribute to this member in the first phase. -/
def Coll.froms (c : Coll) : List Nat := if c.op = 4 then [0] else List.range c.p

/-- The bytes of rank k's contribution in a phase. -/
def Coll.expect (c : Coll) (phase k : Nat) : Nat := if phase = 0 then (if c.op = 0 then c.blockBytes c.rank else c.n * c.esize) else c.blockBytes k

/-- Where rank k's contribution lands in a phase. -/
def Coll.landing (c : Coll) (phase k : Nat) : Nat :=
  if phase = 0 then
    (if c.reduces then c.stage + k * c.block * c.esize else if c.op = 4 then c.dst else c.dst + k * c.n * c.esize)
  else c.dst + c.blockAt k

/-- What this member sends to rank k in the first phase: the address and the bytes; none where it sends nothing. -/
def Coll.sends (c : Coll) (k : Nat) : Option (Nat × Nat) :=
  match c.op with
  | 0 => some (c.src + c.blockAt k, c.blockBytes k)
  | 1 => some (c.src, c.n * c.esize)
  | 4 => if c.rank = 0 then some (c.src, c.n * c.esize) else none
  | _ => some (c.src + k * c.n * c.esize, c.n * c.esize)

/-- ⊕ of two elements (R466). -/
def collOp (dt rop a b : Nat) : Nat :=
  match dt with
  | 0 =>
    let x : Int := (BitVec.ofNat 32 a).toInt
    let y : Int := (BitVec.ofNat 32 b).toInt
    match rop with
    | 0 => (a + b) % 2 ^ 32
    | 1 => if y < x then b else a
    | _ => if x < y then b else a
  | _ =>
    match rop with
    | 0 => (F32.addV .rne (F32.unpack a) (F32.unpack b)).1
    | 1 => (F32.minMax false a b).1
    | _ => (F32.minMax true a b).1

/-- ⊕ over the contributions in ascending rank: BF16 is combined in F32 and rounded once. -/
def collReduce (dt rop : Nat) (xs : List Nat) : Nat :=
  match dt with
  | 2 =>
    match xs.map (fun x => x * 65536) with
    | [] => 0
    | [a] => a / 65536
    | a :: r =>
      let z := r.foldl (collOp 1 rop) a
      match F32.unpack z with
      | .nan _ => BF16.nan
      | .inf neg => BF16.sgn neg + BF16.inf
      | .fin neg m e => (BF16.roundTo .rne neg m e false).1
  | _ =>
    match xs with
    | [] => 0
    | a :: r => r.foldl (collOp dt rop) a

def State.coll? (s : State) (fn cid : Nat) : Option Coll := (s.fn fn).colls.find? (fun c => c.cid == cid)
def State.onColl (s : State) (fn cid : Nat) (f : Coll → Coll) : State :=
  s.setFn fn { s.fn fn with colls := (s.fn fn).colls.map (fun c => if c.cid == cid then f c else c) }

/-- A step of a collective could not be performed: the first status stays (R471). -/
def State.collFail (s : State) (fn cid code : Nat) : State :=
  s.onColl fn cid (fun c => if c.status.isSome then c else { c with status := some code })

/-- Count bytes of a contribution. -/
def State.collCount (s : State) (fn cid phase rank n : Nat) : State :=
  s.onColl fn cid (fun c =>
    if phase = 0 then { c with got := c.got.set rank (c.got.get 0 rank + n) } else { c with got2 := c.got2.set rank (c.got2.get 0 rank + n) })

/-- The bytes one message of a collective may carry (R461). -/
def State.collLimit (s : State) (fn tc : Nat) : Nat := if s.sprayOn fn tc then 2 ^ 20 else 2 ^ 32 - 1

/-- Send one contribution to rank k: copied when it is the member's own, split at the message limit. -/
def State.collSend (s : State) (fn : Nat) (c : Coll) (phase k va n : Nat) : State :=
  if k = c.rank then
    match s.readPieces fn va n with
    | (none, s1) => s1.collFail fn c.cid 5
    | (some ps, s1) =>
      let (ok, s2) := ps.zipIdx.foldl (fun (acc : Bool × State) ((bs, p), i) =>
        if acc.1 then acc.2.fnWrite fn (c.landing phase k + 512 * i) bs p else acc) (true, s1)
      if ok then s2.collCount fn c.cid phase k n else s2.collFail fn c.cid 5
  else
    let (e, s0) := s.vdnLookup fn (c.peers.getD k 0)
    if !vdnOk e then s0.collFail fn c.cid 2
    else
      let lim := s0.collLimit fn c.tc
      (List.range (max 1 ((n + lim - 1) / lim))).foldl (fun s j =>
        let len := min lim (n - j * lim)
        match s.readPieces fn (va + j * lim) len with
        | (none, s1) => s1.collFail fn c.cid 5
        | (some ps, s1) =>
          let (id, s2) := s1.drawSerial
          (s2.onColl fn c.cid (fun c => { c with sent := c.sent + 1 })).sendMsg
            { id := id, fn := fn, dst := vdnTriple e, vdn := c.peers.getD k 0, cid := some c.cid, blk := c.blk, wave := c.wave, total := len }
            c.tc (vdnRcls e) (msgBodies (.coll c.cid c.key c.rank phase (j * lim)) len ps)) s0

/-- Start a collective: send every contribution of the first phase. -/
def State.collStart (s : State) (fn : Nat) (c : Coll) : State :=
  (List.range c.p).foldl (fun s k => match c.sends k with | some (va, n) => s.collSend fn c 0 k va n | none => s)
    (s.setFn fn { s.fn fn with colls := (s.fn fn).colls ++ [c] })

/-- Every contribution of a phase has come. -/
def Coll.whole (c : Coll) (phase : Nat) (ks : List Nat) : Bool :=
  ks.all (fun k => match (if phase = 0 then c.got else c.got2).get? k with | some n => decide (c.expect phase k ≤ n) | none => false)

/-- One element combined at its destination (R466). -/
def State.collElem (s : State) (fn : Nat) (c : Coll) (i : Nat) : Bool × State :=
  let e := c.esize
  let r := (List.range c.p).foldl (fun (acc : Option (List Nat × Bool) × State) k =>
    match acc with
    | (none, s) => (none, s)
    | (some (xs, q), s) =>
      match s.fnRead fn (c.landing 0 k + i * e) e with
      | (none, s1) => (none, s1)
      | (some (bs, p), s1) => (some (xs ++ [natOfBytes bs], q || p), s1)) (some ([], false), s)
  match r with
  | (none, s1) => (false, s1)
  | (some (xs, q), s1) =>
    let at_ := if c.op = 0 then c.blockAt c.rank else 0
    s1.fnWrite fn (c.dst + at_ + i * e) (bytesOfNat e (collReduce c.dt c.rop xs)) q

/-- Combine the contributions of a reduction, and send the gather phase of an ALLREDUCE (R466). -/
def State.collCombine (s : State) (fn : Nat) (c : Coll) : State :=
  let n := c.expect 0 0 / c.esize
  let (ok, s1) := (List.range n).foldl (fun (acc : Bool × State) i => if acc.1 then acc.2.collElem fn c i else acc) (true, s)
  if !ok then s1.collFail fn c.cid 5
  else
    let s2 := s1.onColl fn c.cid (fun c => { c with phase := 1 })
    if c.op = 0 then
      let len := c.blockBytes c.rank
      (List.range c.p).foldl (fun s k =>
        if k = c.rank then s.collCount fn c.cid 1 k len else s.collSend fn c 1 k (c.dst + c.blockAt c.rank) len) s2
    else s2

/-- Go on with a collective whose contributions have come. -/
def State.collStep (s : State) (fn cid : Nat) : State :=
  match s.coll? fn cid with
  | none => s
  | some c =>
    let s1 := if c.reduces && c.phase == 0 && c.status.isNone && c.whole 0 c.froms then s.collCombine fn c else s
    match s1.coll? fn cid with
    | none => s1
    | some d =>
      let gathered := if d.op = 0 then d.phase == 1 && d.whole 1 (List.range d.p) else if d.op = 2 then d.phase == 1 else d.whole 0 d.froms
      if gathered && d.phase != 2 then s1.onColl fn cid (fun c => { c with phase := 2 }) else s1

/-- The status a collective has come to, if it has. -/
def State.collStatus (s : State) (fn : Nat) (c : Coll) : Option Nat :=
  match c.status with
  | some k => some k
  | none =>
    let ms := s.msgs.filter (fun m => m.fn == fn && m.cid == some c.cid)
    match ms.findSome? (fun m => m.code.bind (fun k => if k = 0 then none else some k)) with
    | some k => some k
    | none => if c.phase == 2 && ms.all (fun m => m.code.isSome) then some 0 else none

/-- COLLECTIVE_COMPLETE (R466, R467): arguments are the function and the tag. -/
def execCollectiveComplete (s : State) : Outcome State Fault Refusal :=
  let fn := s.arg 0
  match s.coll? fn (s.arg 1) with
  | none => .next s
  | some c =>
    match s.collStatus fn c with
    | none => .next s
    | some k =>
      let s1 := { s with msgs := s.msgs.filter (fun m => !(m.fn == fn && m.cid == some c.cid)) }
      let s2 := s1.setFn fn { s1.fn fn with colls := (s1.fn fn).colls.filter (fun d => d.cid != c.cid) }
      let s3 := (s2.fnWrite fn (c.field 384 64) (bytesOfNat 4 k) false).2
      let s4 := if k = 0 then s3 else s3.event [fn] fn 0x41 0 0 (BitVec.ofNat 64 (c.cid + k * 65536))
      .next (s4.addCounter fn (c.field 40 12) 1)

/-! ### Packets that arrive (R460 to R464) -/

/-- The message on its way in that a packet belongs to. -/
def State.inmsg? (s : State) (p : Packet) : Option InMsg := s.inmsgs.find? (fun m => m.src == p.src && m.fn == p.dst.func && m.id == p.msgid)

def State.putInmsg (s : State) (m : InMsg) : State :=
  { s with inmsgs := s.inmsgs.filter (fun x => !(x.src == m.src && x.fn == m.fn && x.id == m.id)) ++ [m] }

/-- A packet's window stands and has its generation (R463). -/
def State.windowOf (s : State) (fn win gen : Nat) : Option Window :=
  let x := (s.fn fn).window win
  if x.valid && x.gen == gen then some x else none

/-- Where the bytes of a message's packet go: the VA, or the code that ends the message; none drops the packet or leaves it. -/
inductive Landing where
  | va (a : Nat)
  | denied
  | stale
  | notYet
  deriving DecidableEq, Repr

/-- Where a packet of a message lands (R460, R463, R464, R466). -/
def State.landing (s : State) (p : Packet) (dest : MsgTo) (i n : Nat) : Landing :=
  let fn := p.dst.func
  match dest with
  | .window win gen off =>
    match s.windowOf fn win gen with
    | none => .stale
    | some w => if off + 512 * i + n ≤ w.len ∧ off < 2 ^ 64 then .va (w.base.toNat + off + 512 * i) else .denied
  | .reply id =>
    match s.msg? fn id with
    | some m => if m.code.isSome then .stale else .va (((m.record.map (fun x => recField x 64 64)).getD 0) + 512 * i)
    | none => .stale
  | .coll cid key rank phase off =>
    match s.coll? fn cid with
    | none => .notYet
    | some c => if c.key == key then .va (c.landing phase rank + off + 512 * i) else .denied

/-- A message has come whole (R460): its window's counter, the GET that asked for it, or its collective takes it. -/
def State.arrived (s : State) (p : Packet) (dest : MsgTo) (total : Nat) : State :=
  let fn := p.dst.func
  match dest with
  | .window win _ _ => s.addCounter fn ((s.fn fn).window win).ctr 1
  | .reply id => s.msgCode fn id 0
  | .coll cid _ rank phase _ => (s.collCount fn cid phase rank total).collStep fn cid

/-- A message ends with DENIED at its receiver (R463). -/
def State.deny (s : State) (p : Packet) (dest : MsgTo) : State :=
  let fn := p.dst.func
  let s1 := match dest with
    | .window .. => s
    | .reply id => s.msgCode fn id 5
    | .coll cid .. => s.collFail fn cid 5
  s1.answerTo p (.msgAck 5 0)

/-- A packet of a message arrives (R460, R461). -/
def State.takePacket (s : State) (p : Packet) (dest : MsgTo) (total i : Nat) (bs : List Byte) (poison : Bool) : State :=
  let m := (s.inmsg? p).getD { src := p.src, fn := p.dst.func, id := p.msgid, since := s.clock }
  if m.done then s.answerTo p (.msgAck 0 0)
  else if m.got.contains i then s
  else
    match s.landing p dest i bs.length with
    | .stale => s.staleDrop p.dst.func p
    | .notYet => s
    | .denied => (s.putInmsg { m with done := true }).deny p dest
    | .va a =>
      match s.fnWrite p.dst.func a bs poison with
      | (false, s1) => (s1.putInmsg { m with done := true }).deny p dest
      | (true, s1) =>
        let m1 : InMsg := { m with total := total, got := m.got ++ [i], bytes := m.bytes + bs.length, done := m.bytes + bs.length == total }
        let s2 := s1.putInmsg m1
        if m1.done then (s2.arrived p dest total).answerTo p (.msgAck 0 0) else s2

/-- A GET arrives (R464): the window's bytes go back as one message. -/
def State.takeGet (s : State) (p : Packet) (win gen off total : Nat) : State :=
  let fn := p.dst.func
  match s.windowOf fn win gen with
  | none => s.staleDrop fn p
  | some w =>
    if w.len < off + total then s.answerTo p (.msgAck 5 0)
    else
      match s.readPieces fn (w.base.toNat + off) total with
      | (none, s1) => s1.answerTo p (.msgAck 5 0)
      | (some ps, s1) =>
        let (id, s2) := s1.drawSerial
        s2.sendMsg { id := id, fn := fn, dst := p.src, total := total } p.tc 0 (msgBodies (.reply p.msgid) total ps)

/-- A FADD64 arrives (R464): an ATOM.ADD.D on the word. -/
def State.takeFadd (s : State) (p : Packet) (win gen off : Nat) (x : DWord) : State :=
  let fn := p.dst.func
  match s.windowOf fn win gen with
  | none => s.staleDrop fn p
  | some w =>
    let va := w.base.toNat + off
    if w.len < off + 8 then s.answerTo p (.msgAck 5 0)
    else
      match s.fnRead fn va 8 with
      | (none, s1) => s1.answerTo p (.msgAck 5 0)
      | (some (bs, bad), s1) =>
        match s1.fnWrite fn va (bytesOfNat 8 ((natOfBytes bs + x.toNat) % 2 ^ 64)) bad with
        | (false, s2) => s2.answerTo p (.msgAck 5 0)
        | (true, s2) => s2.answerTo p (.msgAck (if bad then 6 else 0) (BitVec.ofNat 64 (natOfBytes bs)))

/-- The outcome of a message comes back: FADD64 writes the old value to LADDR first (R464). -/
def State.takeAck (s : State) (fn id code : Nat) (old : DWord) : State :=
  match s.msg? fn id with
  | none => s
  | some m =>
    let x := m.record.getD 5
    if code = 0 ∧ recField x 0 4 = 2 then
      let (ok, s1) := s.fnWrite fn (recField x 64 64) (bytesOfNat 8 old.toNat) false
      s1.msgCode fn id (if ok then 0 else 5)
    else s.msgCode fn id code

/-- A message is answered MOVED (R452, R459): the entries are rewritten and the packets not yet acknowledged are sent once
more. -/
def State.msgMoved (s : State) (fn id : Nat) (old new : Triple) : State :=
  match s.msg? fn id with
  | none => s
  | some m =>
    let (vs, s1) := s.renameVdn fn old new
    let s2 := vs.foldl (fun s v => s.event [fn] fn 0x42 0 0 (BitVec.ofNat 64 v)) s1
    if m.dst == new then s2
    else if m.again then s2.msgCode fn id 3
    else
      let ps := (m.pkts.filter (fun q => !m.acked.contains q.body.index)).map (fun q => { q with dst := new })
      ps.foldl State.sendOut (s2.onMsg fn id (fun m => { m with again := true, dst := new, pkts := m.pkts.map (fun q => { q with dst := new }) }))

/-- MESSAGE_PACKET_ARRIVAL (R458, R460, R464): the argument is the place of the packet in the inbox. -/
def execMessagePacketArrival (s : State) : Outcome State Fault Refusal :=
  match s.inboxAt (s.arg 0) with
  | none => .next s
  | some p =>
    let fn := p.dst.func
    let off := s.dropInbox (s.arg 0)
    let req (f : State → State) : Outcome State Fault Refusal :=
      if s.restoring fn || (s.movedFn fn).isSome then .next s
      else
        let s1 := off.allowFor p
        .next (if s1.refuses fn p.src then s1.answerTo p (.msgAck 5 0) else f s1)
    match p.body with
    | .msg dest total i bs q =>
      if s.landing p dest i bs.length = .notYet then .next s else req (fun s => s.takePacket p dest total i bs q)
    | .get w g o n => req (fun s => s.takeGet p w g o n)
    | .fadd w g o x => req (fun s => s.takeFadd p w g o x)
    | .msgAck code old => .next (off.takeAck fn p.msgid code old)
    | .bitmap got => .next (off.onMsg fn p.msgid (fun m => { m with acked := got }))
    | .moved new => if (s.msg? fn p.msgid).isSome then .next (off.msgMoved fn p.msgid p.src new) else .next s
    | _ => .next s

/-- SPRAY_BITMAP_ACK (R461): after every 64 packets and every 2 µs while the message is incomplete.  The argument is its place
among the messages on their way in. -/
def execSprayBitmapAck (s : State) : Outcome State Fault Refusal :=
  match s.inmsgs[s.arg 0]? with
  | none => .next s
  | some m =>
    if m.done || (decide (m.got.length / 64 ≤ m.acks) && decide (s.clock < m.since + 2 * usec)) then .next s
    else
      let s1 := s.putInmsg { m with acks := max (m.acks) (m.got.length / 64), since := s.clock }
      .next (s1.send { dst := m.src, src := s1.ownTriple m.fn, msgid := m.id, body := .bitmap m.got })

/-- SPRAY_RETRANSMIT (R461): arguments are the function, the message and the index of the packet. -/
def execSprayRetransmit (s : State) : Outcome State Fault Refusal :=
  let fn := s.arg 0
  let i := s.arg 2
  match s.msg? fn (s.arg 1) with
  | none => .next s
  | some m =>
    match m.pkts.find? (fun p => p.body.index == i), m.lastAt.get? i, m.firstAt with
    | some p, some t, some t0 =>
      if !p.spray || m.code.isSome || m.acked.contains i || decide (s.clock < t + 8 * usec) || decide (t0 + (s.fn fn).rtmo ≤ s.clock) then .next s
      else .next (s.sendOut p)
    | _, _, _ => .next s

/-- A collective's message whose receiver, of this module, has not issued the collective (R466). -/
def State.heldAtPeer (s : State) (m : OutMsg) : Bool :=
  match m.cid with
  | none => false
  | some c => s.isHere m.dst && (s.coll? m.dst.func c).isNone && m.code.isNone

/-- MESSAGE_TIMEOUT (R461): arguments are the function and the message. -/
def execMessageTimeout (s : State) : Outcome State Fault Refusal :=
  let fn := s.arg 0
  match s.msg? fn (s.arg 1) with
  | none => .next s
  | some m =>
    match m.firstAt with
    | none => .next s
    | some t =>
      if m.code.isSome || decide (s.clock < t + (s.fn fn).rtmo) || s.heldAtPeer m then .next s
      else
        let s1 := if s.isHere m.dst then s
          else m.pkts.foldl (fun s p =>
            if (m.lastAt.get? p.body.index).isSome && !m.acked.contains p.body.index then s.giveUnits fn m.dst p.tc 1 else s) s
        .next (s1.msgCode fn m.id 4)

/-- PEER_RESET_ARRIVAL (R468): the argument is the place of the packet in the inbox. -/
def execPeerResetArrival (s : State) : Outcome State Fault Refusal :=
  match s.inboxAt (s.arg 0) with
  | none => .next s
  | some p =>
    match p.body with
    | .peerReset =>
      let s1 := (s.dropInbox (s.arg 0)).allowFor p
      let fn := p.dst.func
      let named (v : Nat) : Bool := let e := s1.vdnEntry fn v; vdnOk e && vdnTriple e == p.src
      .next ((s1.fn fn).colls.foldl (fun s c =>
        match c.peers.find? named with
        | none => s
        | some v => (s.collFail fn c.cid 8).event [fn] fn 0x0B 0 0 (BitVec.ofNat 64 v)) s1)
    | _ => .next s

/-- ALLOW_ARRIVAL (R487): the argument is the place of the packet in the inbox. -/
def execAllowArrival (s : State) : Outcome State Fault Refusal :=
  match s.inboxAt (s.arg 0) with
  | none => .next s
  | some p =>
    match p.body with
    | .allow n => .next ((s.dropInbox (s.arg 0)).giveUnits p.dst.func p.src p.tc n)
    | _ => .next s

/-! ### VDN syncs (R457) -/

/-- A sync is accepted. -/
def State.syncVdn (s : State) (fn : Nat) : State :=
  let f := s.fn fn
  let x := f.vdnstat.toNat
  s.setFn fn { f with vdnstat := BitVec.ofNat 64 (x / 65536 * 65536 + (x + 1) % 65536) }

/-- VDNSYNC_GO (R457): the argument is the function. -/
def execVdnsyncGo (s : State) : Outcome State Fault Refusal := .next (s.syncVdn (s.arg 0))

/-- VDNSYNC_COMPLETE (R457): no cache holds an entry read before.  The argument is the function. -/
def execVdnsyncComplete (s : State) : Outcome State Fault Refusal :=
  let f := s.fn (s.arg 0)
  let req := f.vdnstat.toNat % 65536
  let done := f.vdnstat.toNat / 65536 % 65536
  if req = done then .next s
  else .next (s.setFn (s.arg 0) { f with vdnCache := [], vdnstat := BitVec.ofNat 64 (req + (done + 1) % 65536 * 65536) })

/-! ### The instructions (R469 to R475) -/

/-- Read a 64-byte record as WRPOST and COLL do (R470). -/
def readRecord64 (s : State) (c : Ctx) (a : DWord) (f : State → Nat → Res) : Res :=
  if a.toNat % 64 ≠ 0 then .fault s { cause := .align, fva := a }
  else
    match s.readVA c.blk a.toNat 64 with
    | .fault s1 k va syn => .fault s1 { cause := k, fva := BitVec.ofNat 64 va, syn := syn }
    | .ok s1 bs p => if p then .fault s1 { cause := .poison, fva := a } else f s1 (natOfBytes bs)

/-- A record that WRPOST refuses (R464, R470). -/
def State.recordRefused (s : State) (fn x : Nat) : Bool :=
  let op := recField x 0 4
  let len := recField x 192 32
  decide (6 ≤ op) || (decide (op ≤ 1) && decide (2 ^ 20 < len) && s.sprayOn fn (recField x 4 2)) ||
  (op == 2 && decide (recField x 128 64 % 8 ≠ 0)) || ((op == 1 || op == 2) && decide (len = 0))

/-- The slot a posted record takes: the tail slot, or the next that is free after it. -/
def WorkList.freeSlot (x : WorkList) : Nat :=
  (((List.range 256).map (fun i => (x.tail + i) % 256)).find? (fun k => !x.recs.any (fun r => r.slot == k))).getD 0

/-- WRPOST (R470). -/
def execWrpost (e : Enc) (s : State) : Outcome State Fault Refusal :=
  s.issue (.wrpost e) e false (notInUnit e (fun s c =>
    let w := s.ctxWave c
    let fn := s.ctxFn c
    match (do let l ← useS w e.src1; let a ← useSPair w e.src0; .ok (l, a) : Except Cause (Nat × DWord)) with
    | .error k => Res.uni s k
    | .ok (l, a) =>
      if 63 < l then Res.uni s .accessFault
      else readRecord64 s c a (fun s1 x =>
        let q := (s1.fn fn).workList l
        if s1.recordRefused fn x || decide (256 ≤ q.recs.length) then Res.uni s1 .accessFault
        else
          let k := q.freeSlot
          let s2 := s1.setList fn l
            { q with tail := (k + 1) % 256, recs := q.recs ++ [{ slot := k, record := x, blk := c.blk, wave := c.wave }] }
          Res.next (s2.setCtxWave c ((s2.ctxWave c).writeS e.dst [⟨BitVec.ofNat 32 (q.handle l k), false⟩])))))

/-- WRARM (R470). -/
def execWrarm (e : Enc) (s : State) : Outcome State Fault Refusal :=
  s.issue (.wrarm e) e false (notInUnit e (fun s c =>
    let w := s.ctxWave c
    let fn := s.ctxFn c
    let ops : Except Cause (Nat × DWord) := do
      let h ← useS w e.src0
      let t ← match e.len with | .l64 => useSPair w e.src1 | _ => .ok (e.imm16.setWidth 64)
      .ok (h, t)
    match ops with
    | .error k => Res.uni s k
    | .ok (h, t) =>
      match (s.fn fn).recordOf h with
      | none => Res.uni s .accessFault
      | some r =>
        let q := (s.fn fn).workList h
        Res.next (s.setList fn h { q with recs := q.recs.map (fun x => if x.slot == r.slot then { x with thr := some t } else x) })))

/-- WRCAN (R470). -/
def execWrcan (e : Enc) (s : State) : Outcome State Fault Refusal :=
  s.issue (.wrcan e) e false (notInUnit e (fun s c =>
    let fn := s.ctxFn c
    match useS (s.ctxWave c) e.src0 with
    | .error k => Res.uni s k
    | .ok h =>
      let put (s : State) (v : Word) : Res := Res.next (s.setCtxWave c ((s.ctxWave c).writeS e.dst [⟨v, false⟩]))
      match (s.fn fn).recordOf h with
      | none => put s 0
      | some r => put (s.setList fn h (((s.fn fn).workList h).remove r.slot)) 1))

/-- A collective record that is refused (R466, R471). -/
def collRefused (op x : Nat) : Bool :=
  let dt := recField x 0 2
  let p := recField x 24 16
  recField x 2 2 == 3 || (dt == 3 && (op == 0 || op == 2)) || decide (p = 0) || decide (32768 < p) || decide (recField x 384 64 % 4 ≠ 0)

/-- COLL (R466, R471). -/
def collBody (op : Nat) (e : Enc) (s : State) (c : Ctx) : Res :=
  let fn := s.ctxFn c
  match useSPair (s.ctxWave c) e.src0 with
  | .error k => Res.uni s k
  | .ok a =>
    readRecord64 s c a (fun s1 x =>
      let cid := recField x 288 16
      if collRefused op x || decide (16 ≤ (s1.fn fn).colls.length) || (s1.coll? fn cid).isSome then Res.uni s1 .accessFault
      else
        let d : Coll := { op := op, record := x, blk := c.blk, wave := c.wave }
        match s1.fnRead fn (recField x 64 64) (2 * d.p) with
        | (none, s2) => Res.next (s2.setFn fn { s2.fn fn with colls := (s2.fn fn).colls ++ [{ d with status := some 5 }] })
        | (some (bs, bad), s2) =>
          let peers := (List.range d.p).map (fun i => natOfBytes ((bs.drop (2 * i)).take 2) % 32768)
          let self := (s2.fn fn).vdnctl
          let ok := !bad && decide (d.rank < d.p) && self.getLsbD 15 && peers.getD d.rank 32768 == self.toNat % 32768
          let d1 := { d with peers := peers, status := if ok then none else some 5 }
          if ok then Res.next ((s2.collStart fn d1).collStep fn cid)
          else Res.next (s2.setFn fn { s2.fn fn with colls := (s2.fn fn).colls ++ [d1] }))

/-- COLL.ALLREDUCE (R466). -/
def execCollAllreduce (e : Enc) (s : State) : Outcome State Fault Refusal := s.issue (.collAllreduce e) e false (notInUnit e (collBody 0 e))
/-- COLL.ALLGATHER (R466). -/
def execCollAllgather (e : Enc) (s : State) : Outcome State Fault Refusal := s.issue (.collAllgather e) e false (notInUnit e (collBody 1 e))
/-- COLL.REDUCESCATTER (R466). -/
def execCollReducescatter (e : Enc) (s : State) : Outcome State Fault Refusal :=
  s.issue (.collReducescatter e) e false (notInUnit e (collBody 2 e))
/-- COLL.ALLTOALL (R466). -/
def execCollAlltoall (e : Enc) (s : State) : Outcome State Fault Refusal := s.issue (.collAlltoall e) e false (notInUnit e (collBody 3 e))
/-- COLL.BROADCAST (R466). -/
def execCollBroadcast (e : Enc) (s : State) : Outcome State Fault Refusal := s.issue (.collBroadcast e) e false (notInUnit e (collBody 4 e))

/-- VDNQ (R472). -/
def execVdnq (e : Enc) (s : State) : Outcome State Fault Refusal :=
  s.issue (.vdnq e) e false (fun s c =>
    let fn := s.ctxFn c
    match useS (s.ctxWave c) e.src0 with
    | .error k => Res.uni s k
    | .ok v =>
      let (x, s1) := s.vdnLookup fn (v % 32768)
      let ok := vdnOk x && s1.routed { dst := vdnTriple x, src := s1.ownTriple fn, tc := vdnTc x, rcls := vdnRcls x, spray := s1.sprayOn fn (vdnTc x) }
      Res.next (s1.setCtxWave c ((s1.ctxWave c).writeS e.dst (clean [x.setWidth 32, if ok then 1 else 0]))))

/-- Every fired record and every collective of a wave is over (R473). -/
def State.fabricIdle (s : State) (blk wave : Nat) : Bool :=
  let fn := (s.block blk).fn
  !(s.msgs.any (fun m => m.fn == fn && m.blk == blk && m.wave == wave && m.record.isSome)) &&
  !((s.fn fn).colls.any (fun c => c.blk == blk && c.wave == wave))

/-- FFENCE (R473). -/
def execFfence (e : Enc) (s : State) : Outcome State Fault Refusal :=
  s.issue (.ffence e) e false (notInUnit e (fun s c =>
    if s.fabricIdle c.blk c.wave then Res.next (s.release c.blk c.wave)
    else .ok (s.parkLanes c e c.members .ffence) false 0))

/-- The operands of CNTADD and CNTWAIT: a counter number below 4,096 and a value (R474). -/
def counterOps (w : Wave) (e : Enc) : Except Cause (Nat × DWord) := do
  let n ← useS w e.src0
  let v ← match e.len with | .l64 => useSPair w e.src1 | _ => .ok (e.imm16.setWidth 64)
  if 4096 ≤ n then .error .accessFault else .ok (n, v)

/-- CNTADD (R474). -/
def execCntadd (e : Enc) (s : State) : Outcome State Fault Refusal :=
  s.issue (.cntadd e) e false (notInUnit e (fun s c =>
    match counterOps (s.ctxWave c) e with
    | .error k => Res.uni s k
    | .ok (n, v) => Res.next ((s.release c.blk c.wave).addCounter (s.ctxFn c) n v)))

/-- The `.ST` form of CNTWAIT. -/
def Enc.cntSt (e : Enc) : Bool := e.fn.getLsbD 0

/-- CNTWAIT (R474). -/
def execCntwait (e : Enc) (s : State) : Outcome State Fault Refusal :=
  s.issue (.cntwait e) e false (notInUnit e (fun s c =>
    let f := s.fn (s.ctxFn c)
    match counterOps (s.ctxWave c) e with
    | .error k => Res.uni s k
    | .ok (n, t) =>
      if f.reached n t then
        let s1 := s.acquire c.blk c.wave
        Res.next (if Enc.cntSt e then s1.setActing c e.dst.toNat true else s1)
      else .ok (s.parkLanes c e c.members (.cnt n t (s.clock + f.rtmo))) false 0))

/-- End a CNTWAIT or an FFENCE; q is written in a `.ST` form. -/
def State.endFabricWait (s : State) (blk wave n : Nat) (p : Park) (q : Option Bool) : State :=
  let w := s.wave blk wave
  let w1 := match q with
    | some b => (lanesOf p.acting).foldl (fun (w : Wave) l => w.onWaiter n l (fun y => y.setQ p.enc.dst.toNat b)) w
    | none => w
  s.setWave blk wave (w1.wake n)

/-- The waits of a wave for counters and for its fired records are judged (R473, R474). -/
def State.judgeFabric (s : State) (blk wave : Nat) : State :=
  (s.wave blk wave).waits.foldl (fun s (n, p) =>
    match p.why with
    | .cnt k t _ =>
      if (s.fn (s.block blk).fn).reached k t then
        (s.endFabricWait blk wave n p (if Enc.cntSt p.enc then some true else none)).acquire blk wave
      else s
    | .ffence => if s.fabricIdle blk wave then (s.endFabricWait blk wave n p none).release blk wave else s
    | _ => s) s

/-- CNTWAIT_TIMEOUT (R474): arguments are the block, the wave and the number of the wait. -/
def execCntwaitTimeout (s : State) : Outcome State Fault Refusal :=
  let blk := s.arg 0
  let wv := s.arg 1
  let w := s.wave blk wv
  match w.waits.get? (s.arg 2) with
  | none => .next s
  | some p =>
    match p.why with
    | .cnt _ _ lim =>
      if s.clock < lim then .next s
      else if Enc.cntSt p.enc then .next (s.endFabricWait blk wv (s.arg 2) p (some false))
      else .next ((s.setWave blk wv (w.wakeAt (s.arg 2) true)).raise (waitCtx blk wv w p) (rawOf (.cntwait p.enc)) false { cause := .remoteFail })
    | _ => .next s

end Sys2Proof.Machine
end

