-- ==== Sys2Proof/Machine/Invalidate.lean ====
section
/-!
DEFINITION. Sys2Proof/Machine/Invalidate.lean: the rows of the translation unit: walks made on their own, invalidations and the roots
(R399 to R404, R407).
-/

namespace Sys2Proof.Machine

open Host

/-- The access an argument names (the codes of R407). -/
def accOfCode (n : Nat) : Acc :=
  match n with
  | 0 => .read
  | 1 => .write
  | 2 => .readWrite
  | 3 => .fetch
  | _ => .walk

/-- PAGE_WALK (R399 to R402): a core walks a page for a block of it; arguments are the block, the VA and the access.  Only the
entries' A and D bits and the core's TLB change; a fault is reported by the access that meets it. -/
def execPageWalk (s : State) : Outcome State Fault Refusal :=
  let blk := s.arg 0
  let va := s.arg 1
  .next (if (s.block blk).core.isSome && decide (va < 2 ^ 55) then (walkBoth s (s.xreq blk) va (accOfCode (s.arg 2))).2 else s)

/-! ### Accepting an invalidation (R403, R404) -/

/-- Count an invalidation in REQ. -/
def statReq (st : Word) : Word := (st &&& 0xFFFF0000) ||| BitVec.ofNat 32 ((st.toNat % 65536 + 1) % 65536)

/-- Count an invalidation in DONE. -/
def statDone (st : Word) : Word := (st &&& 0x0000FFFF) ||| BitVec.ofNat 32 ((st.toNat / 65536 + 1) % 65536 * 65536)

/-- Accept an invalidation of a stage. -/
def Fn.invalidate (f : Fn) (stage : Nat) (page : Option Nat) : Fn :=
  let f1 := { f with inval := f.inval ++ [(stage, page)] }
  if stage = 1 then { f1 with tlbstat := statReq f.tlbstat } else { f1 with s2stat := statReq f.s2stat }

/-- The page an invalidation register's value names: bits [54:16]. -/
def invPage (v : DWord) : Nat := v.toNat / 2 ^ 16 % 2 ^ 39

/-- The reserved bits of TLBINV and S2INV, and of S1ROOT. -/
def rootRsv : DWord := 0xFF8000000000FFFE
/-- The reserved bits of S2ROOT. -/
def s2rootRsv : DWord := 0xFFF000000000FFFE

/-- A write to TLBINV or S2INV; the PF makes the second (R3). -/
def State.writeInv (s : State) (fn stage : Nat) (v : DWord) : State :=
  (s.setFn fn ((s.fn fn).invalidate stage (if v.getLsbD 0 then some (invPage v) else none))).countRsv (if stage = 2 then 0 else fn) (v &&& rootRsv != 0)

/-- A write to S1ROOT: also an invalidation of SCOPE 0 (R403). -/
def State.writeS1root (s : State) (fn : Nat) (v : DWord) : State :=
  (s.setFn fn ({ s.fn fn with s1root := v &&& ~~~rootRsv }.invalidate 1 none)).countRsv fn (v &&& rootRsv != 0)

/-- A write to S2ROOT: also an invalidation of SCOPE 0 (R403). -/
def State.writeS2root (s : State) (fn : Nat) (v : DWord) : State :=
  (s.setFn fn ({ s.fn fn with s2root := v &&& ~~~s2rootRsv }.invalidate 2 none)).countRsv 0 (v &&& s2rootRsv != 0)

/-- The reserved bits of TFBASE. -/
def tfbaseRsv : DWord := 0xFF00000000000FFE

/-- A write to TFBASE (R403): one that leaves EN = 1 checks the array (R353, R421). -/
def State.writeTfbase (s : State) (fn : Nat) (v : DWord) : State :=
  let f := s.fn fn
  let x := v &&& ~~~tfbaseRsv
  let s1 := s.countRsv fn (v &&& tfbaseRsv != 0)
  let put (s : State) (y : DWord) : State := s.setFn fn { s.fn fn with tfbase := y }
  if x.getLsbD 0 && !(s1.s2PagesOk fn (ringBase x) (32 * ringSize f.trctl) .write) then
    (put s1 (x &&& ~~~(1 : DWord))).badBase fn 3 0 (ringBase x)
  else put s1 x

/-- A write by the function to its own window, which a reset in progress ignores (R427). -/
def State.ownWrite (s : State) (fn : Nat) (f : State → State) : State := if (s.fn fn).resetting then s else f s

/-- The value of the write under way: argument 1. -/
def State.argD (s : State) : DWord := BitVec.ofNat 64 (s.arg 1)

/-- TLBINV_ALL (R404): the argument is the function. -/
def execTlbinvAll (s : State) : Outcome State Fault Refusal := .next (s.ownWrite (s.arg 0) (fun s => s.writeInv (s.arg 0) 1 0))

/-- TLBINV_PAGE (R404): arguments are the function and the value. -/
def execTlbinvPage (s : State) : Outcome State Fault Refusal :=
  .next (s.ownWrite (s.arg 0) (fun s => s.writeInv (s.arg 0) 1 (s.argD ||| 1)))

/-- S2INV_ALL (R404): the argument is the function. -/
def execS2invAll (s : State) : Outcome State Fault Refusal := .next (s.writeInv (s.arg 0) 2 0)

/-- S2INV_PAGE (R404): arguments are the function and the value. -/
def execS2invPage (s : State) : Outcome State Fault Refusal := .next (s.writeInv (s.arg 0) 2 (s.argD ||| 1))

/-- S1ROOT_WRITE (R403): arguments are the function and the value. -/
def execS1rootWrite (s : State) : Outcome State Fault Refusal :=
  .next (s.ownWrite (s.arg 0) (fun s => s.writeS1root (s.arg 0) s.argD))

/-- S2ROOT_WRITE (R403): arguments are the function and the value. -/
def execS2rootWrite (s : State) : Outcome State Fault Refusal := .next (s.writeS2root (s.arg 0) s.argD)

/-- TFBASE_ENABLE (R403): arguments are the function and the value, whose EN is 1. -/
def execTfbaseEnable (s : State) : Outcome State Fault Refusal :=
  .next (s.ownWrite (s.arg 0) (fun s => s.writeTfbase (s.arg 0) (s.argD ||| 1)))

/-! ### Completing an invalidation (R404) -/

/-- A leaf of a level that maps `page` maps `other`. -/
def samePage (level page other : Nat) : Bool := if level == 1 then page / 8192 == other / 8192 else page == other

/-- An invalidation covers a TLB entry (R404). -/
def TlbEntry.covered (t : TlbEntry) (fn stage : Nat) (page : Option Nat) : Bool :=
  t.fn == fn &&
  (match page with
    | none => true
    | some p => if stage = 1 then samePage t.level1 t.vpage p else t.leaf2 != 0 && samePage t.level2 t.gpage p)

/-- An invalidation covers a stage-2 leaf that an L2 TLB holds (R401, R404). -/
def TlbLeaf.covered (t : TlbLeaf) (fn stage : Nat) (page : Option Nat) : Bool :=
  t.fn == fn && stage == 2 && (match page with | none => true | some p => samePage t.level p t.gpage)

/-- Every L1 TLB and every L2 TLB drops the entries, and the stage-2 leaves, that satisfy a test. -/
def State.dropTlb (s : State) (p : TlbEntry → Bool) (q : TlbLeaf → Bool) : State :=
  { s with
    cores := s.cores.map (fun (k, c) => (k, { c with tlb := c.tlb.filter (fun t => !p t) }))
    clusters := s.clusters.map (fun (k, c) => (k, { tlb := c.tlb.filter (fun t => !p t), leaves := c.leaves.filter (fun t => !q t) })) }

/-- The access watches a word for a WAITW. -/
def Access.watches (a : Access) : Bool := match a.kind with | .waitw .. => true | _ => false

/-- A WAITW of a wave issues again, and so translates again; lanes that consumed poison read again too. -/
def Wave.retranslate (w : Wave) : Wave :=
  w.waits.foldl (fun w (n, p) =>
    let drop (a : Access) : Bool := a.watches && p.lanes.getLsbD a.lane
    if p.waitsWord && w.acc.any drop then
      ({ w with acc := w.acc.filter (fun a => !drop a), doneMask := w.doneMask &&& ~~~p.why.poisoned }).wakeAt n true
    else w) w

/-- Every access of a function that may have used a covered entry is performed or has taken its value. -/
def State.settleFn (s : State) (fn : Nat) : State :=
  let bs := (s.blocks.filter (fun (_, b) => b.fn == fn && b.core.isSome)).map (·.1)
  bs.foldl (fun s k =>
    (s.block k).waveIds.foldl (fun s w =>
      let s1 := s.completeWave k w
      s1.setWave k w (s1.wave k w).retranslate) s) s

/-- A VA lies in the region of 512 MiB around a page that an invalidation of stage 1 names, or in any region for one of all pages: a covered
entry may have served it. -/
def mayCover (stage : Nat) (page : Option Nat) (va : Nat) : Bool :=
  match page with
  | none => true
  | some p => stage == 1 && samePage 1 p (va / 65536)

/-- Accesses of a function that may have used a covered entry are still to be performed: at a peer, or by the commit of a unit (R322, R404,
log 162). -/
def State.stillCovered (s : State) (fn stage : Nat) (page : Option Nat) : Bool :=
  s.blocks.any (fun (_, b) => b.fn == fn && b.waves.any (fun (_, w) => w.acc.any (fun a =>
    a.remote.isSome && !a.watches && (mayCover stage page a.ea.toNat || mayCover stage page (a.ea.toNat + 15))))) ||
  s.versions.any (fun v => (s.unit v.sid).fn == fn)

/-- INVALIDATION_COMPLETE (R404): the oldest invalidation of a stage completes, once nothing that used a covered entry is still to be
performed; arguments are the function and the stage. -/
def execInvalidationComplete (s : State) : Outcome State Fault Refusal :=
  let fn := s.arg 0
  let stage := s.arg 1
  let f := s.fn fn
  match f.inval.find? (fun (k, _) => k == stage) with
  | none => .next s
  | some (_, page) =>
    if s.stillCovered fn stage page then .next s
    else
    let s1 := (s.settleFn fn).dropTlb (fun t => t.covered fn stage page) (fun t => t.covered fn stage page)
    let g := s1.fn fn
    let i := g.inval.findIdx (fun (k, _) => k == stage)
    let g1 := { g with inval := g.inval.eraseIdx i }
    .next (s1.setFn fn (if stage = 1 then { g1 with tlbstat := statDone g1.tlbstat } else { g1 with s2stat := statDone g1.s2stat }))

end Sys2Proof.Machine
end

