-- ==== Sys2Proof/Machine/Crypto.lean ====
section
/-!
DEFINITION. Sys2Proof/Machine/Crypto.lean: the hash and the cipher that the spec takes from the standards it names (R6): SHA-512 (FIPS 180-4),
HMAC-SHA-512, and AES-256-GCM with a 96-bit IV and a 128-bit tag (FIPS 197, NIST SP 800-38D).  PRESUMED: the algorithms are the
standards' own, not the spec's text (log 21).
-/

namespace Sys2Proof.Machine

/-! ### SHA-512 and HMAC -/

/-- The first 80 primes. -/
def shaPrimes : List Nat :=
  [2, 3, 5, 7, 11, 13, 17, 19, 23, 29, 31, 37, 41, 43, 47, 53, 59, 61, 67, 71] ++
  [73, 79, 83, 89, 97, 101, 103, 107, 109, 113, 127, 131, 137, 139, 149, 151, 157, 163, 167, 173] ++
  [179, 181, 191, 193, 197, 199, 211, 223, 227, 229, 233, 239, 241, 251, 257, 263, 269, 271, 277, 281] ++
  [283, 293, 307, 311, 313, 317, 331, 337, 347, 349, 353, 359, 367, 373, 379, 383, 389, 397, 401, 409]

/-- The greatest r with r ^ d at most x, its bits decided from the given one down. -/
def rootBits (d x : Nat) : Nat → Nat → Nat
  | 0, r => r
  | k + 1, r => rootBits d x k (if (r + 2 ^ k) ^ d ≤ x then r + 2 ^ k else r)

/-- The first 64 bits of the fraction of a prime's square root, and of its cube root. -/
def shaInit (p : Nat) : DWord := BitVec.ofNat 64 (rootBits 2 (p * 2 ^ 128) 70 0)
def shaRound (p : Nat) : DWord := BitVec.ofNat 64 (rootBits 3 (p * 2 ^ 192) 70 0)

/-- A big-endian number of some bytes, and the bytes of one. -/
def natOfBe (bs : List Byte) : Nat := bs.foldl (fun a b => a * 256 + b.toNat) 0
def beOfNat (n x : Nat) : List Byte := (List.range n).map (fun i => BitVec.ofNat 8 (x / 2 ^ (8 * (n - 1 - i))))

/-- A list cut into n pieces of k. -/
def piecesOf {α : Type} (k n : Nat) (l : List α) : List (List α) := (List.range n).map (fun i => (l.drop (k * i)).take k)

/-- The message schedule: n more words after those there are, the last first. -/
def shaSchedule : Nat → List DWord → List DWord
  | 0, w => w
  | n + 1, w =>
    let a := w.getD 14 0
    let b := w.getD 1 0
    let s0 := (a.rotateRight 1) ^^^ (a.rotateRight 8) ^^^ (a >>> 7)
    let s1 := (b.rotateRight 19) ^^^ (b.rotateRight 61) ^^^ (b >>> 6)
    shaSchedule n ((w.getD 15 0 + s0 + w.getD 6 0 + s1) :: w)

/-- One round on the eight working words. -/
def shaStep (v : List DWord) (kw : DWord) : List DWord :=
  match v with
  | [a, b, c, d, e, f, g, h] =>
    let t1 := h + ((e.rotateRight 14) ^^^ (e.rotateRight 18) ^^^ (e.rotateRight 41)) + ((e &&& f) ^^^ (~~~e &&& g)) + kw
    let t2 := ((a.rotateRight 28) ^^^ (a.rotateRight 34) ^^^ (a.rotateRight 39)) + ((a &&& b) ^^^ (a &&& c) ^^^ (b &&& c))
    [t1 + t2, a, b, c, d + t1, e, f, g]
  | _ => v

/-- One block of 128 bytes. -/
def shaBlock (ks : List DWord) (h : List DWord) (block : List Byte) : List DWord :=
  let w := (shaSchedule 64 ((piecesOf 8 16 block).map (fun b => BitVec.ofNat 64 (natOfBe b))).reverse).reverse
  List.zipWith (· + ·) h ((List.zipWith (· + ·) ks w).foldl shaStep h)

/-- SHA-512 (R6, R500). -/
@[irreducible] def sha512 (msg : List Byte) : List Byte :=
  let n := msg.length
  let zeros := (128 - (n + 17) % 128) % 128
  let padded := msg ++ [0x80] ++ List.replicate zeros 0 ++ beOfNat 16 (8 * n)
  let h := (piecesOf 128 ((n + 17 + zeros) / 128) padded).foldl (shaBlock (shaPrimes.map shaRound)) ((shaPrimes.take 8).map shaInit)
  h.flatMap (fun x => beOfNat 8 x.toNat)

/-- HMAC-SHA-512 of a key and a text (R6, R482). -/
@[irreducible] def hmacSha512 (key text : List Byte) : List Byte :=
  let k0 := if 128 < key.length then sha512 key else key
  let k := k0 ++ List.replicate (128 - k0.length) 0
  sha512 (k.map (· ^^^ 0x5C) ++ sha512 (k.map (· ^^^ 0x36) ++ text))

/-! ### AES-256 -/

/-- A byte times x in the field of AES. -/
def aesX (b : Byte) : Byte := (b <<< 1) ^^^ (if b.msb then 0x1B else 0)

/-- The product of two bytes in the field of AES, over n bits of the second. -/
def aesMul : Nat → Byte → Byte → Byte
  | 0, _, _ => 0
  | n + 1, a, b => (if b.getLsbD 0 then a else 0) ^^^ aesMul n (aesX a) (b >>> 1)

/-- A byte to the power 2 ^ (n + 1) − 2: with n = 7 its inverse. -/
def aesInv : Nat → Byte → Byte
  | 0, _ => 1
  | n + 1, a => let r := aesMul 8 (aesInv n a) a; aesMul 8 r r

/-- The S-box. -/
def aesSub (a : Byte) : Byte :=
  let b := aesInv 7 a
  b ^^^ (b.rotateLeft 1) ^^^ (b.rotateLeft 2) ^^^ (b.rotateLeft 3) ^^^ (b.rotateLeft 4) ^^^ 0x63

/-- The S-box as a table. -/
def aesBox : List Byte := (List.range 256).map (fun i => aesSub (BitVec.ofNat 8 i))

/-- Exclusive or of two lists of bytes. -/
def xorBytes (a b : List Byte) : List Byte := List.zipWith (· ^^^ ·) a b

/-- The key's words of 4 bytes, the last first: n more, the next being word i. -/
def aesExpand (box : List Byte) : Nat → Nat → Byte → List (List Byte) → List (List Byte)
  | 0, _, _, ws => ws
  | n + 1, i, rc, ws =>
    let sub (w : List Byte) : List Byte := w.map (fun b => box.getD b.toNat 0)
    let t := ws.getD 0 []
    let u := if i % 8 = 0 then xorBytes (sub (t.drop 1 ++ t.take 1)) [rc, 0, 0, 0] else if i % 8 = 4 then sub t else t
    aesExpand box n (i + 1) (if i % 8 = 0 then aesX rc else rc) (xorBytes (ws.getD 7 []) u :: ws)

/-- One column of MixColumns. -/
def aesMix (c : List Byte) : List Byte :=
  let g (i : Nat) : Byte := c.getD (i % 4) 0
  (List.range 4).map (fun i => aesX (g i) ^^^ (aesX (g (i + 1)) ^^^ g (i + 1)) ^^^ g (i + 2) ^^^ g (i + 3))

/-- SubBytes and ShiftRows. -/
def aesShift (box st : List Byte) : List Byte := (List.range 16).map (fun i => box.getD (st.getD ((i + 4 * (i % 4)) % 16) 0).toNat 0)

/-- The cipher of one block of 16 bytes under round keys. -/
def aesBlock (box : List Byte) (keys : List (List Byte)) (b : List Byte) : List Byte :=
  match keys with
  | [] => b
  | k :: rest =>
    rest.zipIdx.foldl (fun st (rk, i) =>
      let t := aesShift box st
      xorBytes rk (if i + 1 = rest.length then t else (piecesOf 4 4 t).flatMap aesMix)) (xorBytes k b)

/-- The round keys of AES-256. -/
def aesKeys (box key : List Byte) : List (List Byte) :=
  (piecesOf 4 15 ((aesExpand box 52 8 1 (piecesOf 4 8 key).reverse).reverse)).map List.flatten

/-! ### GCM -/

/-- The product in the field of GHASH, over the bits of the first factor from the most significant on. -/
def ghashMul (x : BitVec 128) : Nat → BitVec 128 → BitVec 128
  | 0, _ => 0
  | n + 1, v =>
    (if x.getLsbD n then v else 0) ^^^
      ghashMul x n ((v >>> 1) ^^^ (if v.getLsbD 0 then 0xE1000000000000000000000000000000#128 else 0))

/-- GHASH of whole blocks under a key. -/
def ghash (h : BitVec 128) (bs : List Byte) : BitVec 128 :=
  (piecesOf 16 (bs.length / 16) bs).foldl (fun y b => ghashMul (y ^^^ BitVec.ofNat 128 (natOfBe b)) 128 h) 0

/-- Zeros up to a whole block. -/
def padBlock (bs : List Byte) : List Byte := bs ++ List.replicate ((16 - bs.length % 16) % 16) 0

/-- The counter mode's ciphertext of a plaintext, and the plaintext of a ciphertext. -/
def gcmCtr (box : List Byte) (keys : List (List Byte)) (iv bs : List Byte) : List Byte :=
  ((List.range ((bs.length + 15) / 16)).map (fun i =>
    xorBytes ((bs.drop (16 * i)).take 16) (aesBlock box keys (iv ++ beOfNat 4 (i + 2))))).flatten

/-- The tag of additional data and a ciphertext. -/
def gcmTag (box : List Byte) (keys : List (List Byte)) (iv aad ct : List Byte) : List Byte :=
  let h := BitVec.ofNat 128 (natOfBe (aesBlock box keys (List.replicate 16 0)))
  let y := ghash h (padBlock aad ++ padBlock ct ++ beOfNat 8 (8 * aad.length) ++ beOfNat 8 (8 * ct.length))
  xorBytes (aesBlock box keys (iv ++ beOfNat 4 1)) (beOfNat 16 y.toNat)

/-- AES-256-GCM: key, IV, additional data and plaintext to ciphertext and 16-byte tag (R6, R483). -/
@[irreducible] def gcmSeal (key iv aad pt : List Byte) : List Byte :=
  let keys := aesKeys aesBox key
  let ct := gcmCtr aesBox keys iv pt
  ct ++ gcmTag aesBox keys iv aad ct

/-- AES-256-GCM: key, IV, additional data, ciphertext and tag to the plaintext, if the tag holds (R6, R484). -/
@[irreducible] def gcmOpen (key iv aad ct tag : List Byte) : Option (List Byte) :=
  let keys := aesKeys aesBox key
  if gcmTag aesBox keys iv aad ct = tag then some (gcmCtr aesBox keys iv ct) else none

end Sys2Proof.Machine
end

