-- ==== Sys2Proof/Machine/Port.lean ====
section
/-!
DEFINITION. Sys2Proof/Machine/Port.lean: the port engine (R478 to R498): flits, link retry, training and the state table of a port, keys,
and the swap of the route banks.
-/

namespace Sys2Proof.Machine

open Host

/-! ### Checks and keys (R479, R482, R489) -/

/-- One bit of a reflected CRC. -/
def crcBit (poly reg : Nat) : Nat := if reg % 2 = 1 then (reg / 2) ^^^ poly else reg / 2

/-- One byte of a reflected CRC. -/
def crcByte (poly reg : Nat) (b : Byte) : Nat := (List.range 8).foldl (fun r _ => crcBit poly r) (reg ^^^ b.toNat)

/-- A reflected CRC of n bits with initial value and final XOR all ones. -/
def crcOf (n poly : Nat) (bs : List Byte) : Nat := (bs.foldl (crcByte poly) (2 ^ n - 1)) ^^^ (2 ^ n - 1)

/-- CRC-64/XZ (R479). -/
def crc64 (bs : List Byte) : Nat := crcOf 64 0xC96C5795D7870F42 bs

/-- CRC-32 of IEEE 802.3 (R449, R489). -/
def crc32 (bs : List Byte) : Nat := crcOf 32 0xEDB88320 bs

/-- Key and salt of a direction (R482). -/
def portKeys (secret : List Byte) (gen dir : Nat) : Crypt :=
  let h := hmacSha512 secret (([0x50, 0x4C, 0x41, 0x44, 0x45, 0x4E] : List Byte) ++ bytesOfNat 4 gen ++ bytesOfNat 1 dir)
  { key := h.take 32, salt := (h.drop 32).take 4 }

/-- The IV of a slot (R6, R483). -/
def Crypt.iv (c : Crypt) : List Byte := c.salt ++ bytesOfNat 8 c.count

/-! ### Summaries (R489 to R491) -/

/-- The lanes of a port, its minimum width and the widths from it on, widest first (R478, R490). -/
def portWidth (port : Nat) : Nat := if electrical port then 16 else 32
def Port.minw (x : Port) : Nat := min 2 (x.pctl.toNat / 64 % 4)
def Port.widths (x : Port) (port : Nat) : List Nat := (List.range (x.minw + 1)).map (fun i => portWidth port / 2 ^ i)

/-- The lane group within a map of lanes: its width (R490). -/
def Port.group (x : Port) (port : Nat) (m : BitVec 32) : Option Nat :=
  (x.widths port).find? (fun w => (List.range (portWidth port / w)).any (fun g => (List.range w).all (fun k => m.getLsbD (g * w + k))))

/-- The key a side offers (R491). -/
def Port.offer (x : Port) : PortKey := x.pending.getD x.current

/-- The summary of a port without its CRC (R489). -/
def State.summaryHead (s : State) (port ver : Nat) : List Byte :=
  let x := s.port port
  let k := x.offer
  bytesOfNat 60 (ver + (optical port).toNat * 2 ^ 8 + s.grp % 4096 * 2 ^ 16 + s.member % 32 * 2 ^ 28 + port * 2 ^ 33 +
    x.lock.toNat * 2 ^ 64 + (x.pctl.getLsbD 5).toNat * 2 ^ 96 + x.pctl.toNat / 8 % 4 * 2 ^ 97 + k.kid % 65536 * 2 ^ 112 +
    (k.lastgen + 1) % 2 ^ 32 * 2 ^ 128)

/-- A summary or START slot (R489). -/
def State.summarySlot (s : State) (port ver : Nat) : List Byte :=
  let h := s.summaryHead port ver
  h ++ bytesOfNat 4 (crc32 h) ++ List.replicate 192 0

/-- A field of a summary. -/
def sumField (bs : List Byte) (lo n : Nat) : Nat := natOfBytes bs / 2 ^ lo % 2 ^ n

/-- The first condition that fails between the own and the partner's summary (R490); 0 for none. -/
def State.mcodeOf (s : State) (port : Nat) (bs : List Byte) : Nat :=
  let x := s.port port
  let f := sumField bs
  let k := x.offer
  let own := (s.grp, s.member, port)
  let his := (f 16 12, f 28 5, f 33 7)
  let want := (x.ppeer.toNat % 4096, x.ppeer.toNat / 2 ^ 12 % 32, x.ppeer.toNat / 2 ^ 17 % 128)
  if f 0 8 ≠ 1 ∨ f 9 7 ≠ 0 ∨ f 40 24 ≠ 0 ∨ f 99 13 ≠ 0 ∨ f 160 320 ≠ 0 ∨ f 480 32 ≠ crc32 (bs.take 60) then 1
  else if f 8 1 ≠ (optical port).toNat then 2
  else if his = own ∨ (x.ppeer.getLsbD 24 = true ∧ his ≠ want) then 3
  else if f 96 1 ≠ (x.pctl.getLsbD 5).toNat ∨ f 97 2 ≠ x.pctl.toNat / 8 % 4 then 4
  else if (x.group port (x.lock &&& BitVec.ofNat 32 (f 64 32))).isNone then 5
  else if f 112 16 ≠ k.kid ∨ k.kid = 0 then 6
  else if f 128 32 ≠ (k.lastgen + 1) % 2 ^ 32 then 7
  else 0

/-- The number that orders the ends of a link (R482). -/
def endNumber (grp mem port : Nat) : Nat := grp * 4096 + mem * 128 + port

/-- The direction this end sends (R482). -/
def State.ownDir (s : State) (port : Nat) (bs : List Byte) : Nat :=
  if endNumber s.grp s.member port < endNumber (sumField bs 16 12) (sumField bs 28 5) (sumField bs 33 7) then 0 else 1

/-! ### Events and routes (R496, R497) -/

/-- A port event: to the PF ring only. -/
def State.portEvent (s : State) (code info : Nat) : State := s.event [0] 0 code 0 0 (BitVec.ofNat 64 info)

/-- A module has a route on a minimal path. -/
def State.moduleRouted (s : State) (t : Triple) : Bool := s.routed { dst := t }

/-- A change of ports or banks: PEER_UNREACHABLE for every module that has lost every route (R496). -/
def State.routesLost (before after : State) : State :=
  before.fns.foldl (fun s (fn, _) =>
    (before.vdnEntries fn).foldl (fun s (v, e) =>
      let t := vdnTriple e
      if before.moduleRouted t && !after.moduleRouted t then s.event [fn] fn 0x57 0 0 (BitVec.ofNat 64 v) else s) s) after

/-! ### The state table (R492) -/

/-- A port enters a state. -/
def State.enterPort (s : State) (port : Nat) (st : PortSt) : State := s.setPort port { s.port port with state := st, stateAt := s.clock }

/-- A port enters LOCK: its packets that have not started are looked up again; a link that ended empty starts its sequence
anew. -/
def State.toLock (s : State) (port : Nat) (fresh : Bool) : State :=
  let x := s.port port
  let y : Port := { x with lock := 0, partner := none, summaries := 0, startSent := false, startGot := false, replays := 0, nakFor := none
                           drainSent := false, drainGot := false }
  let z : Port := if fresh then { y with sent := [], fseq := 0, again := [], expect := 0, waiting := false, rxBytes := [], txBytes := [] } else y
  ((s.setPort port z).requeue port).enterPort port .lock

/-- A port ends in DOWN or FAILED: its routes are withdrawn. -/
def State.withdraw (s : State) (port : Nat) (st : PortSt) : State :=
  let x := s.port port
  let s1 := ((s.setPort port { x with sent := [], again := [], txBytes := [], rxBytes := [] }).requeue port).enterPort port st
  s.routesLost s1

/-- A link goes back to training from ACTIVE (R492): the reason is that of LINK_DOWN. -/
def State.linkDown (s : State) (port reason : Nat) : State :=
  let x := s.port port
  let s1 := if x.reconf then s else s.portEvent 0x51 (port + reason * 256)
  (s1.setPort port { x with tries := 0 }).toLock port false

/-- A try has failed (R492): the next one, or FAILED with LINK_FAILED. -/
def State.nextTry (s : State) (port : Nat) : State :=
  let x := s.port port
  if x.tries < 3 then (s.setPort port { x with tries := x.tries + 1 }).toLock port false
  else (s.portEvent 0x53 port).withdraw port .failed

/-- The port disagrees with its partner (R490 to R492). -/
def State.toMismatch (s : State) (port code : Nat) : State :=
  let x := s.port port
  let gen := max (x.offer.lastgen + 1) ((x.partner.map (fun bs => sumField bs 128 32)).getD 0)
  let keyed (k : PortKey) : PortKey := if code = 7 then { k with lastgen := gen } else k
  let y : Port := { x with mcode := code }
  let z : Port := match y.pending with
    | some k => { y with pending := some (keyed k) }
    | none => { y with current := keyed y.current }
  let s1 := s.setPort port z
  (if code = 5 then s1 else s1.portEvent 0x52 (port + code * 256)).enterPort port .mismatch

/-- A port of R478. -/
def portExists (p : Nat) : Bool := electrical p || optical p

/-- The port's self-test has passed (R504). -/
def State.portReady (s : State) (p : Nat) : Bool := if p < 64 then s.mgmt.rdy1.getLsbD p else s.mgmt.rdy2.getLsbD (p - 64)

/-- PCTL.EN := 1 (R492, R493); a port that is not ready stays in DOWN (R504). -/
def State.portEnable (s : State) (port : Nat) : State :=
  let x := s.port port
  if x.pctl.getLsbD 0 || !portExists port then s
  else
    let s1 := s.setPort port { x with pctl := x.pctl ||| 1, perr := 0 }
    if x.state == .down && s.portReady port then (s1.setPort port { s1.port port with tries := 0 }).toLock port true else s1

/-- PCTL.EN := 0 (R492). -/
def State.portDisable (s : State) (port : Nat) : State :=
  let x := s.port port
  let s1 := s.setPort port { x with pctl := x.pctl &&& ~~~(1 : DWord) }
  if x.state == .down then s1 else s1.withdraw port .down

/-- PCTL.RETRAIN (R492). -/
def State.portRetrain (s : State) (port : Nat) : State :=
  let x := s.port port
  match x.state with
  | .active => s.linkDown port 2
  | .failed => (s.setPort port { x with tries := 0 }).toLock port true
  | _ => s

/-- A port whose drain is complete goes to QUIET (R492). -/
def State.settleDrain (s : State) (port : Nat) : State :=
  let x := s.port port
  if x.state == .draining && x.drainSent && x.drainGot && x.sent.isEmpty then s.enterPort port .quiet else s

/-- PCTL.RECONF := 1, or an intact DRAIN received (R492). -/
def State.portReconfSet (s : State) (port : Nat) : State :=
  let x := s.port port
  let s1 := s.setPort port { x with pctl := x.pctl ||| 2, reconfAt := s.clock }
  if x.state == .active then
    ((s1.setPort port { s1.port port with drainSent := false }).requeue port).enterPort port .draining
  else s1

/-- PCTL.RECONF := 0 (R492). -/
def State.portReconfClear (s : State) (port : Nat) : State :=
  let x := s.port port
  let s1 := s.setPort port { x with pctl := x.pctl &&& ~~~(2 : DWord), drainSent := false, drainGot := false }
  if (x.state == .draining || x.state == .quiet) && x.lock != 0 then s1.enterPort port .active else s1

/-- PORT_ENABLE (R492): the argument of these five is the port. -/
def execPortEnable (s : State) : Outcome State Fault Refusal := .next (s.portEnable (s.arg 0))
/-- PORT_DISABLE (R492). -/
def execPortDisable (s : State) : Outcome State Fault Refusal := .next (s.portDisable (s.arg 0))
/-- PORT_RETRAIN (R492). -/
def execPortRetrain (s : State) : Outcome State Fault Refusal := .next (s.portRetrain (s.arg 0))
/-- PORT_RECONF_SET (R492). -/
def execPortReconfSet (s : State) : Outcome State Fault Refusal := .next (s.portReconfSet (s.arg 0))
/-- PORT_RECONF_CLEAR (R492). -/
def execPortReconfClear (s : State) : Outcome State Fault Refusal := .next (s.portReconfClear (s.arg 0))

/-- LANE_LOCK (R492): arguments are the port and the lanes with FEC lock. -/
def execLaneLock (s : State) : Outcome State Fault Refusal :=
  let port := s.arg 0
  let x := s.port port
  let m : BitVec 32 := BitVec.ofNat 32 (s.arg 1 % 2 ^ portWidth port)
  if x.state != .lock || (x.group port m).isNone then .next s
  else .next ((s.setPort port { x with lock := m }).enterPort port .summary)

/-- LOCK_TIMEOUT (R490, R492): 1 ms without lock while RECONF = 0.  The argument of these is the port. -/
def execLockTimeout (s : State) : Outcome State Fault Refusal :=
  let x := s.port (s.arg 0)
  if x.state == .lock && !x.reconf && decide (x.stateAt + 1000 * usec ≤ s.clock) then .next (s.toMismatch (s.arg 0) 5) else .next s

/-- TRAINING_AGREEMENT (R491, R492). -/
def execTrainingAgreement (s : State) : Outcome State Fault Refusal :=
  let port := s.arg 0
  let x := s.port port
  match x.partner with
  | none => .next s
  | some bs =>
    if x.state != .summary || !x.startSent || !x.startGot || decide (s.mcodeOf port bs ≠ 0) then .next s
    else
      let k := x.offer
      let gen := (k.lastgen + 1) % 2 ^ 32
      let w := (x.group port (x.lock &&& BitVec.ofNat 32 (sumField bs 64 32))).getD 0
      let y : Port := { x with current := { k with lastgen := gen }, pending := none, kid := k.kid, kgen := gen, width := w, mcode := 0
                               again := x.sent.map (fun (f : SentFlit) => f.fseq), intactAt := s.clock, silent := false, paused := 0 }
      let s1 := ((s.setPort port y).enterPort port .active).portEvent 0x50 (port + w * 256)
      let s2 := if w = portWidth port then s1 else s1.portEvent 0x56 (port + w * 256)
      -- RECONF = 1 keeps it held; the port drains again only on a new write or DRAIN
      .next s2

/-- LINK_MISMATCH (R490, R492). -/
def execLinkMismatch (s : State) : Outcome State Fault Refusal :=
  let port := s.arg 0
  let x := s.port port
  match x.partner with
  | none => .next s
  | some bs =>
    let m := s.mcodeOf port bs
    if x.state == .summary && m != 0 then .next (s.toMismatch port m) else .next s

/-- SUMMARY_TIMEOUT (R490, R492): 100 µs without an intact summary or START. -/
def execSummaryTimeout (s : State) : Outcome State Fault Refusal :=
  let x := s.port (s.arg 0)
  if x.state == .summary && (x.partner.isNone || !x.startGot) && decide (x.stateAt + 100 * usec ≤ s.clock) then
    .next (s.toMismatch (s.arg 0) 8)
  else .next s

/-- MISMATCH_RETRY (R492). -/
def execMismatchRetry (s : State) : Outcome State Fault Refusal :=
  let x := s.port (s.arg 0)
  if x.state == .mismatch && decide (x.stateAt + 100 * usec ≤ s.clock) then .next (s.nextTry (s.arg 0)) else .next s

/-- LOCK_LOST (R492). -/
def execLockLost (s : State) : Outcome State Fault Refusal :=
  let port := s.arg 0
  let x := s.port port
  match x.state with
  | .active => .next (s.linkDown port 0)
  | .quiet => .next ((s.setPort port { x with tries := 0 }).toLock port true)
  | .draining => .next (s.setPort port { x with lock := 0 })
  | _ => .next s

/-- The handshake of R511 in DRAIN: once every port has reached FAILED, EN := 0 on every port, and it is safe to unlatch. -/
def State.evSettle (s : State) : State :=
  let ps := (List.range 96).filter portExists
  if s.mgmt.ev == .drain && ps.all (fun p => (s.port p).state == .failed) then
    let s1 := ps.foldl (fun s p => s.portDisable p) s
    { s1 with mgmt := { s1.mgmt with ev := .safe } }
  else s

/-- RECONF_TIMEOUT (R492, R511): 1 s since RECONF was written. -/
def execReconfTimeout (s : State) : Outcome State Fault Refusal :=
  let port := s.arg 0
  let x := s.port port
  if x.reconf && x.state != .active && decide (x.reconfAt + 1000000 * usec ≤ s.clock) then
    .next (((s.setPort port { x with pctl := x.pctl &&& ~~~(2 : DWord) }).portEvent 0x58 port).withdraw port .failed).evSettle
  else .next s

/-! ### Keys (R491, R493) -/

/-- The master secret that PKEY0 to PKEY3 hold (R482). -/
def Port.secret (x : Port) : List Byte := (List.range 4).flatMap (fun i => bytesOfNat 8 (x.pkey.get 0 i).toNat)

/-- A write of PKID by the management controller (R493). -/
def State.writePkid (s : State) (port kid : Nat) : State :=
  let x := s.port port
  s.setPort port { x with pending := if kid % 65536 = 0 then none else some { kid := kid % 65536, secret := x.secret } }

/-- PKID_INSTALL (R493): arguments are the port and the key ID. -/
def execPkidInstall (s : State) : Outcome State Fault Refusal :=
  if s.arg 1 % 65536 = 0 then .next s else .next (s.writePkid (s.arg 0) (s.arg 1))
/-- PKID_WITHDRAW (R493): the argument is the port. -/
def execPkidWithdraw (s : State) : Outcome State Fault Refusal := .next (s.writePkid (s.arg 0) 0)

/-! ### The banks (R496) -/

/-- RTCTL.SWAP (R496). -/
def State.swapRoutes (s : State) : State :=
  let s1 := s.ports.foldl (fun s (p, _) => (s.requeue p).portReconfClear p) { s with rtAct := !s.rtAct }
  s.routesLost (s1.portEvent 0x55 s1.rtAct.toNat)

/-- ROUTE_SWAP (R496). -/
def execRouteSwap (s : State) : Outcome State Fault Refusal := .next s.swapRoutes

/-! ### Sending a flit (R479 to R481, R483, R485, R486) -/

/-- A VC has bytes or packets to send. -/
def Port.hasData (x : Port) (v : Nat) : Bool := !(x.txBytes.get [] v).isEmpty || !(x.txq.get [] v).isEmpty

/-- The VCs a new DATA flit may carry (R486). -/
def Port.ready (x : Port) : List Nat :=
  if x.silent then [] else (List.range 8).filter (fun v => x.hasData v && !x.paused.getLsbD v)

/-- Fill a flit's payload from a VC: 224 bytes, packets started as they are needed. -/
def State.fill (fuel : Nat) (s : State) (port v : Nat) : State :=
  match fuel with
  | 0 => s
  | k + 1 =>
    let x := s.port port
    if 224 ≤ (x.txBytes.get [] v).length then s
    else
      match x.txq.get [] v with
      | [] => s
      | p :: r =>
        let (bs, s1) := s.startPacket p
        let y := s1.port port
        State.fill k (s1.setPort port { y with txq := y.txq.set v r, txBytes := y.txBytes.set v (y.txBytes.get [] v ++ bs) }) port v

/-- A payload of 224 bytes: PAD fills what is left (R481). -/
def padded (bs : List Byte) : List Byte :=
  if bs.length < 224 then bs ++ (bytesOfNat 32 (15 * 2 ^ 48) ++ List.replicate 224 (0 : Byte)).take (224 - bs.length) else bs.take 224

/-- A flit's type, VC, FSEQ and payload. -/
structure Flit where
  type : Nat
  vc : Nat := 0
  fseq : Nat := 0
  payload : List Byte := List.replicate 224 0
  deriving DecidableEq, Repr

/-- The flit a sequenced entry of the replay buffer stands for. -/
def SentFlit.flit (f : SentFlit) : Flit := { type := if f.drain then 2 else 1, vc := f.vc, fseq := f.fseq, payload := f.payload }

/-- A new sequenced flit enters the replay buffer. -/
def State.sequence (s : State) (port : Nat) (drain : Bool) (vc : Nat) (payload : List Byte) : Flit × State :=
  let x := s.port port
  let f : SentFlit := { fseq := x.fseq, drain := drain, vc := vc, payload := payload, sentAt := s.clock }
  (f.flit, s.setPort port { x with sent := x.sent ++ [f], fseq := (x.fseq + 1) % 4096 })

/-- The flit of the next slot (R485, R486, R492): a replay, else DRAIN when the port drains and its buffer is empty, else DATA of a
VC that is not paused, else IDLE. -/
def State.nextFlit (s : State) (port : Nat) : Flit × State :=
  let x := s.port port
  match x.again with
  | q :: r =>
    let s1 := s.setPort port { x with again := r, sent := x.sent.map (fun f => if f.fseq == q then { f with sentAt := s.clock } else f) }
    match x.sent.find? (fun f => f.fseq == q) with
    | some f => (f.flit, s1)
    | none => ({ type := 0 }, s1)
  | [] =>
    if x.state == .draining && x.sent.isEmpty && !x.drainSent then
      (s.setPort port { x with drainSent := true }).sequence port true 0 (List.replicate 224 0)
    else if x.usable && decide (x.sent.length < 1024) then
      match x.ready with
      | [] => ({ type := 0 }, s)
      | v :: vs =>
        let (i, s1) := s.drawPick (vs.length + 1)
        let u := (v :: vs).getD i v
        let s2 := s1.fill 16 port u
        let y := s2.port port
        let bs := y.txBytes.get [] u
        (s2.setPort port { y with txBytes := y.txBytes.set u (bs.drop 224) }).sequence port false u (padded bs)
    else ({ type := 0 }, s)

/-- The link header of a flit (R480). -/
def flitHeader (f : Flit) (x : Port) (pause : Nat) : Nat :=
  f.type + (if f.type = 1 then f.vc % 8 * 16 else 0) + x.waiting.toNat * 128 + (if f.type = 0 then 0 else f.fseq % 4096 * 2 ^ 8) +
  (x.expect + 4095) % 4096 * 2 ^ 20 + pause % 256 * 2 ^ 32

/-- A slot: the header in clear, the ciphertext with its tag, and the CRC (R479, R483). -/
def slotOf (c : Crypt) (h : Nat) (payload : List Byte) : List Byte :=
  let hd := bytesOfNat 8 h
  let b := hd ++ gcmSeal c.key c.iv hd payload
  b ++ bytesOfNat 8 (crc64 b)

/-- Send one encrypted slot.  PAUSE is free: the size of the input buffers is not stated (R486). -/
def State.sendSlot (s : State) (port : Nat) : State :=
  let x := s.port port
  if 2 ^ 48 ≤ x.tx.count then s.linkDown port 2
  else
    let (f, s1) := s.nextFlit port
    let (pause, s2) := s1.drawWord
    let y := s2.port port
    s2.setPort port { y with out := slotOf y.tx (flitHeader f y pause.toNat) f.payload, tx := { y.tx with count := y.tx.count + 1 } }

/-- FLIT_SEND (R483, R489, R491): one slot of a port.  The argument is the port. -/
def execFlitSend (s : State) : Outcome State Fault Refusal :=
  let port := s.arg 0
  let x := s.port port
  match x.state with
  | .active | .draining | .quiet => .next (s.sendSlot port)
  | .summary =>
    if x.startSent then .next (s.sendSlot port)
    else
      match x.partner with
      | some bs =>
        if 4 ≤ x.summaries ∧ s.mcodeOf port bs = 0 then
          let c := portKeys x.offer.secret ((x.offer.lastgen + 1) % 2 ^ 32) (s.ownDir port bs)
          .next (s.setPort port { x with startSent := true, tx := c, out := s.summarySlot port 0xFF })
        else .next (s.setPort port { x with summaries := x.summaries + 1, out := s.summarySlot port 1 })
      | none => .next (s.setPort port { x with summaries := x.summaries + 1, out := s.summarySlot port 1 })
  | _ => .next s

/-! ### Receiving a flit (R481, R484, R485) -/

/-- Add 1 to a saturating count of PERR. -/
def Port.count (x : Port) (i : Nat) : Port :=
  if x.perr.toNat / 2 ^ (16 * i) % 65536 = 65535 then x else { x with perr := x.perr + BitVec.ofNat 64 (2 ^ (16 * i)) }

/-- A packet of this module that an ORD channel has delivered before is a duplicate (R461). -/
def Seen.dup (x : Seen) (n : Nat) : Bool :=
  x.nums.contains n || (match x.nums with
    | [] => false
    | a :: _ => let d := (a + 65536 - n) % 65536; decide (1024 ≤ d) && decide (d < 32768))

/-- A packet is received whole (R461, R481, R488): discarded, delivered here or sent on. -/
def State.received (s : State) (port : Nat) (p : Packet) : State :=
  if p.body == .unknown then s.setPort port ((s.port port).count 1)
  else if !s.isHere p.dst then { s with egress := s.egress ++ [{ p with since := s.clock }] }
  else if p.spray || p.body.isResponse then s.toInbox p
  else
    let same (x : Seen) : Bool := x.src == p.src && x.dst == p.dst.func && x.tc == p.tc
    let x := (s.seen.find? same).getD { src := p.src, dst := p.dst.func, tc := p.tc }
    if x.dup p.seq then s
    else ({ s with seen := s.seen.filter (fun y => !same y) ++ [{ x with nums := (p.seq :: x.nums).take 1024 }] }).toInbox p

/-- A corrupt slot: the receiver waits for a replay (R484). -/
def State.corrupt (s : State) (port : Nat) (x : Port) : State := s.setPort port { x with waiting := true }

/-- The sender's side of an intact flit: the acknowledgement, and the replay a NAK asks for (R485). -/
def State.acked (s : State) (port ack : Nat) (nak : Bool) : State :=
  let x := s.port port
  let freed := (x.sent.findIdx? (fun f => f.fseq == ack)).map (· + 1)
  let y : Port := match freed with
    | some n => { x with sent := x.sent.drop n, again := x.again.filter (fun q => (x.sent.drop n).any (fun f => f.fseq == q)), replays := 0 }
    | none => x
  let recent := match y.nakFor with | some (a, t) => a == ack && decide (s.clock < t + 2 * usec) | none => false
  if !nak || recent || y.sent.isEmpty then s.setPort port y
  else
    let z : Port := { y with again := y.sent.map (fun (f : SentFlit) => f.fseq), nakFor := some (ack, s.clock), replays := y.replays + 1 }.count 3
    let s1 := s.setPort port z
    if 16 ≤ z.replays && z.state == .active then s1.linkDown port 1 else s1

/-- Deliver a sequenced flit in order (R485). -/
def State.deliver (s : State) (port type vc : Nat) (payload : List Byte) : State :=
  let x := s.port port
  let y : Port := { x with expect := (x.expect + 1) % 4096, waiting := false }
  if type = 2 then
    let s1 := s.setPort port { y with drainGot := true }
    if y.state == .active then s1.portReconfSet port else s1
  else
    let (ps, r) := packetsOf 64 vc (y.rxBytes.get [] vc ++ payload)
    ps.foldl (fun s p => s.received port p) (s.setPort port { y with rxBytes := y.rxBytes.set vc r })

/-- An intact flit (R485, R486). -/
def State.intact (s : State) (port : Nat) (h : Nat) (payload : List Byte) : State :=
  let f (lo n : Nat) : Nat := h / 2 ^ lo % 2 ^ n
  let x := s.port port
  let s1 := s.setPort port { x with intactAt := s.clock, silent := false, paused := BitVec.ofNat 8 (f 32 8) }
  let s2 := s1.acked port (f 20 12) (f 7 1 == 1)
  let y := s2.port port
  let s3 :=
    if f 0 4 = 0 then s2
    else if f 8 12 = y.expect then s2.deliver port (f 0 4) (f 4 3) payload
    else if (y.expect + 4096 - f 8 12) % 4096 ≤ 2048 then s2
    else s2.setPort port { y with waiting := true }
  s3.settleDrain port

/-- A tag failed with a good CRC (R484): four within 2^20 slots retrain an ACTIVE link. -/
def State.tagFailed (s : State) (port : Nat) (x : Port) : State :=
  let ts := (x.slots :: x.tagFails).filter (fun t => decide (x.slots < t + 2 ^ 20))
  let s1 := s.corrupt port ({ x with tagFails := ts }.count 2)
  if 4 ≤ ts.length ∧ x.state = .active then
    ((s1.setPort port { s1.port port with tagFails := [] }).portEvent 0x54 port).nextTry port
  else s1

/-- A slot of an encrypted link (R484). -/
def State.slotIn (s : State) (port : Nat) (fec : Bool) (bs : List Byte) : State :=
  let x0 := s.port port
  let c := x0.rx
  let x : Port := { x0 with slots := x0.slots + 1, rx := { c with count := c.count + 1 } }
  if !fec then s.corrupt port (x.count 0)
  else if natOfBytes (bs.drop 248) ≠ crc64 (bs.take 248) then s.corrupt port (x.count 1)
  else
    match gcmOpen c.key c.iv (bs.take 8) ((bs.drop 8).take 224) ((bs.drop 232).take 16) with
    | none => s.tagFailed port x
    | some payload =>
      let h := natOfBytes (bs.take 8)
      if 3 ≤ h % 16 ∨ h / 2 ^ 40 ≠ 0 then s.corrupt port x
      else (s.setPort port x).intact port h payload

/-- A slot in the clear while the port compares summaries (R489 to R491). -/
def State.summaryIn (s : State) (port : Nat) (fec : Bool) (bs : List Byte) : State :=
  let x := s.port port
  let head := bs.take 64
  if !fec then s.setPort port (x.count 0)
  else if sumField head 0 8 = 0xFF then
    let h := bytesOfNat 60 (natOfBytes (head.take 60) - 0xFE)
    if natOfBytes (head.drop 60) ≠ crc32 (head.take 60) then s
    else
      let sum := h ++ bytesOfNat 4 (crc32 h)
      let y : Port := { x with startGot := true, partner := some (x.partner.getD sum) }
      s.setPort port { y with rx := portKeys x.offer.secret ((x.offer.lastgen + 1) % 2 ^ 32) (1 - s.ownDir port sum) }
  else s.setPort port { x with partner := some head }

/-- FLIT_RECEIVE (R484, R489): arguments are the port and whether the FEC decoded; the data are the 256 bytes of the slot. -/
def execFlitReceive (s : State) : Outcome State Fault Refusal :=
  let port := s.arg 0
  let x := s.port port
  let fec := s.arg 1 != 0
  match x.state with
  | .active | .draining | .quiet => .next (s.slotIn port fec s.data)
  | .summary => .next (if x.startGot then s.setPort port { x with slots := x.slots + 1, rx := { x.rx with count := x.rx.count + 1 } }
      else s.summaryIn port fec s.data)
  | _ => .next s

/-- REPLAY_TIMEOUT (R485): the oldest unacknowledged flit has waited 4 µs.  The argument is the port. -/
def execReplayTimeout (s : State) : Outcome State Fault Refusal :=
  let port := s.arg 0
  let x := s.port port
  match x.sent, x.state with
  | f :: _, .active | f :: _, .draining | f :: _, .quiet =>
    if s.clock < f.sentAt + 4 * usec then .next s
    else
      let y : Port := { x with again := x.sent.map (fun (f : SentFlit) => f.fseq), replays := x.replays + 1 }.count 3
      let s1 := s.setPort port y
      .next (if 16 ≤ y.replays && y.state == .active then s1.linkDown port 1 else s1)
  | _, _ => .next s

/-- PAUSE_SILENCE_TIMEOUT (R486): no intact slot for 2 µs.  The argument is the port. -/
def execPauseSilenceTimeout (s : State) : Outcome State Fault Refusal :=
  let port := s.arg 0
  let x := s.port port
  if s.clock < x.intactAt + 2 * usec then .next s else .next (s.setPort port { x with silent := true })

end Sys2Proof.Machine
end

