-- ==== Sys2Proof/Machine/Reset.lean ====
section
/-!
DEFINITION. Sys2Proof/Machine/Reset.lean: what a function reset does to a function's work, its peers and its registers (R427, R468),
and the ownership of clusters (R415 to R418).
-/

namespace Sys2Proof.Machine

open Host

/-! ### Clusters (R415 to R417) -/

/-- A function is quiescent (R415). -/
def State.quiescent (s : State) (f : Nat) : Bool :=
  if f ≠ 0 then !s.enabled f || (s.fn f).resetting
  else
    (s.fn 0).queues.all (fun (_, q) => !q.on) && !(s.launches.any (fun l => l.fn == 0)) && !(s.blocks.any (fun (_, b) => b.fn == 0)) &&
    !(s.tasks.any (fun t => t.fn == 0)) && !(s.conts.any (fun c => c.task.fn == 0)) && !((s.fn 0).domains.any (fun (_, d) => d.open_))

/-- CLOWN with its fields. -/
def clownOf (owner holder : Nat) (recl : Bool) (dl : Nat) : DWord :=
  BitVec.ofNat 64 (owner % 64 + holder % 64 * 64 + recl.toNat * 4096 + dl % 65536 * 65536)

def State.setClown (s : State) (k : Nat) (v : DWord) : State := { s with clown := s.clown.set k v }

/-- DL of a value of CLOWN. -/
def clownDl (v : DWord) : Nat := v.toNat / 65536 % 65536

/-- The HOLDER of a write takes effect (R416, R417). -/
def State.setHolder (s : State) (k holder dl : Nat) : State :=
  let o := s.clusterOwner k
  let h := s.clusterHolder k
  if holder = h then s.setClown k (clownOf o h (s.clusterRecl k) dl)
  else if holder = o then
    (({ s with former := s.former.set k h }.setClown k (clownOf o o true dl)).sliceEnd k dl true)
  else if s.lent k || (s.onCluster k).any (fun (_, b) => b.fn == o) then s
  else (s.zeroCluster k).setClown k (clownOf o holder false dl)

/-- A function becomes ready (R83, R293): its %clock and its cores' spawn counters start from 0. -/
def State.becomeReady (s : State) (fn : Nat) : State :=
  { s with
    fns := s.fns.set fn { s.fn fn with readyAt := s.clock, clockAdd := 0 }
    cores := s.cores.map (fun ((k, c) : Nat × Core) => (k, { c with spawnCount := c.spawnCount.erase fn })) }

/-- The functions among some that were not ready in a state before become ready. -/
def State.newlyReady (s s0 : State) (fns : List Nat) : State :=
  (fns.filter (fun f => !s0.ready f && s.ready f)).foldl State.becomeReady s

/-- A write of CLOWN with the owner that it names (R415 to R417, R504). -/
def State.putClown (s : State) (k : Nat) (v : DWord) : State :=
  let o := s.clusterOwner k
  let o1 := v.toNat % 64
  let h1 := v.toNat / 64 % 64
  if o1 = o then s.setHolder k h1 (clownDl v)
  else if !s.quiescent o || !s.quiescent o1 || (!s.clusterReady k && o1 != 0) then s
  else
    let held := if s.clusterHolder k = o then o1 else s.clusterHolder k
    (s.setClown k (clownOf o1 held (s.clusterRecl k) (clownDl v))).setHolder k h1 (clownDl v)

/-- A write of CLOWN: a function that owns its first ready cluster becomes ready (R414). -/
def State.writeClown (s : State) (k : Nat) (v : DWord) : State := (s.putClown k v).newlyReady s [v.toNat % 64]

/-- A write of SPART (R418). -/
def State.writeSpart (s : State) (core : Nat) (v : DWord) : State :=
  if !s.quiescent (s.clusterOwner (core / 8)) then s
  else
    let h := if 19 < v.toNat % 32 then (s.spart.get 0 core).toNat % 32 else v.toNat % 32
    let spec := v.getLsbD 8
    let refused := spec && decide (17 < h)
    let s1 := { s with spart := s.spart.set core (BitVec.ofNat 64 (h + (if spec && !refused then 256 else 0))) }
    if refused then s1.event [0] 0 0x05 (eventObj 4 core) 0 (BitVec.ofNat 64 core) else s1

/-- A cluster held on loan goes back at once, without its blocks (R427): INFO names the former holder, under a reclaim too (R424). -/
def State.giveBack (s : State) (k : Nat) : State :=
  let h := if s.clusterRecl k then s.former.get 0 k else s.clusterHolder k
  let o := s.clusterOwner k
  let s1 := (s.zeroCluster k).setClown k (clownOf o o false (clownDl (s.clown.get 0 k)))
  ({ s1 with draining := s1.draining.erase k, former := s1.former.erase k } : State).event [0] o 0x07 (eventObj 5 k) 0 (BitVec.ofNat 64 h)

/-! ### Steps 1 to 4 of a reset (R427, R468) -/

/-- Stores, atomics and chunks already sent are performed (R427). -/
def State.fence (s : State) (fn : Nat) : State :=
  s.blocks.foldl (fun s (k, b) =>
    if b.fn != fn || b.core.isNone then s
    else (b.waveIds.foldl (fun s w => s.performWhere k w (fun a => a.isWrite)) s).finishChunks k) s

/-- The function's commands end (R427 step 2): copies as fatal faults with ACCESS_FAULT (R248), and stack commands as SMVCAN ends them
(R288); its barriers are poisoned with ACCESS_FAULT. -/
def State.endCommands (s : State) (fn : Nat) : State :=
  (s.blocks.filter (fun (_, b) => b.fn == fn)).foldl (fun s (k, b) =>
    let s1 := (List.range b.nbar).foldl (fun s n => s.poisonBar k n .accessFault) s
    let s2 := b.copies.foldl (fun s (id, _) => s.fatalCopy k id .accessFault 0 none) s1
    b.stackCmds.foldl (fun s (id, _) => s.cancelStack k id) s2) s

/-- The function's work is gone: blocks, units, tasks, continuations, launches and records (R427 steps 1 to 3), and the copies that the
L1s of its cores hold (R137). -/
def State.dropWork (s : State) (fn : Nat) : State :=
  let cores := (s.blocks.filterMap (fun (_, b) => if b.fn == fn then b.core else none)).eraseDups
  let sids := (s.units.filter (fun (_, u) => u.fn == fn)).map (·.1)
  let gone := (s.blocks.filter (fun (_, b) => b.fn == fn)).map (·.1)
  let s1 := { s with
    blocks := s.blocks.filter (fun (_, b) => b.fn != fn)
    restores := s.restores.filter (fun b => !gone.contains b)
    units := s.units.filter (fun (_, u) => u.fn != fn)
    versions := s.versions.filter (fun v => !sids.contains v.sid)
    tasks := s.tasks.filter (fun t => t.fn != fn)
    conts := s.conts.filter (fun c => c.task.fn != fn)
    launches := s.launches.filter (fun l => l.fn != fn) }
  let f := s1.fn fn
  cores.foldl State.emptyL1 (s1.setFn fn { f with recs := [], waiting := [], token := none, domains := [] })

/-- Clusters lent are reclaimed with DL = 0, and those held on loan return (R427 step 3). -/
def State.settleLoans (s : State) (fn : Nat) : State :=
  (List.range 32).foldl (fun s k =>
    if s.clusterOwner k == fn && s.clusterHolder k != fn then s.setHolder k fn 0
    else if s.clusterHolder k == fn && s.clusterOwner k != fn then s.giveBack k
    else if s.clusterRecl k && s.former.get 64 k == fn && s.clusterOwner k != fn then s.giveBack k
    -- lent, and under a reclaim already
    else if s.clusterRecl k && s.clusterOwner k == fn then (s.setClown k (clownOf fn fn true 0)).sliceEnd k 0 true
    else s) s

/-- Steps 1 to 3 (R427, R452). -/
def State.clearWork (s : State) (fn : Nat) : State := (((s.fence fn).endCommands fn).dropWork fn).settleLoans fn

/-- PEER_RESET goes to every peer of every pending collective (R427 step 4, R468). -/
def State.tellPeers (s : State) (fn : Nat) : State :=
  let own := s.ownTriple fn
  (s.fn fn).colls.foldl (fun s c =>
    let ts := ((c.peers.map (fun v => s.vdnEntry fn v)).filter vdnOk).map vdnTriple
    (ts.eraseDups.filter (fun t => t != own)).foldl (fun s t => s.send { dst := t, src := own, tc := c.tc, body := .peerReset }) s) s

/-! ### Step 5 (R427, R468) -/

/-- The registers of R412 return to their reset values, the event ring apart, and the fabric engine's state of the function to
what R468 states; the PF's control page keeps its values. -/
def Fn.afterReset (f : Fn) : Fn :=
  { evbase := f.evbase, evctl := f.evctl, evprod := f.evprod, evcons := f.evcons
    s2root := f.s2root, s2stat := f.s2stat, tctl := f.tctl, tovf := f.tovf, tovfNext := f.tovfNext, fcfg := f.fcfg
    inval := f.inval.filter (fun (st, _) => st == 2)
    vdnctl := f.vdnctl, vdnbase := f.vdnbase, vdnstat := f.vdnstat, vdnCache := f.vdnCache, irqs := f.irqs
    windows := f.windows.map (fun (k, w) => (k, { w with valid := false }))
    lists := f.lists.map (fun (k, l) => (k, { l with recs := [] }))
    turn := f.turn, resetting := f.resetting }

/-- The fabric engine's traffic of the function ends (R468); its channels start anew (R487). -/
def State.dropTraffic (s : State) (fn : Nat) : State :=
  { s with
    msgs := s.msgs.filter (fun m => m.fn != fn)
    inmsgs := s.inmsgs.filter (fun m => m.fn != fn)
    egress := s.egress.filter (fun p => !(p.fresh && p.src.func == fn && p.src.grp == s.grp && p.src.mem == s.member && !p.body.isResponse && p.body != .peerReset))
    channels := s.channels.filter (fun c => c.func != fn) }

/-- Step 5, and the end of the reset (R414, R427). -/
def State.endReset (s : State) (fn : Nat) : State :=
  let s1 := (s.dropTraffic fn).setFn fn { (s.fn fn).afterReset with resetting := false }
  let s2 := { s1 with
    moved := s1.moved.filter (fun m => m.fn != fn)
    cores := s1.cores.map (fun ((k, c) : Nat × Core) => (k, { c with tlb := c.tlb.filter (fun t => t.fn != fn) }))
    clusters := s1.clusters.map (fun ((k, c) : Nat × Cluster) =>
      (k, { tlb := c.tlb.filter (fun t => t.fn != fn), leaves := c.leaves.filter (fun t => t.fn != fn) })) }
  let s3 := s2.becomeReady fn
  s3.event [fn, 0] fn 0x0C 0 0 0

end Sys2Proof.Machine
end

