-- ==== Sys2Proof/Machine/Window.lean ====
section
/-!
DEFINITION. Sys2Proof/Machine/Window.lean: what a function's register window reads (R411, R412).
-/

namespace Sys2Proof.Machine

open Host

/-- FSTAT (R414). -/
def State.fstat (s : State) (fn : Nat) : DWord :=
  let f := s.fn fn
  BitVec.ofNat 64 ((s.ready fn).toNat + f.resetting.toNat * 2 + f.fatal.toNat * 4 + (s.clustersOf fn).length * 256)

/-- A launch queue's registers (R370). -/
def Queue.reg (q : Queue) (i : Nat) : DWord :=
  match i with
  | 0 => q.base
  | 1 => q.ctl.setWidth 64
  | 2 => BitVec.ofNat 64 (q.rd % 65536 + q.wr % 65536 * 65536)
  | _ => BitVec.ofNat 64 (q.count % 2 ^ 28)

/-- The register of the function window at an offset that is a multiple of 8; unassigned offsets and WO registers read 0. -/
def State.windowReg (s : State) (fn off : Nat) : DWord :=
  let f := s.fn fn
  let w (x : Word) : DWord := x.setWidth 64
  if 0x1000 ≤ off ∧ off < 0x1200 then (f.queues.get {} ((off - 0x1000) / 32)).reg (off / 8 % 4)
  else if 0x100 ≤ off ∧ off < 0x140 then f.scbase.get 0 ((off - 0x100) / 8)
  else if 0x260 ≤ off ∧ off < 0x280 then f.odis.get 0 ((off - 0x260) / 8)
  else if 0xA0 ≤ off ∧ off < 0xC0 then f.vehdr.get 0 ((off - 0xA0) / 8)
  else
    match off with
    | 0x000 => s.fstat fn
    | 0x010 => w f.rsvwrite
    | 0x040 => f.evbase
    | 0x048 => w f.evctl
    | 0x050 => w f.evprod
    | 0x058 => w f.evcons
    | 0x080 => f.vestat
    | 0x088 => f.vemask
    | 0x090 => f.vesev
    | 0x098 => f.vefep
    | 0x200 => f.trbase
    | 0x208 => w f.trctl
    | 0x210 => w f.trprod
    | 0x218 => w f.trcons
    | 0x240 => f.embase
    | 0x248 => w f.emctl
    | 0x300 => f.s1root
    | 0x310 => w f.tlbstat
    | 0x318 => f.tfbase
    | _ => 0

/-- The 4,608 bytes of WIN (R442). -/
def State.windowBytes (s : State) (fn : Nat) : List Byte := (List.range 576).flatMap (fun i => bytesOfNat 8 (s.windowReg fn (8 * i)).toNat)

/-- A function with the registers of WIN loaded, all but FSTAT, FRESET, TLBINV, TLBSTAT and TRANS (R442). -/
def Fn.loadWindow (f : Fn) (g : Nat → DWord) : Fn :=
  let w (off : Nat) : Word := (g off).setWidth 32
  { f with
    rsvwrite := w 0x10
    evbase := g 0x40, evctl := w 0x48, evprod := w 0x50, evcons := w 0x58
    vestat := g 0x80, vemask := g 0x88, vesev := g 0x90, vefep := g 0x98
    vehdr := (List.range 4).map (fun i => (i, g (0xA0 + 8 * i)))
    scbase := (List.range 8).map (fun i => (i, g (0x100 + 8 * i)))
    trbase := g 0x200, trctl := w 0x208, trprod := w 0x210, trcons := w 0x218
    embase := g 0x240, emctl := w 0x248
    odis := (List.range 4).map (fun i => (i, g (0x260 + 8 * i)))
    s1root := g 0x300, tlbstat := 0, tfbase := g 0x318
    queues := (List.range 16).map (fun q =>
      let r (i : Nat) : DWord := g (0x1000 + 32 * q + 8 * i)
      (q, { base := r 0, ctl := (r 1).setWidth 32, rd := (r 2).toNat % 65536, wr := (r 2).toNat / 65536 % 65536, count := (r 3).toNat % 2 ^ 28 })) }

end Sys2Proof.Machine
end

