-- ==== Sys2Proof/Machine/Image.lean ====
section
/-!
DEFINITION. Sys2Proof/Machine/Image.lean: the image of a function in the Selhus neutral state format (R441 to R449, R477).
-/

namespace Sys2Proof.Machine

open Host

/-! ### Records -/

/-- Fields packed from bit 0 up: width and value. -/
def packBits (l : List (Nat × Nat)) : Nat :=
  match l with
  | [] => 0
  | (n, v) :: r => v % 2 ^ n + 2 ^ n * packBits r

/-- The bytes of packed fields. -/
def packBytes (l : List (Nat × Nat)) : List Byte := bytesOfNat ((l.map (·.1)).sum / 8) (packBits l)

/-- Zeros up to a multiple of 16 bytes. -/
def pad16 (bs : List Byte) : List Byte := bs ++ List.replicate ((16 - bs.length % 16) % 16) 0

/-- A record with its header (R441). -/
def imageRec (type lcore blki sub : Nat) (body : List Byte) : List Byte :=
  let b := pad16 body
  packBytes [(8, type), (8, 1), (16, 0), (32, 16 + b.length), (16, lcore), (16, blki), (32, sub)] ++ b

/-- Bits as bytes, the first lowest, padded to 16 bytes. -/
def bitBytes (l : List Bool) : List Byte := pad16 (packBytes (l.map (fun b => (1, b.toNat)) ++ List.replicate ((8 - l.length % 8) % 8) (1, 0)))

/-! ### Guest addresses of host addresses (R441: no record holds a host PA) -/

/-- The entries of a table that are not 0, ascending. -/
def State.tableEntries (s : State) (t : Nat) : List (Nat × DWord) :=
  let is := (s.mem.filter (fun (a, _) => decide (t ≤ a) && decide (a < t + 65536))).map (fun (a, _) => (a - t) / 8)
  is.eraseDups.map (fun i => (i, s.dwordAt (t + 8 * i)))

/-- The stage-2 leaves below a table, ascending: guest PA, size and host PA. -/
def State.s2Below (s : State) (levels : List (Nat × Nat)) (table base : Nat) : List (Nat × Nat × Nat) :=
  match levels with
  | [] => []
  | (lv, sh) :: rest =>
    (s.tableEntries table).flatMap (fun (i, e) =>
      let g := base + i * 2 ^ sh
      match pteKind 2 lv false e with
      | .leaf => [(g, pageSize lv, leafOut ⟨0, e, lv⟩ g)]
      | .table t => s.s2Below rest t g
      | _ => [])

/-- The leaves of a function's stage 2 that map HBM, in ascending guest PA (R434). -/
def State.s2Leaves (s : State) (fn : Nat) : List (Nat × Nat × Nat) :=
  let root := (s.fn fn).s2root
  if root.getLsbD 0 then (s.s2Below walkLevels (pteAddr root) 0).filter (fun (g, _, _) => decide (g < 2 ^ 40)) else []

/-! ### Barriers, rings and the stream (R446, R449) -/

/-- The state word of a barrier (R201). -/
def Bar.word (x : Bar) : Nat :=
  packBits [(32, x.bytes), (6, x.exp), (6, x.arr), (1, x.phase.toNat), (1, x.psn.toNat), (1, x.v.toNat), (1, 0), (8, x.ecause.code), (8, 0)]

/-- The state word of a ring and its slot entries (R205). -/
def Ring.bytes (r : Ring) : List Byte :=
  packBytes [(24, r.base), (5, r.lsz), (3, 0), (8, r.ns), (8, r.head), (8, r.tail), (1, r.hlap.toNat), (1, r.tlap.toNat), (1, r.be.toNat),
    (1, r.v.toNat), (4, 0), (7, r.bb), (1, 0), (9, r.count 0), (9, r.count 2), (38, 0)] ++
  packBytes ((List.range 256).map (fun i => let x := r.slot i; (4, x.st + x.lap.toNat * 4 + x.err.toNat * 8)))

/-- Where a waiter stands among the waiters of a ring end. -/
def waitSeq (l : List RingWaiter) (x : RingWaiter) : Nat := (l.findIdx? (fun y => y == x)).getD 0

/-- MSEQ (R446). -/
def Stream.bytes (m : Stream) (b : Block) : List Byte :=
  let (wk, obj, par, seq) := match m.wait with
    | none => (0, 0, false, 0)
    | some (.bar n p _) => (1, n, p, 0)
    | some (.ring c push) => (if push then 3 else 2, c, false, waitSeq (if push then (b.ring c).pushers else (b.ring c).poppers) .stream)
  let hs (i : Nat) : Nat := match m.held.get? i with
    | some h => packBits [(1, 1), (8, h.slot), (1, h.lap.toNat), (1, h.producing.toNat)]
    | none => 0
  packBytes ([(64, m.pc.toNat)] ++ (List.range 4).map (fun i => (32, (m.n.get 0 i).toNat)) ++ [(64, m.mwb.toNat)] ++
    (List.range 32).map (fun i => (16, hs i)) ++
    [(32, m.mstat.toNat), (32, m.tilePoison.toNat), (8, wk), (8, obj), (1, par.toNat), (15, 0), (32, seq)])

/-- ACC: the words of a tile and their poison (R446). -/
def Block.tileBytes (b : Block) (x : Nat) : List Byte :=
  let ws := b.tiles.get [] x
  (List.range 2048).flatMap (fun i => bytesOfNat 4 (ws.getD i 0).toNat) ++
  packBytes ((List.range 1024).map (fun u => (1, (b.tileBad.contains (1024 * x + u)).toNat)))

/-! ### Waves (R445) -/

/-- An entry of the batch table. -/
structure BatchEntry where
  members : BitVec 32
  blocked : Bool := false
  wkind : Nat := 0
  wobj : Nat := 0
  wpar : Bool := false
  wst : Bool := false
  nbs : Tab Nat := []
  seq : Nat := 0
  /-- the wait it stands for -/
  wait : Option Nat := none
  deriving DecidableEq, Repr

/-- The entry of a wait: a group blocked at a blocking point, or one that issues its instruction again. -/
def Block.waitEntry (b : Block) (wave n : Nat) (p : Park) : BatchEntry :=
  let e : BatchEntry := { members := p.lanes, blocked := true, wait := some n }
  match p.why with
  | .waitb k par => { e with wkind := 1, wobj := k, wpar := par, wst := p.enc.fn == 1 }
  | .ringEnd c push =>
    { e with wkind := if push then 3 else 2, wobj := c, seq := waitSeq (if push then (b.ring c).pushers else (b.ring c).poppers) (.wave wave n) }
  | .waitk mask nbs => { e with wkind := 4, wobj := mask, nbs := nbs, wst := p.enc.fn == 1 }
  -- a saved wave waits for no remote outcome: such a wait is a WAITW's
  | .waitw .. | .remote .. => { e with wkind := 5, wst := p.enc.stForm }
  | .ringRoom c => { e with wkind := 11, wobj := c }
  | _ => { e with blocked := false }

/-- The runnable entries of a context of a wave, oldest first: its batches, then its groups whose wait has no wake condition in the image and
which issue their instruction again. -/
def Block.runEntries (b : Block) (wave : Nat) (w : Wave) (batches : List Batch) (cond : Nat → Cond) : List BatchEntry :=
  batches.map (fun (x : Batch) => ({ members := x.mask } : BatchEntry)) ++
  (w.waits.map (fun (n, p) => b.waitEntry wave n p)).filter (fun e =>
    !e.blocked && (match cond (lowLane e.members), e.wait with | .blocked k, some n => k == n | _, _ => false))

/-- The runnable entries of a wave's own context. -/
def Block.ownEntries (b : Block) (wave : Nat) (w : Wave) : List BatchEntry := b.runEntries wave w w.batches (fun l => (w.lane l).cond)

/-- The runnable entries of a frame of a wave. -/
def Block.frameEntries (b : Block) (wave : Nat) (w : Wave) (f : Frame) : List BatchEntry :=
  b.runEntries wave w f.batches (fun l => (f.lanes.get {} l).cond)

/-- The batch table of a wave: its own runnable entries, those of its frames, and its blocked groups. -/
def Block.batchTable (b : Block) (wave : Nat) (w : Wave) : List BatchEntry :=
  b.ownEntries wave w ++ w.frames.reverse.flatMap (b.frameEntries wave w) ++
  (w.waits.map (fun (n, p) => b.waitEntry wave n p)).filter (fun e => e.blocked)

/-- The bytes of an entry. -/
def BatchEntry.bytes (e : BatchEntry) : List Byte :=
  packBytes ([(32, e.members.toNat), (1, e.blocked.toNat), (7, 0), (8, e.wkind), (8, e.wobj), (1, e.wpar.toNat), (1, e.wst.toNat), (6, 0)] ++
    (List.range 8).map (fun k => (16, e.nbs.get 0 k)) ++ [(32, e.seq), (32, 0)])

/-- The condition of a lane and its place in the batch table. -/
def laneCond (es : List BatchEntry) (lo n : Nat) (l : Nat) (c : Cond) : Nat × Nat × Nat :=
  let bt (p : BatchEntry → Bool) (d : Nat) : Nat := (es.findIdx? p).getD d
  match c with
  | .runnable => (0, 0, lo + ((es.drop lo).take n).findIdx (fun e => e.members.getLsbD l))
  | .blocked k => (if es.any (fun e => e.wait == some k && e.blocked) then 1 else 0, 0, bt (fun e => e.wait == some k) 0)
  | .joined m => (2, m, 0)
  | .idle | .stacked => (3, 0, 0)

/-- A lane as LANE holds it. -/
def laneBytes (pc : DWord) (base : Nat) (k : Nat × Nat × Nat) (fpstat : Word) (pred : BitVec 32) (fibid : Word) (gen : Word) : List Byte :=
  packBytes [(64, pc.toNat), (8, base), (2, k.1), (3, k.2.1), (5, fpstat.toNat), (5, k.2.2), (9, 0), (32, pred.toNat), (32, fibid.toNat),
    (32, gen.toNat), (64, 0)]

/-- A latch lane as LAT holds it. -/
def LatchLane.bytes (x : LatchLane) : List Byte := packBytes [(32, x.val.val.toNat), (8, x.tag.toNat), (1, x.nwb.toNat), (1, x.valid.toNat), (22, 0)]

/-- AGE of n runnable batches from an index on. -/
def ageBytes (lo n : Nat) : List Byte := (List.range 32).map (fun j => if j < n then BitVec.ofNat 8 (lo + j) else 0xFF)

/-- The selector of a pending write (R359). -/
def EmTarget.selector (t : EmTarget) : Nat :=
  match t with
  | .v r => r
  | .s r => 192 + r
  | .latchVal n => 256 + n
  | .latchMeta n => 512 + n
  | .pred => 768
  | .fpstat => 1024
  | .fpctl => 1025
  | .pcLo => 1026
  | .pcHi => 1027

/-- The part of a wave's state that its record and its frames share: bits 128 to 383. -/
def fixedBytes (wregs eregs stage depth : Nat) (live done : BitVec 32) (joinlost forkser fpctl : Word) (count seq : Nat) : List Byte :=
  packBytes [(8, wregs), (8, eregs), (2, stage), (2, depth), (12, 0), (32, live.toNat), (32, done.toNat), (32, joinlost.toNat),
    (32, forkser.toNat), (32, fpctl.toNat), (32, count), (32, seq)]

def maskBytes (t : Tab (BitVec 32)) : List Byte := (List.range 8).flatMap (fun i => bytesOfNat 4 (t.get 0 i).toNat)
def sBytes (t : Tab PWord) : List Byte := (List.range 64).flatMap (fun i => bytesOfNat 4 (t.get {} i).val.toNat)

/-- A frame (R445) whose n runnable entries start at `lo`: 2,480 bytes and its pending writes.  A v target is named by its operand code in its lane.  %ow0 to %ow7 are
those of the handler the frame's entry started: no other field of the record carries them. -/
def Frame.bytes (f : Frame) (w : Wave) (ow : Tab Word) (es : List BatchEntry) (lo n depth : Nat) : List Byte :=
  let live := maskOf ((List.range 32).filter (fun l => (f.lanes.get {} l).cond != .idle))
  fixedBytes (w.window / 8) (w.emWindow / 8) w.stage depth live f.doneMask f.joinlost w.forkSerial f.fpctl f.count 0 ++
  maskBytes f.masks ++ maskBytes f.arrived ++ ageBytes lo n ++ sBytes f.sregs ++
  (List.range 32).flatMap (fun l =>
    let x := f.lanes.get {} l
    laneBytes x.pc x.base (laneCond es lo n l x.cond) x.fpstat x.pred (w.lane l).fibid ((w.lane l).gen l)) ++
  (List.range 4).flatMap (fun j => (List.range 32).flatMap (fun l => (((f.lanes.get {} l).latches).get {} j).bytes)) ++
  (List.range 8).flatMap (fun i => bytesOfNat 4 (ow.get 0 i).toNat) ++ packBytes [(32, f.members.toNat), (96, 0)] ++
  f.pending.flatMap (fun p =>
    let sel := match p.target with | .v r => r - (f.lanes.get {} p.lane).base | t => t.selector
    packBytes [(32, sel), (5, p.lane), (27, 0), (32, p.val.val.toNat), (32, 0)])

/-- A token (R231).  The error of a batch that has not completed has no field, and a migration loses it (R248, log 165). -/
def Token.fields (t : Token) : List (Nat × Nat) :=
  [(16, t.nb), (16, t.cb), (8, min 255 t.open_), (8, t.out), (1, t.err.toNat), (7, 0), (8, t.ecause.code)]

/-- A descriptor (R277). -/
def Desc.fields (d : Desc) : List (Nat × Nat) := [(64, d.wbase.toNat), (32, d.rows), (16, d.kg), (16, d.pitch), (4, d.fmt), (124, 0)]

/-- The wake condition of a wave as a whole (R445). -/
def Wave.wakeKind (w : Wave) : Nat :=
  if w.stopped.isSome then 9
  else if w.waits.any (fun (_, p) => match p.why with | .record .. => true | _ => false) then 7
  else if w.waits.any (fun (_, p) => match p.why with | .admitTask => true | _ => false) then 8
  else if w.parked then 10
  else 0

/-- WAVE (R445). -/
def Block.waveBytes (b : Block) (i : Nat) (w : Wave) : List Byte :=
  let es := b.batchTable i w
  let n := (b.ownEntries i w).length
  let fs := w.frames.reverse
  let count (f : Frame) : Nat := (b.frameEntries i w f).length
  let lo (k : Nat) : Nat := n + ((fs.take k).map count).sum
  let regs := w.window + 2 * w.emWindow
  fixedBytes (w.window / 8) (w.emWindow / 8) w.stage w.emdepth w.live w.doneMask w.joinlost w.forkSerial w.fpctl w.wdCount 0 ++
  packBytes ([(8, w.wakeKind), (8, 0), (1, 0), (1, 0), (6, es.length), (104, 0), (128, 0)]) ++
  maskBytes w.masks ++ maskBytes w.arrived ++
  packBytes ((List.range 8).flatMap (fun k => (w.token k).fields)) ++ ageBytes 0 n ++
  packBytes ((List.range 4).map (fun d => (1, (w.descs.get? d).isSome.toNat)) ++ [(124, 0)]) ++
  packBytes ((List.range 4).flatMap (fun d => ((w.descs.get? d).map Desc.fields).getD [(256, 0)])) ++
  packBytes ((List.range 16).map (fun t => (16, w.tagGen.get 0 t))) ++ sBytes w.s ++
  (List.range 32).flatMap (fun l =>
    let x := w.lane l
    laneBytes x.pc x.base (laneCond es 0 n l x.cond) x.fpstat x.pred x.fibid (x.gen l)) ++
  (List.range 4).flatMap (fun j => (List.range 32).flatMap (fun l => (((w.lane l).latches).get {} j).bytes)) ++
  packBytes [(2, fs.length), (62, 0), (32, ((fs[0]?).map (fun (f : Frame) => f.pending.length)).getD 0),
    (32, ((fs[1]?).map (fun (f : Frame) => f.pending.length)).getD 0)] ++
  fs.zipIdx.flatMap (fun ((f, k) : Frame × Nat) => f.bytes w (((fs[k + 1]?).map (fun (g : Frame) => g.ow)).getD w.ow) es (lo k) (count f) k) ++
  (List.range regs).flatMap (fun r => (List.range 32).flatMap (fun l => bytesOfNat 4 (w.vAt r l).val.toNat)) ++
  bitBytes ((List.range regs).flatMap (fun r => (List.range 32).map (fun l => (w.vAt r l).poison))) ++
  es.flatMap BatchEntry.bytes

/-! ### Blocks, commands and tasks (R444, R447, R448) -/

/-- TASKQ of a task or of a continuation on its futures (R448). -/
def Task.bytes (t : Task) (kind count : Nat) (futures : List FutRef) : List Byte :=
  let (dom, ts) := match t.ord with | some o => (o.dom, o.ts.toNat) | none => (0, 0)
  let fut (i : Nat) : Nat := ((futures[i]?).map (fun (r : FutRef) => r.gpa)).getD 0
  packBytes [(4, kind), (2, dom), (1, t.ord.isSome.toNat), (1, t.serialOnly.toNat), (8, t.depth), (16, 0), (32, t.foot.toNat),
    (32, t.aff.isNone.toNat), (64, t.entry.toNat), (64, t.arg.toNat), (64, (t.aff.getD 0).toNat), (32, t.serial.toNat), (64, ts),
    (4, t.abr), (16, t.aborts), (12, 0), (2, count), (30, 0), (64, fut 0), (64, fut 1), (64, 0)]

/-- LREC of a block: its launch record; for a running task, which has none, the model's own form of its TASKQ fields. -/
def State.lrecOf (s : State) (b : Block) : Nat :=
  match b.task with
  | some t => natOfBytes (t.bytes 0 0 []) * 2 ^ 256
  | none => ((s.launchOf b).map (fun x => x.record)).getD 0

/-- BLOCK (R444). -/
def State.blockBytes (s : State) (b : Block) (id : Nat) : List Byte :=
  let us (n : Nat) : Nat := n / usec
  let (var, size) := match b.choice with | none => (8, 0) | some (z, some v) => (v, z.toNat) | some (z, none) => (9, z.toNat)
  let res := b.residency + (if b.core.isSome then s.clock - b.placedAt else 0)
  let tok := match (s.fn b.fn).token with | some (k, _) => k == id | none => false
  let seqs := ((s.fn b.fn).waiting.filter (fun x => b.holds.contains x.record.id)).map (fun x => x.seq.toNat)
  packBytes [(2048, s.lrecOf b), (32, b.ticket.toNat), (32, b.handle), (32, b.x), (32, b.y), (32, b.z),
    (32, b.phase.toNat), (4, var), (28, 0), (32, size), (32, (b.estimate.map (·.1)).getD 0), (1, b.estimate.isSome.toNat), (31, 0),
    (32, (b.estimate.map (fun (_, t) => us (s.clock - t))).getD 0), (32, us res), (1, b.clean.toNat), (1, tok.toNat), (14, 0),
    (16, b.scrBase / 256), (32, seqs.length)] ++ pad16 (seqs.flatMap (fun q => bytesOfNat 4 q))

/-- COPY (R447). -/
def State.copyBytes (s : State) (b : Block) (id : Nat) (c : CopyCmd) : List Byte :=
  let loc (a : CopyAddr) : Bool := match a with | .loc _ => true | .va _ => false
  let val (a : CopyAddr) : Nat := match a with | .loc o => o | .va x => x.toNat
  let (tok, bar, ring, batch) := match c.rep with
    | .token _ k n => (k, 0, 0, n)
    | .bar n => (0, n, 0, 0)
    | .ring q => (0, 0, q, 0)
  let isRing := match c.rep with | .ring _ => true | _ => false
  let isBar := match c.rep with | .bar _ => true | _ => false
  let st := match c.stage with | .waitsRing => 1 | .suspended => 2 | _ => 0
  let sealed := match c.rep with | .token w k n => ((b.waves.get {} w).token k).nb != n | _ => false
  let lap := match c.slot with | some i => ((b.ring ring).slot i).lap | none => false
  let slot := match c.frees, c.slot with
    | some (q, i), _ => (tileHandle i ((b.ring q).slot i).lap false).toNat
    | none, some i => (tileHandle i lap false).toNat
    | none, none => 0
  let rn := match c.frees with | some (q, _) => q | none => ring
  let seq := (((s.fn b.fn).waiting.find? (fun x => b.holds.contains x.record.id && x.record.resume == .copy id)).map (fun x => x.seq.toNat)).getD 0
  let ws := waitSeq (b.ring ring).pushers (.cmd id)
  packBytes ([(8, c.kind), (1, (loc c.dst).toNat), (1, (loc c.src).toNat), (1, isRing.toNat), (1, isBar.toNat), (1, c.frees.isSome.toNat),
    (3, tok), (7, bar), (5, rn), (4, st), (16, batch), (1, sealed.toNat), (15, 0), (32, c.first), (16, c.mask), (16, 0), (32, c.len),
    (32, slot), (32, ws), (5, c.wave), (27, 0), (64, if c.tensor.isSome then 0 else val c.dst), (64, if c.tensor.isSome then 0 else val c.src),
    (32, seq), (32, 0), (64, c.lrec.toNat)] ++
    (List.range 5).map (fun i => (32, (BitVec.ofInt 32 (((c.tensor.map (fun t => t.coords)).getD []).getD i 0)).toNat)) ++
    [(32, if c.tensor.isSome then val c.dst else 0), (512, c.lay), (64, 0)])

/-- TASKQ of a domain (R448). -/
def State.domainBytes (s : State) (fn d : Nat) (x : Domain) : List Byte :=
  packBytes [(4, 2), (2, d), (26, 0), (96, s.front fn d), (96, x.floor.getD 0), (1, x.floor.isNone.toNat), (1, x.open_.toNat), (30, 0),
    (32, s.unf fn d), (352, 0)]

/-! ### The fabric area (R477) -/

/-- A window (R477). -/
def Window.bytes (w : Window) : List Byte :=
  packBytes [(64, w.base.toNat), (32, w.len), (12, w.ctr), (8, w.gen), (1, w.valid.toNat), (11, 0)]

/-- A posted record (R477): THR is the armed threshold. -/
def WorkRec.bytes (r : WorkRec) (l : Nat) : List Byte :=
  let thr := (r.thr.map (·.toNat)).getD (r.field 320 64)
  bytesOfNat 64 (r.record - r.field 320 64 * 2 ^ 320 + thr * 2 ^ 320) ++ packBytes [(6, l), (8, r.slot), (1, r.thr.isSome.toNat), (113, 0)]

/-- The contributions a collective has received whole. -/
def Coll.received (c : Coll) : Nat :=
  ((List.range c.p).filter (fun k => (c.got.get? k).isSome || (c.got2.get? k).isSome)).length

/-- The fabric engine's state of a function (R477). -/
def State.fabricBytes (s : State) (fn : Nat) : List Byte :=
  let f := s.fn fn
  let recs := f.lists.flatMap (fun (l, x) => x.recs.map (fun r => (l, r)))
  packBytes [(32, recs.length), (16, f.colls.length), (80, 0)] ++
  (List.range 4096).flatMap (fun c => bytesOfNat 8 (f.counter c).toNat) ++
  (List.range 1024).flatMap (fun w => (f.window w).bytes) ++
  (List.range 64).flatMap (fun l =>
    let x := f.workList l
    packBytes [(8, match x.recs with | r :: _ => r.slot | [] => x.tail), (8, x.recs.length), (112, 0)] ++
      (List.range 256).map (fun k => BitVec.ofNat 8 (x.gens.get 0 k))) ++
  recs.flatMap (fun (l, r) => r.bytes l) ++
  f.colls.flatMap (fun c => bytesOfNat 64 c.record ++ packBytes [(32, c.sent), (32, c.received), (2, c.phase), (62, 0)])

/-! ### The image (R441 to R443, R449) -/

/-- SLICE of a logical core (R443). -/
def State.sliceBytes (s : State) (p : Nat) : List Byte :=
  let n := s.scratchShare p
  packBytes [(20, n / 1024), (1, (s.specOn p).toNat), (107, 0)] ++ s.bytesAt (sliceAddr p 0) n ++
  bitBytes ((List.range (n / 8)).map (fun i => s.poisoned.contains (sliceAddr p (8 * i))))

/-- The records of a block (R441). -/
def State.blockRecs (s : State) (fn k id : Nat) (b : Block) : List (List Byte) :=
  let lc := (b.core.bind (fun c => s.logCore fn c)).getD 0xFFFF
  let r (type sub : Nat) (body : List Byte) : List Byte := imageRec type lc k sub body
  [r 2 0 (s.blockBytes b id)] ++
  (List.range b.nbar).map (fun i => r 7 i (packBytes [(64, (b.bar i).word), (64, 0)])) ++
  (List.range b.nring).map (fun i => r 8 i ((b.ring i).bytes ++ List.replicate 16 0)) ++
  (match b.stream with
    | some m => [r 3 0 (m.bytes b)] ++ (List.range 32).map (fun x => r 4 x (b.tileBytes x))
    | none => []) ++
  b.waves.map (fun (i, w) => r 1 w.idx (b.waveBytes i w)) ++
  b.copies.map (fun (i, c) => r 5 i (s.copyBytes b i c))

/-- The image of a function (R441), with %clock at the entry to SAVE. -/
def State.imageOf (s : State) (fn : Nat) : List Byte :=
  let f := s.fn fn
  let cores := (List.range (s.coreCount fn)).filterMap (fun n => (s.physCore fn n).map (fun p => (n, p)))
  let bs := s.blocks.filter (fun (_, b) => b.fn == fn && b.core.isSome)
  let fab := s.fabricBytes fn
  let lcore (p : Nat) : Nat := (s.logCore fn p).getD 0xFFFF
  let head := imageRec 0x10 0xFFFF 0xFFFF 0
    (packBytes [(32, cores.length), (16, bs.length), (16, 0), (64, s.clock - f.readyAt + f.clockAdd), (32, fab.length), (224, 0)] ++
      s.windowBytes fn ++ fab)
  let recs := [head] ++ cores.map (fun (n, p) => imageRec 0x11 n 0xFFFF 0 (s.sliceBytes p)) ++
    bs.zipIdx.flatMap (fun ((id, b), k) => s.blockRecs fn k id b) ++
    (s.tasks.filter (fun t => t.fn == fn)).map (fun t => imageRec 6 (lcore t.core) 0xFFFF 0 (t.bytes 0 0 t.took)) ++
    (s.conts.filter (fun c => c.task.fn == fn)).map (fun c =>
      imageRec 6 (lcore (c.stuck.getD (((c.futures.head?).map (·.home)).getD 0))) 0xFFFF 0 (c.task.bytes 1 c.count c.futures)) ++
    f.domains.map (fun (d, x) => imageRec 6 0xFFFF 0xFFFF 0 (s.domainBytes fn d x))
  let body := recs.flatMap (fun r => r)
  body ++ imageRec 0x1F 0xFFFF 0xFFFF 0 (packBytes [(32, recs.length), (32, crc32 body), (64, 0)])

end Sys2Proof.Machine
end

