-- ==== Sys2Proof/Machine/Restore.lean ====
section
/-!
DEFINITION. Sys2Proof/Machine/Restore.lean: reading an image and restoring a function from it (R441 to R450, R477).
-/

namespace Sys2Proof.Machine

open Host

/-! ### Reading records -/

/-- A field of n bits from bit lo of a list of bytes. -/
def bitsOf (bs : List Byte) (lo n : Nat) : Nat :=
  natOfBytes ((bs.drop (lo / 8)).take ((lo % 8 + n + 7) / 8)) / 2 ^ (lo % 8) % 2 ^ n

/-- A record of an image: its bytes, header included, and TYPE, LCORE, BLKI and SUB (R441). -/
structure ImgRec where
  bytes : List Byte
  type : Nat
  lcore : Nat
  blki : Nat
  sub : Nat
  deriving DecidableEq, Repr

/-- A field of a record, by the record's own bit numbers. -/
def ImgRec.f (r : ImgRec) (lo n : Nat) : Nat := bitsOf r.bytes lo n

/-- The TYPEs of R441. -/
def imageTypes : List Nat := [1, 2, 3, 4, 5, 6, 7, 8, 0x10, 0x11, 0x1F]

/-- The records of an image; none where a TYPE, VER or LEN is not one of R441. -/
def imageRecords (fuel : Nat) (bs : List Byte) : Option (List ImgRec) :=
  match fuel, bs with
  | _, [] => some []
  | 0, _ => none
  | k + 1, bs =>
    let len := bitsOf bs 32 32
    let type := bitsOf bs 0 8
    if bs.length < 16 || len < 16 || len % 16 ≠ 0 || decide (bs.length < len) || bitsOf bs 8 8 ≠ 1 || !imageTypes.contains type then none
    else
      (imageRecords k (bs.drop len)).map (fun rs =>
        { bytes := bs.take len, type := type, lcore := bitsOf bs 64 16, blki := bitsOf bs 80 16, sub := bitsOf bs 96 32 } :: rs)

/-- The whole image holds against R441, and END against its count and CRC (R449): its records before END. -/
def readImage (bs : List Byte) : Option (List ImgRec) :=
  match imageRecords (bs.length / 16) bs with
  | none => none
  | some rs =>
    match rs.getLast? with
    | none => none
    | some e =>
      let body := rs.dropLast
      if e.type == 0x1F && (body.head?.map (·.type)) == some 0x10 && (body.drop 1).all (fun r => r.type != 0x10 && r.type != 0x1F) &&
          decide (e.f 128 32 = body.length) && decide (e.f 160 32 = crc32 (bs.take (bs.length - e.bytes.length))) then some body
      else none

/-! ### WIN and FAB (R442, R477) -/

/-- The fabric engine's state of a function from FAB; half times start anew, and the collectives' FN, which the area does not
carry, is `op`. -/
def Fn.loadFabric (f : Fn) (bs : List Byte) (now op : Nat) : Fn :=
  let b (lo n : Nat) : Nat := bitsOf bs lo n
  let nrec := b 0 32
  let ncoll := b 32 16
  let winAt := 8 * (16 + 8 * 4096)
  let listAt := winAt + 128 * 1024
  let recAt := listAt + 2176 * 64
  let collAt := recAt + 640 * nrec
  let win (w : Nat) : Window :=
    let p := winAt + 128 * w
    { base := BitVec.ofNat 64 (b p 64), len := b (p + 64) 32, ctr := b (p + 96) 12, gen := b (p + 108) 8, valid := b (p + 116) 1 == 1
      loAt := some now, hiAt := some now }
  let recs : List (Nat × WorkRec) := (List.range nrec).map (fun i =>
    let p := recAt + 640 * i
    let x := b p 512
    (b (p + 512) 6, { slot := b (p + 518) 8, record := x
                      thr := if b (p + 526) 1 == 1 then some (BitVec.ofNat 64 (recField x 320 64)) else none }))
  let list (l : Nat) : WorkList :=
    let p := listAt + 2176 * l
    let mine := (recs.filter (fun (k, _) => k == l)).map (·.2)
    { tail := match mine.getLast? with | some r => (r.slot + 1) % 256 | none => b p 8
      recs := mine
      gens := (List.range 256).map (fun k => (k, b (p + 128 + 8 * k) 8)) }
  let coll (i : Nat) : Coll :=
    let p := collAt + 640 * i
    let c : Coll := { record := b p 512, sent := b (p + 512) 32, phase := b (p + 576) 2 }
    { c with op := op, got := (List.range (b (p + 544) 32)).map (fun k => (k, 2 ^ 32)) }
  { f with
    counters := (List.range 4096).map (fun c => (c, BitVec.ofNat 64 (b (128 + 64 * c) 64)))
    windows := (List.range 1024).map (fun w => (w, win w))
    lists := (List.range 64).map (fun l => (l, list l))
    colls := (List.range ncoll).map coll }

/-- The member list of a restored collective is read again (R466). -/
def State.reloadPeers (s : State) (fn : Nat) : State :=
  (s.fn fn).colls.foldl (fun s c =>
    match s.fnRead fn (recField c.record 64 64) (2 * c.p) with
    | (some (bs, _), s1) =>
      s1.onColl fn c.cid (fun c => { c with peers := (List.range c.p).map (fun i => natOfBytes ((bs.drop (2 * i)).take 2) % 32768) })
    | (none, s1) => s1.collFail fn c.cid 5) s

/-- IMAGE: the window, the fabric area and the clock (R442, R450); the cores' spawn counters start afresh (R293, R309). -/
def State.loadImageRec (s : State) (fn : Nat) (r : ImgRec) : State :=
  let g (off : Nat) : DWord := BitVec.ofNat 64 (r.f (512 + 8 * off) 64)
  let f1 := (s.fn fn).loadWindow g
  let (op, s0) := s.drawPick 5
  let (d, s1) := s0.drawPick (2 ^ 40)
  let f2 := f1.loadFabric ((r.bytes.drop (64 + 4608)).take (r.f 256 32)) s.clock op
  (s1.becomeReady fn).setFn fn { f2 with readyAt := s.clock, clockAdd := r.f 192 64 + d }

/-! ### SLICE (R443) -/

/-- Load a logical core's scratch share. -/
def State.loadSlice (s : State) (fn : Nat) (r : ImgRec) : State :=
  match s.physCore fn r.lcore with
  | none => s
  | some p =>
    let n := min (r.f 128 20 * 1024) (s.scratchShare p)
    let a := sliceAddr p 0
    let s1 := s.putHome none a ((r.bytes.drop 32).take n) false
    let bad := (List.range (n / 8)).filter (fun i => r.f (256 + 8 * (r.f 128 20 * 1024) + i) 1 == 1)
    { s1 with poisoned := bad.foldl (fun q i => setInsert q (a + 8 * i)) s1.poisoned }

/-! ### Barriers, rings, the stream and tiles (R446, R449) -/

/-- A cause by its code (R349). -/
def causeOf (n : Nat) : Cause :=
  ([.illegalLength, .illegalPlacement, .latchLost, .accessFault, .pageFault, .align, .fmtMismatch, .barOverflow, .barUnderflow, .ringMisuse,
    .doubleResolve, .spawnDepth, .tstampOrder, .emulNest, .remoteFail, .poison, .ringBadBase, .watchdog, .trapUser, .capacity, .cycle,
    .nospec, .fault, .migrate] : List Cause).find? (fun c => c.code == n) |>.getD .none

/-- BAR. -/
def ImgRec.bar (r : ImgRec) : Bar :=
  let b (lo n : Nat) : Nat := r.f (128 + lo) n
  { bytes := b 0 32, exp := b 32 6, arr := b 38 6, phase := b 44 1 == 1, psn := b 45 1 == 1, v := b 46 1 == 1, ecause := causeOf (b 48 8) }

/-- RING. -/
def ImgRec.ring (r : ImgRec) : Ring :=
  let b (lo n : Nat) : Nat := r.f (128 + lo) n
  let slot (i : Nat) : Slot := { st := r.f (256 + 4 * i) 2, lap := r.f (258 + 4 * i) 1 == 1, err := r.f (259 + 4 * i) 1 == 1 }
  { base := b 0 24, lsz := b 24 5, ns := b 32 8, head := b 40 8, tail := b 48 8, hlap := b 56 1 == 1, tlap := b 57 1 == 1
    be := b 58 1 == 1, v := b 59 1 == 1, bb := b 64 7, slots := (List.range 256).map (fun i => (i, slot i)) }

/-- The instruction at a VA of a function, for the waits of a restored wave; none where it cannot be read. -/
def State.instrAt (s : State) (fn : Nat) (pc : DWord) : Option (Instr × Enc) :=
  match (s1Translate s fn pc.toNat []).1 with
  | .error _ => none
  | .ok l1 =>
    match s2Translate s fn (s1Out l1 pc.toNat) false with
    | .error _ => none
    | .ok l2 =>
      match decode (s.bytesAt (leafOut l2 (s1Out l1 pc.toNat)) 16) with
      | .instr i => i.form.map (fun (_, e) => (i, e))
      | _ => none

/-- MSEQ: the stream.  ERR of a slot that it holds is the slot's own, in its ring (R258, R449). -/
def State.streamOf (s : State) (fn : Nat) (rings : Tab Ring) (r : ImgRec) : Stream :=
  let pc := BitVec.ofNat 64 (r.f 128 64)
  let held (i : Nat) : Option (Nat × HeldSlot) :=
    let x := r.f (384 + 16 * i) 16
    let slot := x / 2 % 256
    if x % 2 = 0 then none
    else some (i, { slot := slot, lap := x / 512 % 2 == 1, producing := x / 1024 % 2 == 1, err := ((rings.get {} i).slot slot).err })
  { pc := pc
    n := (List.range 4).map (fun i => (i, BitVec.ofNat 32 (r.f (192 + 32 * i) 32)))
    mwb := BitVec.ofNat 64 (r.f 320 64)
    held := (List.range 32).filterMap held
    mstat := BitVec.ofNat 32 (r.f 896 32)
    tilePoison := BitVec.ofNat 32 (r.f 928 32)
    wait := match r.f 960 8 with
      | 1 => some (.bar (r.f 968 8) (r.f 976 1 == 1) (match s.instrAt fn pc with | some (i, _) => rawOf i | none => {}))
      | 2 => some (.ring (r.f 968 8) false)
      | 3 => some (.ring (r.f 968 8) true)
      | _ => none }

/-- ACC: a tile's words and its poisoned units. -/
def Block.loadTile (b : Block) (r : ImgRec) : Block :=
  { b with
    tiles := b.tiles.set r.sub ((List.range 2048).map (fun i => BitVec.ofNat 32 (r.f (128 + 32 * i) 32)))
    tileBad := ((List.range 1024).filter (fun u => r.f (65664 + u) 1 == 1)).foldl (fun l u => setInsert l (1024 * r.sub + u)) b.tileBad }

/-! ### Waves (R445) -/

/-- LEN of an operand word %ow0 (R358). -/
def owLen (ow0 : Word) : Len := match ow0.toNat / 2 ^ 16 % 4 with | 0 => .l64 | 1 => .l96 | _ => .l128

/-- A batch-table entry from its place in the record. -/
def ImgRec.entry (r : ImgRec) (at_ : Nat) : BatchEntry :=
  let b (lo n : Nat) : Nat := r.f (8 * at_ + lo) n
  { members := BitVec.ofNat 32 (b 0 32), blocked := b 32 1 == 1, wkind := b 40 8, wobj := b 48 8, wpar := b 56 1 == 1, wst := b 57 1 == 1
    nbs := (List.range 8).map (fun k => (k, b (64 + 16 * k) 16)), seq := b 192 32 }

/-- The condition of a lane as LANE holds it; `outer` says that it is live in a frame. -/
def condOf (k mask bt : Nat) (outer : Bool) : Cond :=
  match k with
  | 0 => .runnable
  | 1 => .blocked bt
  | 2 => .joined mask
  | _ => if outer then .stacked else .idle

/-- The lanes and latches of a context: the bits at which LANE and LAT start. -/
def ImgRec.lane (r : ImgRec) (laneAt latAt l : Nat) (outer : Bool) : Lane :=
  let p := laneAt + 256 * l
  let latch (j : Nat) : LatchLane :=
    let q := latAt + 2048 * j + 64 * l
    { val := ⟨BitVec.ofNat 32 (r.f q 32), false⟩, tag := BitVec.ofNat 8 (r.f (q + 32) 8), nwb := r.f (q + 40) 1 == 1, valid := r.f (q + 41) 1 == 1 }
  { cond := condOf (r.f (p + 72) 2) (r.f (p + 74) 3) (r.f (p + 82) 5) outer
    pc := BitVec.ofNat 64 (r.f p 64)
    base := r.f (p + 64) 8
    fpstat := BitVec.ofNat 32 (r.f (p + 77) 5)
    pred := BitVec.ofNat 32 (r.f (p + 96) 32)
    fibid := BitVec.ofNat 32 (r.f (p + 128) 32)
    sr := some (BitVec.ofNat 32 (r.f (p + 160) 32))
    latches := (List.range 4).map (fun j => (j, latch j)) }

/-- The masks at a bit, the s registers at a bit, and the batches that AGE at a bit lists. -/
def ImgRec.maskTab (r : ImgRec) (at_ : Nat) : Tab (BitVec 32) := (List.range 8).map (fun i => (i, BitVec.ofNat 32 (r.f (at_ + 32 * i) 32)))
def ImgRec.sTab (r : ImgRec) (at_ : Nat) : Tab PWord := (List.range 64).map (fun i => (i, ⟨BitVec.ofNat 32 (r.f (at_ + 32 * i) 32), false⟩))
def ImgRec.aged (r : ImgRec) (at_ : Nat) (es : List BatchEntry) : List Batch :=
  (List.range 32).filterMap (fun j => (es[r.f (at_ + 8 * j) 8]?).map (fun e => ⟨e.members⟩))

/-- A target by its selector (R359); a v register of a lane counts from the lane's window base. -/
def targetOf (sel base : Nat) : EmTarget :=
  if sel < 192 then .v (base + sel)
  else if sel < 256 then .s (sel - 192)
  else if sel < 512 then .latchVal (sel - 256)
  else if sel < 768 then .latchMeta (sel - 512)
  else match sel with
    | 768 => .pred
    | 1024 => .fpstat
    | 1025 => .fpctl
    | 1026 => .pcLo
    | _ => .pcHi

/-- A frame from its first byte, with the %ow of the handler above it in `ow`: the record's bits 128 to 383, M and A, AGE, S, LANE and LAT, %ow, the members, the writes. -/
def ImgRec.frame (r : ImgRec) (at_ np : Nat) (es : List BatchEntry) (outer : Nat → Bool) : Frame :=
  let p := 8 * at_
  let lane (l : Nat) : Lane := r.lane (p + 3072) (p + 11264) l (outer l)
  let wr (k : Nat) : EmWrite :=
    let q := p + 8 * 2480 + 128 * k
    let l := r.f (q + 32) 5
    { target := targetOf (r.f q 32) (lane l).base, lane := l, val := ⟨BitVec.ofNat 32 (r.f (q + 64) 32), false⟩ }
  let ow : Tab Word := (List.range 8).map (fun i => (i, BitVec.ofNat 32 (r.f (p + 19456 + 32 * i) 32)))
  let ow0 := ow.get 0 0
  let mem := BitVec.ofNat 32 (r.f (p + 19712) 32)
  { lanes := (List.range 32).map (fun l => (l, (lane l).toFrame))
    batches := r.aged (p + 768) es
    sregs := r.sTab (p + 1024)
    masks := r.maskTab (p + 256)
    arrived := r.maskTab (p + 512)
    fpctl := BitVec.ofNat 32 (r.f (p + 160) 32)
    joinlost := BitVec.ofNat 32 (r.f (p + 96) 32)
    ow := ow
    members := mem
    nextPc := seqPc (lane (lowLane mem)).pc (owLen ow0)
    stream := ow0.getLsbD 27
    pending := (List.range np).map wr
    count := r.f (p + 192) 32
    doneMask := BitVec.ofNat 32 (r.f (p + 64) 32) }

/-- Why a blocked group waits (R445): none where its instruction issues again. -/
def BatchEntry.why (e : BatchEntry) : Option Why :=
  match e.wkind with
  | 1 => some (.waitb e.wobj e.wpar)
  | 2 => some (.ringEnd e.wobj false)
  | 3 => some (.ringEnd e.wobj true)
  | 4 => some (.waitk e.wobj e.nbs)
  | 11 => some (.ringRoom e.wobj)
  | _ => none

/-- A wave from its record, as a wave of its gang. -/
def State.waveOf (s : State) (fn : Nat) (g : GangWave) (r : ImgRec) : Wave :=
  let nbt := r.f 402 6
  let nfr := r.f 21760 2
  let np (k : Nat) : Nat := if k < nfr then r.f (21824 + 32 * k) 32 else 0
  let fsize (k : Nat) : Nat := if k < nfr then 2480 + 16 * np k else 0
  let vAt := 2736 + fsize 0 + fsize 1
  let regs := 8 * (r.f 128 8 + 2 * r.f 136 8)
  let psnAt := vAt + 128 * regs
  let btAt := psnAt + (4 * regs + 15) / 16 * 16
  let es := (List.range nbt).map (fun k => r.entry (btAt + 32 * k))
  let live (at_ l : Nat) : Bool := r.f (at_ + 256 * l + 72) 2 != 3
  let f1 := if 1 ≤ nfr then [r.frame 2736 (np 0) es (fun _ => false)] else []
  let l1 (l : Nat) : Bool := decide (1 ≤ nfr) && live (8 * 2736 + 3072) l
  let f2 := if 2 ≤ nfr then [r.frame (2736 + fsize 0) (np 1) es l1] else []
  let l2 (l : Nat) : Bool := l1 l || (decide (2 ≤ nfr) && live (8 * (2736 + fsize 0) + 3072) l)
  let lanes : Tab Lane := (List.range 32).map (fun l => (l, r.lane 5376 13568 l (l2 l)))
  let pcOf (m : BitVec 32) : DWord :=
    let l := lowLane m
    let here := lanes.get {} l
    if here.cond != .stacked then here.pc
    else match (f2 ++ f1).find? (fun (f : Frame) => match (f.lanes.get {} l).cond with | .stacked => false | _ => true) with
      | some f => (f.lanes.get {} l).pc
      | none => here.pc
  let waits : Tab Park := es.zipIdx.filterMap (fun ((e, k) : BatchEntry × Nat) =>
    if !e.blocked then none
    else match e.why, s.instrAt fn (pcOf e.members) with
      | some y, some (_, enc) =>
        some (k, { lanes := e.members, why := y, enc := enc, acting := e.members, nextPc := seqPc (pcOf e.members) enc.len, since := s.clock })
      | _, _ => none)
  let desc (d : Nat) : Option (Nat × Desc) :=
    let p := 2048 + 256 * d
    if r.f (1920 + d) 1 = 0 then none
    else some (d, { wbase := BitVec.ofNat 64 (r.f p 64), rows := r.f (p + 64) 32, kg := r.f (p + 96) 16, pitch := r.f (p + 112) 16, fmt := r.f (p + 128) 4 })
  let token (k : Nat) : Token :=
    let p := 1152 + 64 * k
    { nb := r.f p 16, cb := r.f (p + 16) 16, open_ := r.f (p + 32) 8, out := r.f (p + 40) 8, err := r.f (p + 48) 1 == 1, ecause := causeOf (r.f (p + 56) 8) }
  let reg (i : Nat) : Nat × PWord := (i, ⟨BitVec.ofNat 32 (r.f (8 * vAt + 32 * i) 32), r.f (8 * psnAt + i) 1 == 1⟩)
  let ended := r.f 160 32 == 0
  let w : Wave :=
    { idx := r.sub
      role := g.role, roleNo := g.roleNo, tstamp := g.tstamp, elastic := g.elastic
      stage := r.f 144 2
      window := 8 * r.f 128 8
      emWindow := 8 * r.f 136 8
      emdepth := r.f 146 2
      lanes := lanes
      v := (List.range (32 * regs)).map reg
      s := r.sTab 3328
      masks := r.maskTab 640
      arrived := r.maskTab 896
      forkSerial := BitVec.ofNat 32 (r.f 256 32)
      joinlost := BitVec.ofNat 32 (r.f 224 32)
      fpctl := BitVec.ofNat 32 (r.f 288 32)
      batches := r.aged 1664 es
      ow := match f2 ++ f1 with | f :: _ => f.ow | [] => []
      frames := f2.map (fun f => { f with ow := match f1 with | g :: _ => g.ow | [] => [] }) ++ f1.map (fun (f : Frame) => { f with ow := [] })
      wdCount := r.f 320 32
      waits := waits
      nextWait := nbt
      doneMask := BitVec.ofNat 32 (r.f 192 32)
      parked := r.f 384 8 == 10
      ended := ended
      tokens := (List.range 8).map (fun k => (k, token k))
      descs := (List.range 4).filterMap desc
      tagGen := (List.range 16).map (fun t => (t, r.f (3072 + 16 * t) 12)) }
  -- groups without a wait of their own issue their instruction again
  es.zipIdx.foldl (fun (w : Wave) ((e, k) : BatchEntry × Nat) =>
    if e.blocked && (w.waits.get? k).isNone then
      ({ w with waits := w.waits.set k { lanes := e.members, why := .promote, enc := {}, acting := e.members, nextPc := 0 } } : Wave).wakeAt k true
    else w) w

/-- A handler that serves the stream (R363): the stream waits for it, and goes on after its own instruction. -/
def Block.rejoinStream (b : Block) : Block :=
  match b.stream, b.waves.find? (fun ((_, w) : Nat × Wave) => w.frames.any (fun f => f.stream)) with
  | some m, some (k, w) =>
    let ow := match (w.frames.zip (w.ow :: w.frames.map (fun (f : Frame) => f.ow))).find? (fun (f, _) => f.stream) with | some (_, o) => o | none => w.ow
    let ow0 := ow.get 0 0
    let next := seqPc m.pc (owLen ow0)
    let em : StreamEmul :=
      { opc := BitVec.ofNat 8 ow0.toNat, enc := {}, raw := {}, disabled := ow0.getLsbD 28, nextPc := next, running := some k }
    { b with
      stream := some { m with emul := some em }
      waves := b.waves.set k { w with frames := w.frames.map (fun f => if f.stream then { f with nextPc := next } else f) } }
  | _, _ => b

/-! ### Trap records (R350, R444) -/

/-- A record with the first word of an instruction at a PC is one of steps 1 to 4 of R58: an undefined length, a place of the instruction
itself that is refused, or a fetch that gave no word. -/
def fetchBack (cause : Cause) (pc : DWord) (w0 : Nat) : Bool :=
  let off := pc.toNat % 32
  match cause with
  | .illegalLength => true
  | .illegalPlacement => off == 28 || (match lenOf (w0 % 4) with | some l => decide (32 < off + l.bytes) | none => true)
  | .pageFault | .accessFault | .poison => w0 == 0
  | _ => false

/-- What a record that waits for an answer says, read back from its slot of the trap ring; `at_` finds the instruction. -/
def State.recordBack (s : State) (fn blk : Nat) (seq : Nat) : Option (TrapRec × Nat) :=
  let f := s.fn fn
  let gpa := ringBase f.trbase + 64 * (seq % ringSize f.trctl)
  match s2Host s fn gpa .read with
  | .error _ => none
  | .ok h =>
    let bs := s.bytesAt h 64
    let b (lo n : Nat) : Nat := bitsOf bs lo n
    let kind := b 10 3
    let cause := causeOf (b 0 8)
    let pc := BitVec.ofNat 64 (b 64 64)
    let enc : Option Enc := match decode (bytesOfNat 16 (b 192 128)) with | .instr i => i.form.map (·.2) | _ => none
    let len : Len := match enc with | some e => e.len | none => (lenOf (b 192 2)).getD .l64
    let resume : Resume :=
      if kind = 5 then .hostcall ((enc.map (fun e => e.dst.toNat - 192)).getD 0)
      else if cause == .trapUser then .trapUser
      else if fetchBack cause pc (b 192 64) then .fetch
      else if cause == .barOverflow then .inPlace
      else .reissue
    some ({ id := s.serial, fn := fn, cause := cause, ans := b 8 1 == 1, def_ := b 9 1 == 1, kind := kind, depth := b 13 2, lane := b 16 5, pc := pc
            fva := BitVec.ofNat 64 (b 128 64), iw0 := BitVec.ofNat 64 (b 192 64), iw1 := BitVec.ofNat 32 (b 256 32), iw2 := BitVec.ofNat 32 (b 288 32)
            blk := b 320 32, wave := b 352 5, obj := BitVec.ofNat 8 (b 360 8), aux := BitVec.ofNat 64 (b 384 64), fmask := BitVec.ofNat 32 (b 448 32)
            aux2 := BitVec.ofNat 32 (b 480 32), resume := resume, nextPc := seqPc pc len, blkId := blk }, h)

/-- The syndrome array names stage 2 for a SEQ (R407, R408). -/
def State.stage2Back (s : State) (fn seq : Nat) : Bool :=
  let f := s.fn fn
  let gpa := f.tfbase.toNat % 2 ^ 56 / 4096 * 4096 + 32 * (seq % ringSize f.trctl)
  match s2Host s fn gpa .read with
  | .error _ => false
  | .ok h => f.tfbase.getLsbD 0 && decide (s.natAt h 4 = seq) && decide (s.natAt (h + 4) 1 % 4 = 2)

/-- A restored block is held again by a record that waits for an answer: the wave, the stream or the command it names. -/
def State.holdOn (s : State) (fn blk seq : Nat) (cmd : Option Nat) : State :=
  match s.recordBack fn blk seq with
  | none => s
  | some (r0, h) =>
    let b := s.block blk
    let w := b.waves.get {} r0.wave
    let ms := match w.batches.find? (fun x => (w.lane (lowLane x.mask)).pc == r0.pc && (r0.fmask == 0 || r0.fmask &&& x.mask != 0)) with
      | some x => x.mask
      | none => 0
    -- nothing stands at the instruction that the record names: it had completed (R355)
    let past := match r0.kind with
      | 1 => (match b.stream with | some m => m.pc != r0.pc | none => false)
      | _ => ms == 0
    let r := match cmd with
      | some id => { r0 with resume := .copy id }
      | none => { r0 with members := ms, resume := if past && r0.resume == .reissue then .inPlace else r0.resume }
    let s1 := { s with serial := s.serial + 1 }
    let f := s1.fn fn
    let s2 := s1.setFn fn { f with waiting := f.waiting ++ [{ seq := BitVec.ofNat 32 seq, addr := h, record := r, stage2 := s.stage2Back fn seq }] }
    s2.setBlock blk
      (match cmd, r.kind with
        | some _, _ => { b with holds := b.holds ++ [r.id] }
        | none, 1 => { b with holds := b.holds ++ [r.id], saving := true, stream := b.stream.map (fun m => { m with stopped := some r }) }
        | none, _ =>
          { b with holds := b.holds ++ [r.id], saving := true, waves := b.waves.set r.wave { w with stopped := some r } })

/-! ### Commands (R447) -/

/-- COPY: the command. -/
def Block.copyOf (b : Block) (r : ImgRec) : CopyCmd :=
  let m (i : Nat) : Bool := r.f (136 + i) 1 == 1
  let w := b.waves.get {} (r.f 352 5)
  let slot := r.f 288 32 % 256
  let addr (loc : Bool) (v : Nat) : CopyAddr := if loc then .loc v else .va (BitVec.ofNat 64 v)
  let kind := r.f 128 8
  let isT := kind == 1 || kind == 2
  let coords := (List.range 5).map (fun i => (BitVec.ofNat 32 (r.f (640 + 32 * i) 32)).toInt)
  let scr := CopyAddr.loc (r.f 800 32)
  let first := r.f 192 32
  { wave := r.f 352 5
    role := w.roleNo
    src := if isT && kind == 2 then scr else addr (m 1) (r.f 448 64)
    dst := if isT && kind == 1 then scr else addr (m 0) (r.f 384 64)
    len := r.f 256 32
    tensor := if isT then some (layoutOf (r.f 832 512) coords (kind == 2)) else none
    rep := if m 2 then .ring (r.f 151 5) else if m 3 then .bar (r.f 144 7) else .token (r.f 352 5) (r.f 141 3) (r.f 160 16)
    slot := if m 2 then some slot else none
    kind := kind
    lrec := BitVec.ofNat 64 (r.f 576 64)
    lay := r.f 832 512
    frees := if m 4 then some (r.f 151 5, slot) else none
    stage := match r.f 156 4 with | 1 => .waitsRing | 2 => .suspended | _ => .waitsEntry
    counted := List.range first ++ ((List.range 16).filter (fun i => r.f (224 + i) 1 == 1)).map (fun i => first + 1 + i) }

/-- Waiters of one ring end in their start order. -/
def inOrder (l : List (Nat × RingWaiter)) : List RingWaiter :=
  (l.foldl (fun (acc : List (Nat × RingWaiter)) x =>
    acc.filter (fun y => decide (y.1 ≤ x.1)) ++ [x] ++ acc.filter (fun y => decide (x.1 < y.1))) []).map (·.2)

/-- The waiters of a block's rings, with their start orders, as its records name them. -/
def ringWaiters (ws cs : List ImgRec) (ms : Option ImgRec) (b : Block) (c : Nat) (push : Bool) : List RingWaiter :=
  let waves := ws.flatMap (fun r =>
    ((b.waves.get {} r.sub).waits.filterMap (fun ((n, p) : Nat × Park) =>
      if p.why == .ringEnd c push then
        let nfr := r.f 21760 2
        let np (k : Nat) : Nat := if k < nfr then 2480 + 16 * r.f (21824 + 32 * k) 32 else 0
        let regs := 8 * (r.f 128 8 + 2 * r.f 136 8)
        let at_ := 2736 + np 0 + np 1 + 128 * regs + (4 * regs + 15) / 16 * 16
        some ((r.entry (at_ + 32 * n)).seq, RingWaiter.wave r.sub n)
      else none)))
  let cmds := if push then cs.filterMap (fun r => if r.f 156 4 = 1 && r.f 151 5 = c then some (r.f 320 32, RingWaiter.cmd r.sub) else none) else []
  let str := match ms with
    | some r => if r.f 960 8 = (if push then 3 else 2) && r.f 968 8 = c then [(r.f 992 32, RingWaiter.stream)] else []
    | none => []
  inOrder (waves ++ cmds ++ str)

/-! ### Tasks (R448) -/

/-- A task from the fields of its TASKQ record, which start at a bit. -/
def taskOf (f : Nat → Nat → Nat) (id fn core now : Nat) : Task :=
  { id := id, fn := fn, foot := BitVec.ofNat 32 (f 32 32)
    entry := BitVec.ofNat 64 (f 96 64)
    arg := BitVec.ofNat 64 (f 160 64)
    aff := if f 64 1 = 1 then none else some (BitVec.ofNat 64 (f 224 64))
    serial := BitVec.ofNat 32 (f 288 32)
    depth := f 8 8
    ord := if f 6 1 = 1 then some { dom := f 4 2, ts := BitVec.ofNat 64 (f 320 64) } else none
    serialOnly := f 7 1 == 1
    abr := f 384 4
    aborts := f 388 16
    core := core
    queuedAt := now }

/-- The records of a TASKQ's two futures. -/
def State.futuresOf (s : State) (fn core : Nat) (f : Nat → Nat → Nat) : List FutRef :=
  ([f 448 64, f 512 64].filter (fun g => g != 0)).filterMap (fun g =>
    match s2Host s fn g .read with
    | .ok h =>
      let home := match rangeOf g with
        | .hbm => s.physCore fn (homeOf (s.coreCount fn) g)
        | .slice n _ => s.physCore fn n
        | _ => none
      some { gpa := g, addr := h, home := home.getD core }
    | .error _ => none)

/-- A core's spawn counter lies above a restored serial of the core (R448). -/
def State.aboveSerial (s : State) (fn : Nat) (serial : Nat) : State :=
  match s.physCore fn (serial % 256) with
  | none => s
  | some p =>
    let c := s.core p
    s.setCore p { c with spawnCount := c.spawnCount.set fn (max (c.spawnCount.get 0 fn) (serial / 256 + 1) % 2 ^ 24) }

/-- TASKQ: a queued task, a parked continuation or a domain.  A continuation whose join count is 0 has been released and waits for room
(R294). -/
def State.loadTask (s : State) (fn : Nat) (r : ImgRec) : State :=
  let f (lo n : Nat) : Nat := r.f (128 + lo) n
  if f 0 4 = 2 then
    let d : Domain := { open_ := r.f 353 1 == 1, floor := if r.f 352 1 = 1 then none else some (r.f 256 96), pubFront := r.f 160 96 }
    s.setFn fn { s.fn fn with domains := (s.fn fn).domains.set (f 4 2) d }
  else
    let core := (s.physCore fn r.lcore).getD 0
    let (id, s1) := s.drawSerial
    let t := taskOf f id fn core s.clock
    let fs := s1.futuresOf fn core f
    let s2 := s1.aboveSerial fn t.serial.toNat
    if f 0 4 = 0 then
      let t1 := if fs.isEmpty then t else { s2.contTask { task := t, count := 0, futures := fs, waits := [] } with core := core }
      { s2 with tasks := s2.tasks ++ [{ t1 with overflow := decide (512 ≤ s2.queueUsed core) }] }
    else if f 416 2 = 0 then s2.releaseCont { task := t, count := 0, futures := fs, waits := [] } core
    else
      let open_ := fs.eraseDups.filter (fun r => (s2.future r.addr).st == 0)
      let waits := open_.foldl (fun (ps : List ParkRec) r =>
        let (c, ov) := (s2.queuePlace fn r.home ps).getD (r.home, true)
        ps ++ [{ gpa := r.gpa, core := c, overflow := ov }]) []
      { s2 with conts := s2.conts ++ [{ task := t, count := f 416 2, futures := fs, waits := waits }] }

/-! ### Blocks (R444, R450) -/

/-- The launch a restored block belongs to stands in the table, with every block of it placed. -/
def State.haveLaunch (s : State) (fn : Nat) (t : Word) (x : Nat) : State :=
  if s.launches.any (fun l => l.is fn t) then s
  else
    let l : Launch := { fn := fn, ticket := t, record := x, checked := true }
    { s with launches := s.launches ++ [{ l with next := l.blocks }] }

/-- Restore a block from its BLOCK record and the records that follow it. -/
def State.loadBlock (s : State) (fn : Nat) (r : ImgRec) (rest : List ImgRec) : State :=
  let of (ty : Nat) : List ImgRec := rest.filter (fun x => x.type == ty && x.blki == r.blki)
  let lrec := r.f 128 2048
  let ticket := BitVec.ofNat 32 (r.f 2176 32)
  let isTask := lrec % 2 ^ 256 == 0
  let core := s.physCore fn r.lcore
  let (id, s1) := (if isTask then s else s.haveLaunch fn ticket lrec).drawSerial
  let (tid, s1b) := s1.drawSerial
  let t := taskOf (fun lo n => recField lrec (256 + lo) n) tid fn (core.getD 0) s.clock
  -- the serial of a running task is live (R293, R309)
  let s2 := if isTask then s1b.aboveSerial fn t.serial.toNat else s1b
  let l : Launch := { fn := fn, ticket := ticket, record := lrec, checked := true }
  let (x, y, z) := (r.f 2240 32, r.f 2272 32, r.f 2304 32)
  let b0 : Block := if isTask then { fn := fn, ticket := ticket, scratch := t.scratch, task := some t } else l.block (x + l.gx * (y + l.gy * z))
  let gang := if isTask then [t.wave] else l.gang
  let var := r.f 2368 4
  let b1 : Block :=
    { b0 with
      core := core, handle := r.f 2208 32, x := x, y := y, z := z
      bars := (of 7).map (fun q => (q.sub, q.bar))
      rings := (of 8).map (fun q => (q.sub, q.ring))
      nring := (of 8).length
      stream := ((of 3).head?).map (fun q => s2.streamOf fn ((of 8).map (fun x => (x.sub, x.ring))) q)
      waves := (of 1).foldl (fun (ws : Tab Wave) (q : ImgRec) => ws.set q.sub (s2.waveOf fn (gang.getD q.sub {}) q)) []
      phase := BitVec.ofNat 32 (r.f 2336 32)
      choice := if var = 8 then none else some (BitVec.ofNat 32 (r.f 2400 32), if var = 9 then none else some var)
      estimate := if r.f 2464 1 = 1 then some (r.f 2432 32, s.clock - usec * r.f 2496 32) else none
      residency := usec * r.f 2528 32
      placedAt := s.clock, codeFrom := s.clock
      clean := r.f 2560 1 == 1
      scrBase := 256 * r.f 2576 16 }
  let b2 := ((of 4).foldl (fun b q => b.loadTile q) b1).rejoinStream
  let b3 := { b2 with copies := (of 5).foldl (fun (cs : Tab CopyCmd) (q : ImgRec) => cs.set q.sub (b2.copyOf q)) [] }
  let b4 := { b3 with rings := b3.rings.map (fun ((c, q) : Nat × Ring) =>
    (c, { q with pushers := ringWaiters (of 1) (of 5) (of 3).head? b3 c true, poppers := ringWaiters (of 1) (of 5) (of 3).head? b3 c false })) }
  -- an ordered task that runs on is the promoted one; a parked one waits to be admitted; ABR and ABORTS are the record's (R344), and the
  -- levels of regions that it has open, which no record carries, are a free value (log 158)
  let (lv, s2n) := s2.drawPick 16
  let b5 := if isTask && t.ord.isSome then
      { b4 with waves := b4.waves.map (fun ((k, w0) : Nat × Wave) =>
        let w : Wave := { w0 with spec := { w0.spec with abr := t.abr, aborts := t.aborts } }
        if (of 1).any (fun q => q.sub == k && q.f 384 8 == 8) then
          let p : Park := { lanes := w.live, why := .admitTask, enc := {}, acting := w.live, nextPc := t.entry, since := s.clock }
          (k, { w.park p with batches := [] })
        else (k, { w with spec := { w.spec with promoted := true, nest := lv } })) }
    else b4
  let s3 := { s2n.setBlock id b5 with serial := max s2n.serial (((of 5).map (fun (q : ImgRec) => q.sub + 1)).foldl max 0) }
  let s4 := if r.f 2561 1 = 1 then
      let w := (b5.waveIds).headD 0
      let (k, s3n) := s3.drawPick 15
      let s4 := s3n.setWave id w { s3n.wave id w with spec := { (s3n.wave id w).spec with serial := true, nest := k + 1 } }
      s4.setFn fn { s4.fn fn with token := some (id, w) }
    else s3
  -- a suspended command's record names it; the other records hold a wave or the stream
  let cseq (q : Nat) : Option Nat := ((of 5).find? (fun c => c.f 156 4 == 2 && c.f 512 32 == q)).map (·.sub)
  let seqs := (List.range (r.f 2592 32)).map (fun i => r.f (2624 + 32 * i) 32)
  let s5 := seqs.foldl (fun s q => s.holdOn fn id q (cseq q)) s4
  if core.isNone then (s5.setBlock id { s5.block id with saving := false }).settleSaved id else s5

/-- Waves that only wait give their window up where a core holds too many (R383). -/
def State.fitCore (s : State) (core : Nat) : State :=
  (s.onCore core).foldl (fun s (k, b) => b.waves.foldl (fun s (i, w) =>
    if !(s.taken core).within && w.waitsSince.isSome then s.setWave k i { w with evicted := true } else s) s) s

/-- Restore a function from the records of an image, in the order of R450. -/
def State.restoreImage (s : State) (fn : Nat) (rs : List ImgRec) : State :=
  let of (ty : Nat) : List ImgRec := rs.filter (fun r => r.type == ty)
  let s1 := (of 0x10).foldl (fun s r => s.loadImageRec fn r) s
  let s2 := (of 0x11).foldl (fun s r => s.loadSlice fn r) s1
  let s3 := s2.reloadPeers fn
  let s4 := (of 2).foldl (fun s r => s.loadBlock fn r rs) s3
  let s5 := (of 6).foldl (fun s r => s.loadTask fn r) s4
  (s5.coresOf fn).foldl (fun s c => s.fitCore c) s5

end Sys2Proof.Machine
end

