-- ==== Sys2Proof/Machine/Migrate.lean ====
section
/-!
DEFINITION. Sys2Proof/Machine/Migrate.lean: Foehn and Lull (R429 to R453): sessions, rounds, the cut, saving, shipping, rebinding and
forwarding; the end of a session (R503) and what the eviction handshake does then (R511, R512).
-/

namespace Sys2Proof.Machine

open Host

/-! ### Sessions (R432) -/

def State.session (s : State) (k : Nat) : Session := s.sessions.get {} k
def State.setSession (s : State) (k : Nat) (x : Session) : State := { s with sessions := s.sessions.set k x }

def Session.recv (x : Session) : Bool := x.mgctl.getLsbD 5
def Session.func (x : Session) : Nat := x.mgctl.toNat / 2 ^ 16 % 64
def Session.partner (x : Session) : Triple :=
  { grp := x.mgctl.toNat / 2 ^ 32 % 4096, mem := x.mgctl.toNat / 2 ^ 44 % 32, func := x.mgctl.toNat / 2 ^ 49 % 64 }
def Session.share (x : Session) : Nat := max 1 (x.mgshr.toNat % 64)
def Session.maxr (x : Session) : Nat := max 2 (x.mgshr.toNat / 256 % 256)
def Session.thrate (x : Session) : Nat := x.mgshr.toNat / 65536 % 65536
def Session.saveBase (x : Session) : Nat := x.mgsave.toNat / 65536 % 2 ^ 36 * 65536

/-- A source session that runs. -/
def Session.running (x : Session) : Bool :=
  match x.state with
  | .idle | .receiving | .restore => false
  | _ => true

/-- STATE as MGSTAT holds it. -/
def MgState.code (x : MgState) : Nat :=
  match x with
  | .idle => 0 | .round => 1 | .drain => 2 | .save => 3 | .ship => 4 | .rebind => 5 | .forward => 6 | .receiving => 7 | .restore => 8

/-- The sessions 0 to 3 that satisfy a test. -/
def State.sessionsWhere (s : State) (p : Session → Bool) : List Nat := (List.range 4).filter (fun k => p (s.session k))

/-- A GO resets the counters of a session. -/
def Session.fresh (x : Session) : Session :=
  { mgctl := x.mgctl, mgshr := x.mgshr, mgsave := x.mgsave }

/-- A message of Foehn's to the partner of a session. -/
def State.tellPartner (s : State) (x : Session) (b : Body) : State := s.send { dst := x.partner, src := s.ownTriple x.func, body := b }

/-! ### The end of a session (R439, R503) -/

/-- The 256 bits of an outcome slot. -/
def outcomeSlot (seq outcome func : Nat) (p : Triple) (clock : Nat) : Nat :=
  let head := packBits [(32, seq), (4, outcome), (6, func), (12, p.grp), (5, p.mem), (5, 0), (64, clock), (96, 0)]
  head + crc32 (bytesOfNat 28 head) * 2 ^ 224

/-- Record an outcome in the slot with the lower SEQ. -/
def State.recordOutcome (s : State) (x : Session) (outcome : Nat) : State :=
  let a := s.mgmt.outA % 2 ^ 32
  let b := s.mgmt.outB % 2 ^ 32
  let v := outcomeSlot ((max a b + 1) % 2 ^ 32) outcome x.func x.partner (s.clock % 2 ^ 64)
  { s with mgmt := if a ≤ b then { s.mgmt with outA := v } else { s.mgmt with outB := v } }

/-- The session ends: the throttle is lifted, and its outcome is recorded. -/
def State.endCore (s : State) (k outcome : Nat) : State :=
  let x := s.session k
  let s1 := s.setFn x.func { s.fn x.func with capRate := if x.throttled then none else (s.fn x.func).capRate }
  (s1.setSession k { x with state := .idle, outcome := outcome, throttled := false, joined := false, flight := [], marks := [], rebinds := [], image := [] }).recordOutcome
    x outcome

/-! ### The cut (R437, R438) -/

/-- The channels of a drain: every triple the function's table names but its own, in every class. -/
def State.drainChannels (s : State) (fn : Nat) : List (Triple × Nat) :=
  let ts := (((s.vdnEntries fn).map (fun (_, e) => vdnTriple e)).filter (fun t => t != s.ownTriple fn)).eraseDups
  ts.flatMap (fun t => (List.range 4).map (fun c => (t, c)))

/-- Send a message of the cut on every channel. -/
def State.onChannels (s : State) (fn : Nat) (b : Body) : State :=
  (s.drainChannels fn).foldl (fun s (t, c) => s.send { dst := t, src := s.ownTriple fn, tc := c, body := b }) s

/-- The peers release what they hold, and the function issues again. -/
def State.resumeGuest (s : State) (fn : Nat) : State :=
  let s1 := s.onChannels fn .markRelease
  s1.setFn fn { s1.fn fn with stopIssue := false }

/-- End a session that has not saved: a drain's holds are released, and the partner is told. -/
def State.endRunning (s : State) (k outcome : Nat) : State :=
  let x := s.session k
  let s1 := if x.state == .drain then s.resumeGuest x.func else s
  ((if x.state == .receiving || x.state == .restore then s1 else s1.tellPartner x (.told outcome))).endCore k outcome

/-! ### The eviction handshake (R511, R512) -/

/-- The functions the handshake moves. -/
def State.evListed (s : State) : List Nat := (List.range 64).filter (fun f => (s.mgmt.evlist.get 0 f).getLsbD 0)

/-- TARGET of a function. -/
def State.evTarget (s : State) (f : Nat) : Triple :=
  let v := (s.mgmt.evlist.get 0 f).toNat
  { grp := v / 2 % 4096, mem := v / 2 ^ 13 % 32, func := v / 2 ^ 18 % 64 }

/-- Program a session for a function of the handshake (R512). -/
def State.evProgram (s : State) (k f : Nat) (recv : Bool) (p : Triple) : State :=
  let x := s.session k
  let ctl := (if recv then 32 else 4 + 16) + f * 2 ^ 16 + p.grp * 2 ^ 32 + p.mem * 2 ^ 44 + p.func * 2 ^ 49
  s.setSession k
    { x with
      mgctl := BitVec.ofNat 64 ctl
      mgshr := if recv then x.mgshr else (x.mgshr &&& 0xFFFF0000) ||| 0x0810
      mgsave := BitVec.ofNat 64 (s.mgmt.save + 2 ^ 32 * k) }

/-- Send the ARM request of a function, and note when. -/
def State.evAsk (s : State) (f k : Nat) : State :=
  let s1 := { s with mgmt := { s.mgmt with arming := s.mgmt.arming.filter (fun (x : Nat × Nat × Nat) => x.1 != f) ++ [(f, k, s.clock)] } }
  s1.send { dst := s.evTarget f, src := s.ownTriple f, body := .arm f }

/-- Free sessions take the next listed functions, in ascending number. -/
def State.evAssign (s : State) : State :=
  (List.range 4).foldl (fun s k =>
    let busy := s.mgmt.arming.any (fun (_, j, _) => j == k)
    let taken (f : Nat) : Bool :=
      s.mgmt.done.contains f || s.mgmt.arming.any (fun (g, _, _) => g == f) || s.sessions.any (fun (_, x) => x.running && x.func == f)
    match s.evListed.find? (fun f => !taken f) with
    | some f => if (s.session k).state == .idle && !busy then (s.evProgram k f false (s.evTarget f)).evAsk f k else s
    | none => s) s

/-- The handshake fails: its running sessions are cancelled. -/
def State.evFail (s : State) : State :=
  let s1 := (s.sessionsWhere (fun x => (x.state == .round || x.state == .drain) && s.evListed.contains x.func)).foldl
    (fun s k => s.endRunning k 2) s
  { s1 with mgmt := { s1.mgmt with ev := .failed, arming := [] } }

/-- A session has ended: the handshake goes on, or fails. -/
def State.evAfter (s : State) (f outcome : Nat) : State :=
  if s.mgmt.ev != .migrate || !s.evListed.contains f then s
  else if outcome != 1 then s.evFail
  else
    let s1 := { s with mgmt := { s.mgmt with done := setInsert s.mgmt.done f } }
    if s1.evListed.all (fun g => s1.mgmt.done.contains g) then
      ((List.range 96).filter portExists).foldl (fun s p => s.portReconfSet p) { s1 with mgmt := { s1.mgmt with ev := .drain } }
    else s1.evAssign

/-- The end of a session that has not saved, or of one that has. -/
def State.endSession (s : State) (k outcome : Nat) : State := (s.endCore k outcome).evAfter (s.session k).func outcome
def State.stopSession (s : State) (k outcome : Nat) : State := (s.endRunning k outcome).evAfter (s.session k).func outcome

/-- A function reset ends its sessions (R428, R439). -/
def State.endSessionsOf (s : State) (fn : Nat) : State :=
  (s.sessionsWhere (fun x => x.state != .idle && x.func == fn)).foldl (fun s k => s.stopSession k 5) s

/-! ### Rounds (R434 to R436) -/

/-- The 4 KiB blocks of a function's leaves in ascending guest PA: guest PA and host PA. -/
def blocksOf (leaves : List (Nat × Nat × Nat)) : List (Nat × Nat) :=
  leaves.flatMap (fun (g, z, a) => (List.range (z / 4096)).map (fun i => (g + 4096 * i, a + 4096 * i)))

/-- A round starts; round 0 clears every bit of the function's blocks. -/
def State.startRound (s : State) (k : Nat) : State :=
  let x := s.session k
  let s1 := if x.round = 0 then (blocksOf (s.s2Leaves x.func)).foldl (fun s (_, h) => if s.dirtyBit (h / 4096) then s.setDirty (h / 4096) false else s) s else s
  s1.setSession k { x with state := .round, nextGpa := 0, flight := [], changed := [], lull := false }

/-- The next block the round sends: its guest PA and host PA. -/
def State.nextBlock (s : State) (x : Session) : Option (Nat × Nat) :=
  (blocksOf (s.s2Leaves x.func)).find? (fun (g, h) =>
    decide (x.nextGpa ≤ g) && ((x.state == .round && x.round == 0) || s.dirtyBit (h / 4096)))

/-- FOEHN_BLOCK_SEND (R431, R434, R440): fetch and clear the bit of the next block, and send the block.  The argument of the
session rows is the session. -/
def execFoehnBlockSend (s : State) : Outcome State Fault Refusal :=
  let k := s.arg 0
  let x := s.session k
  if !((x.state == .round && x.joined) || x.state == .ship) then .next s
  else
    match s.nextBlock x with
    | none => .next s
    | some (g, h) =>
      -- round 0 has cleared the bits as it started: a bit set since stays for round 1 (R434)
      let s1 := if s.dirtyBit (h / 4096) && !(x.state == .round && x.round == 0) then s.setDirty (h / 4096) false else s
      let s2 := (List.range 8).foldl (fun s i =>
        s.tellPartner x (.block (g + 512 * i) (s.bytesAt (h + 512 * i) 512) (s.poisonAt (h + 512 * i) 512))) s1
      .next (s2.setSession k
        { x with nextGpa := g + 4096, flight := x.flight ++ (List.range 8).map (fun i => g + 512 * i), bytes := x.bytes + 4096 })

/-- The bytes of a function's fabric messages not yet complete, in both directions (R436). -/
def State.openBytes (s : State) (fn : Nat) : Nat :=
  ((s.msgs.filter (fun m => m.fn == fn && m.code.isNone)).map (fun m => m.total)).sum +
  ((s.inmsgs.filter (fun m => m.fn == fn && !m.done)).map (fun m => m.total - m.bytes)).sum

/-- The drain estimate is at most 400 µs (R436). -/
def State.estimateOk (s : State) (x : Session) : Bool := decide (s.openBytes x.func ≤ 400 * 658800 * x.share)

/-- Changes of bits from 0 to 1 among the function's blocks, saturating (R434). -/
def State.changedCount (s : State) (x : Session) : Nat :=
  let hs := (blocksOf (s.s2Leaves x.func)).map (fun (_, h) => h / 4096)
  min (2 ^ 32 - 1) (x.changed.filter (fun b => hs.contains b)).length

/-- Lull begins (R437): issue stops, and the markers are sent. -/
def State.enterDrain (s : State) (k : Nat) : State :=
  let x := s.session k
  let s1 := s.setFn x.func { s.fn x.func with stopIssue := true }
  (s1.onChannels x.func .mark).setSession k { x with state := .drain, drainAt := s.clock, stateAt := s.clock, marks := s.drainChannels x.func, changed := [] }

/-- FOEHN_ROUND_END (R434 to R437). -/
def execFoehnRoundEnd (s : State) : Outcome State Fault Refusal :=
  let k := s.arg 0
  let x := s.session k
  if x.state != .round || !x.joined || !x.flight.isEmpty || (s.nextBlock x).isSome then .next s
  else
    let dc := s.changedCount x
    let thr := x.mgctl.getLsbD 4 && decide (2 ≤ x.round) && decide (7 * x.dcnt < 8 * dc)
    let y := { x with dcnt := dc, round := (x.round + 1) % 256, throttled := x.throttled || thr }
    let s0 := if thr then s.setFn x.func { s.fn x.func with capRate := some x.thrate } else s
    let s1 := s0.setSession k y
    if x.round ≠ 0 ∧ (x.lull || x.mgctl.getLsbD 2) ∧ dc ≤ 262144 ∧ 16 ≤ x.share ∧ s.estimateOk x then .next (s1.enterDrain k)
    else if x.maxr ≤ x.round + 1 then .next (s1.stopSession k 3)
    else .next (s1.startRound k)

/-! ### GO and the partner (R433) -/

/-- The outcome of a source session whose checks fail. -/
def State.goChecks (s : State) (k : Nat) : Bool :=
  let x := s.session k
  let shares := ((s.sessionsWhere (fun y => y.running)).map (fun j => (s.session j).share)).sum + x.share
  s.dbmap.getLsbD 0 && s.enabled x.func && s.ready x.func && decide (x.saveBase ≠ 0) && decide (shares ≤ 64)

/-- SPART of the logical cores of a function: H and SPEC. -/
def State.logicalParts (s : State) (fn : Nat) : List (Nat × Bool) :=
  (List.range (s.coreCount fn)).map (fun n =>
    match s.physCore fn n with
    | some p => ((s.spart.get 0 p).toNat % 32, s.specOn p)
    | none => (0, false))

/-- A source session starts: it asks its partner, or ends. -/
def State.goSource (s : State) (k : Nat) : State :=
  let ok := s.goChecks k
  let s1 := s.setSession k (s.session k).fresh
  if ok then
    (s1.setSession k { s1.session k with state := .round }).tellPartner (s1.session k) (.ask (s.logicalParts (s1.session k).func))
  else s1.endSession k 6

/-- A receiving session starts. -/
def State.goReceive (s : State) (k : Nat) : State :=
  let s1 := s.setSession k { (s.session k).fresh with state := .receiving }
  let f := (s1.session k).func
  s1.setFn f { s1.fn f with notReady := true }

/-- MGCTL_GO_SOURCE (R433). -/
def execMgctlGoSource (s : State) : Outcome State Fault Refusal :=
  let x := s.session (s.arg 0 % 4)
  .next (if x.state == .idle && !x.recv then s.goSource (s.arg 0 % 4) else s)

/-- MGCTL_GO_RECEIVE (R433). -/
def execMgctlGoReceive (s : State) : Outcome State Fault Refusal :=
  let x := s.session (s.arg 0 % 4)
  .next (if x.state == .idle && x.recv then s.goReceive (s.arg 0 % 4) else s)

/-- LULL is written (R436): it counts during a round. -/
def State.writeLull (s : State) (k : Nat) : State :=
  let x := s.session k
  if x.state == .round then s.setSession k { x with lull := true } else s

/-- MGCTL_LULL (R436). -/
def execMgctlLull (s : State) : Outcome State Fault Refusal := .next (s.writeLull (s.arg 0 % 4))

/-- CANCEL is written (R439): it acts before SAVE. -/
def State.writeCancel (s : State) (k : Nat) : State :=
  let x := s.session k
  if x.state == .round || x.state == .drain || x.state == .receiving then s.stopSession k 2 else s

/-- MGCTL_CANCEL (R439). -/
def execMgctlCancel (s : State) : Outcome State Fault Refusal := .next (s.writeCancel (s.arg 0 % 4))

/-- The function of a receiving session meets R433. -/
def State.canReceive (s : State) (fn : Nat) (logical : List (Nat × Bool)) : Bool :=
  s.logicalParts fn == logical && !s.blocks.any (fun (_, b) => b.fn == fn) && !s.tasks.any (fun t => t.fn == fn) &&
  (s.fn fn).queues.all (fun (_, q) => q.rd == q.wr)

/-- The session of a function and partner in one of two states. -/
def State.sessionFor (s : State) (fn : Nat) (p : Triple) (test : Session → Bool) : Option Nat :=
  (s.sessionsWhere (fun x => x.func == fn && x.partner == p && test x)).head?

/-- The destination restores the function (R450). -/
def State.doRestore (s : State) (k : Nat) : State :=
  let x := s.session k
  match readImage x.image with
  | none => s.endSession k 7
  | some rs =>
    let s1 := s.restoreImage x.func rs
    (s1.setFn x.func { s1.fn x.func with notReady := false }).endSession k 1

/-- A failure in SAVE, SHIP or REBIND (R453): the source restores its own image and releases its peers. -/
def State.failSession (s : State) (k outcome : Nat) : State :=
  let x := s.session k
  let own := s.ownTriple x.func
  let s1 := if x.state == .rebind then
      (s.drainChannels x.func).foldl (fun s (t, c) => if c = 0 then s.send { dst := t, src := own, body := .rebind x.partner own } else s) s
    else s
  let s2 := if x.state == .ship || x.state == .rebind then
      match readImage (s1.bytesAt x.saveBase x.image.length) with
      | some rs => ({ s1.dropWork x.func with launches := s1.launches } : State).restoreImage x.func rs
      | none => s1
    else s1
  ((s2.resumeGuest x.func).tellPartner x (.told outcome)).endSession k outcome

/-- The partner says how a session ended, or that the destination is to restore. -/
def State.takeTold (s : State) (p : Packet) (outcome : Nat) : State :=
  match s.sessionFor p.dst.func p.src (fun x => x.state != .idle) with
  | none => s
  | some k =>
    let x := s.session k
    match x.state with
    | .restore => if outcome = 1 then s.doRestore k else s.endSession k outcome
    | .receiving => s.endSession k outcome
    | .round | .drain =>
      let s1 := if x.state == .drain then s.resumeGuest x.func else s
      s1.endSession k 4
    | .save | .ship | .rebind => s.failSession k (if outcome = 7 then 7 else 4)
    | _ => s

/-- SESSION_PARTNER_REQUEST (R433, R439): the argument is the place of the packet in the inbox. -/
def execSessionPartnerRequest (s : State) : Outcome State Fault Refusal :=
  match s.inboxAt (s.arg 0) with
  | none => .next s
  | some p =>
    let fn := p.dst.func
    let off := s.dropInbox (s.arg 0)
    match p.body with
    | .ask logical =>
      let ok := (s.sessionFor fn p.src (fun x => x.state == .receiving)).isSome && s.canReceive fn logical
      .next ((off.allowFor p).answerTo p (.answer ok))
    | .answer ok =>
      match s.sessionFor fn p.src (fun x => x.state == .round && !x.joined) with
      | none => .next off
      | some k => .next (if ok then (off.setSession k { off.session k with joined := true }).startRound k else off.endSession k 4)
    | .told outcome => .next ((off.allowFor p).takeTold p outcome)
    | _ => .next s

/-! ### Blocks at the destination (R434) -/

/-- FOEHN_BLOCK_ARRIVAL (R433, R434): a piece of a block is written through the destination's stage 2, with no dirty bit; or its
acknowledgement comes back.  The argument is the place of the packet in the inbox. -/
def execFoehnBlockArrival (s : State) : Outcome State Fault Refusal :=
  match s.inboxAt (s.arg 0) with
  | none => .next s
  | some p =>
    let fn := p.dst.func
    let off := s.dropInbox (s.arg 0)
    match p.body with
    | .block g bs poison =>
      let s1 := off.allowFor p
      match s.sessionFor fn p.src (fun x => x.state == .receiving || x.state == .restore) with
      | none => .next s1
      | some k =>
        match s2Host s1 fn g .any with
        | .error _ => .next ((s1.tellPartner (s1.session k) (.told 4)).endSession k 4)
        | .ok h =>
          let s2 := s1.putHome none h bs poison
          .next ((s2.setSession k { s2.session k with bytes := (s2.session k).bytes + bs.length }).answerTo p (.blockAck g))
    | .blockAck g =>
      match s.sessionFor fn p.src (fun x => x.state == .round || x.state == .ship) with
      | none => .next off
      | some k => .next (off.setSession k { off.session k with flight := (off.session k).flight.filter (fun x => x != g) })
    | _ => .next s

/-! ### Marks at the peers (R437, R438) -/

/-- Some message or access to a triple has begun and is not complete (R437). -/
def State.begunTo (s : State) (t : Triple) : Bool :=
  s.msgs.any (fun m => m.dst == t && m.firstAt.isSome && m.code.isNone) ||
  s.blocks.any (fun (_, b) => b.waves.any (fun (_, w) => w.acc.any (fun a =>
    !a.held && (match a.remote with | some (v, _) => vdnTriple (s.vdnEntry b.fn v) == t | none => false))))

/-- MARK_ARRIVAL (R437): the argument of these is the place of the packet in the inbox. -/
def execMarkArrival (s : State) : Outcome State Fault Refusal :=
  match s.inboxAt (s.arg 0) with
  | none => .next s
  | some p =>
    if p.body != .mark || s.begunTo p.src then .next s
    else
      let s1 := (s.dropInbox (s.arg 0)).allowFor p
      .next (({ s1 with marked := if s1.marked.contains p.src then s1.marked else s1.marked ++ [p.src] } : State).answerTo p .markAck)

/-- MARK_ACK_ARRIVAL (R437). -/
def execMarkAckArrival (s : State) : Outcome State Fault Refusal :=
  match s.inboxAt (s.arg 0) with
  | none => .next s
  | some p =>
    if p.body != .markAck then .next s
    else
      let s1 := s.dropInbox (s.arg 0)
      match (s1.sessionsWhere (fun x => x.func == p.dst.func && x.state == .drain)).head? with
      | none => .next s1
      | some k => .next (s1.setSession k { s1.session k with marks := (s1.session k).marks.filter (fun m => m != (p.src, p.tc)) })

/-- MARK_RELEASE_ARRIVAL (R438). -/
def execMarkReleaseArrival (s : State) : Outcome State Fault Refusal :=
  match s.inboxAt (s.arg 0) with
  | none => .next s
  | some p =>
    if p.body != .markRelease then .next s
    else
      let s1 := (s.dropInbox (s.arg 0)).allowFor p
      .next { s1 with marked := s1.marked.filter (fun t => t != p.src) }

/-! ### The end of the drain, and saving (R437, R438, R440) -/

/-- Nothing of a function's traffic is left: messages, requests that may fire, accesses and packets. -/
def State.trafficDone (s : State) (fn : Nat) : Bool :=
  let own := s.ownTriple fn
  s.msgs.all (fun m => m.fn != fn || m.code.isSome) && s.inmsgs.all (fun m => m.fn != fn || m.done) &&
  (List.range 64).all (fun l => (s.headReady fn l).isNone) &&
  s.blocks.all (fun (_, b) => b.fn != fn || b.waves.all (fun (_, w) => w.acc.all (fun a => a.remote.isNone))) &&
  s.inbox.all (fun p => p.dst != own || !(p.body.isAccess || p.body.isMessage)) &&
  s.egress.all (fun p => p.src != own || !(p.body.isAccess || p.body.isMessage))

/-- The drain is complete (R437). -/
def State.drained (s : State) (x : Session) : Bool := x.marks.isEmpty && s.trafficDone x.func && decide (s.changedCount x ≤ 262144)

/-- DRAIN_COMPLETE (R437, R440): SAVE starts. -/
def execDrainComplete (s : State) : Outcome State Fault Refusal :=
  let k := s.arg 0
  let x := s.session k
  if x.state == .drain && s.drained x then .next (s.setSession k { x with state := .save, stateAt := s.clock, drainUs := (s.clock - x.drainAt) / usec })
  else .next s

/-- DRAIN_ABANDON (R438): 400 µs have passed. -/
def execDrainAbandon (s : State) : Outcome State Fault Refusal :=
  let k := s.arg 0
  let x := s.session k
  if x.state == .drain && decide (x.drainAt + 400 * usec ≤ s.clock) then
    let s1 := s.resumeGuest x.func
    .next ((s1.setSession k { x with abandons := min 255 (x.abandons + 1), drainUs := (s.clock - x.drainAt) / usec, marks := [] }).startRound k)
  else .next s

/-- Units of a function leave (R337, R440): the frontier tasks are promoted, every other unit aborts with MIGRATE. -/
def State.leaveAll (s : State) (fn : Nat) : State :=
  let s1 := s.blocks.foldl (fun s (k, b) =>
    if b.fn != fn then s
    else b.waveIds.foldl (fun s w => if (s.blocks.get? k).isSome then s.leaveUnit k w else s) s) s
  s1.abort ((s1.units.filter (fun (_, u) => u.fn == fn)).map (·.1)) 7

/-- A block that was saved before takes a place again, so that its scratch goes with a slice; its waves keep their waits (R440). -/
def State.reseat (s : State) (fn : Nat) : State :=
  s.blocks.foldl (fun s (k, b) =>
    if b.fn != fn || b.core.isSome then s
    else
      match s.firstRoom (s.coresOf fn) b.need with
      | some (c, o) =>
        let s1 := s.restoreBlock k c o
        s1.setBlock k { s1.block k with saving := !b.holds.isEmpty, waves := b.waves }
      | none => s) s

/-- A wave that stands on a record not yet produced issues its instruction again where it is restored (R445 code 7). -/
def Wave.unrecorded (w : Wave) (ids : List Nat) : Wave :=
  match w.stopped with
  | some r =>
    if !ids.contains r.id then w
    else
      let back := r.resume == .trapUser || (match r.resume with | .hostcall _ => true | _ => false)
      let ls := (lanesOf r.members).filter (fun l => back && (w.lane l).pc == r.nextPc)
      { w.mapLanes (maskOf ls) (fun _ x => { x with pc := r.pc }) with stopped := none }
  | none => w

/-- The accesses, contributions and chunks of a resident block of the function complete, and reservations clear (R440). -/
def State.completeBlocks (s : State) (fn : Nat) : State :=
  s.blocks.foldl (fun s (k, b) =>
    if b.fn != fn || b.core.isNone then s
    else
      let s1 := (b.waveIds.foldl (fun s w => s.completeWave k w) s).drainAll k |>.finishChunks k
      let b1 := s1.block k
      s1.setBlock k { b1 with waves := b1.waves.map (fun ((i, w) : Nat × Wave) => (i, w.saved k i)) }) s

/-- What waits for records that are not produced: a suspended command queues again, with its remainder (R244, R248); and the block is held
by none of them. -/
def Block.unrecorded (b : Block) (rs : List TrapRec) : Block :=
  let ids := rs.map (fun r => r.id)
  let again (id : Nat) : Bool := rs.any (fun r => r.resume == .copy id)
  { b.mapWaves (fun w => w.unrecorded ids) with
    holds := b.holds.filter (fun h => !ids.contains h)
    copies := b.copies.map (fun ((id, c) : Nat × CopyCmd) => (id, if again id && c.stage == .suspended then { c with stage := .waitsEntry } else c)) }

/-- The function's blocks stand where they can be saved (R362, R440). -/
def State.saveReady (s : State) (fn : Nat) : Bool :=
  let f := s.fn fn
  s.blocks.all (fun (_, b) => b.fn != fn || (b.stackCmds.isEmpty && b.waves.all (fun (_, w) => w.savable))) &&
  (f.recs.isEmpty || !ringRoomFor f.trctl f.trprod f.trcons)

/-- SAVE_COMPLETE (R440): the image is written into the save area, and shipping starts. -/
def execSaveComplete (s : State) : Outcome State Fault Refusal :=
  let k := s.arg 0
  let x := s.session k
  if x.state != .save || !s.saveReady x.func then .next s
  else
    let s1 := ((s.leaveAll x.func).completeBlocks x.func).reseat x.func
    let rs := (s1.fn x.func).recs
    let s2 := { s1 with blocks := s1.blocks.map (fun ((i, b) : Nat × Block) => (i, if b.fn == x.func then b.unrecorded rs else b)) }
    -- a record that holds nothing is lost where the ring is full (R354)
    let f := s2.fn x.func
    let lost := rs.filter (fun r => !r.byWave && !r.ans)
    let s3 := s2.setFn x.func { f with recs := [], trctl := lost.foldl (fun c _ => ringLost c) f.trctl }
    let img := s3.imageOf x.func
    let s4 := s3.putHome none x.saveBase img false
    let y := { x with state := .ship, stateAt := s.clock, nextGpa := 0, flight := [], image := img, imageAcked := false, bytes := x.bytes + img.length }
    let n := (img.length + 511) / 512
    .next ((List.range n).foldl (fun s i => s.tellPartner y (.image img.length ((img.drop (512 * i)).take 512))) (s4.setSession k y))

/-- IMAGE_ARRIVAL (R439, R441, R450): a piece of the image, or its acknowledgement.  The argument is the place of the packet in the
inbox. -/
def execImageArrival (s : State) : Outcome State Fault Refusal :=
  match s.inboxAt (s.arg 0) with
  | none => .next s
  | some p =>
    let off := s.dropInbox (s.arg 0)
    match p.body with
    | .image total bs =>
      let s1 := off.allowFor p
      match s1.sessionFor p.dst.func p.src (fun x => x.state == .receiving) with
      | none => .next s1
      | some k =>
        let x := s1.session k
        let y := { x with image := x.image ++ bs, bytes := x.bytes + bs.length }
        let s2 := s1.setSession k y
        if y.image.length < total then .next s2
        else if (readImage y.image).isSome then .next ((s2.setSession k { y with state := .restore }).answerTo p (.imageAck true))
        else .next ((s2.answerTo p (.imageAck false)).endSession k 7)
    | .imageAck ok =>
      match off.sessionFor p.dst.func p.src (fun x => x.state == .ship) with
      | none => .next off
      | some k => .next (if ok then off.setSession k { off.session k with imageAcked := true } else off.failSession k 7)
    | _ => .next s

/-! ### Rebinding (R451, R452) -/

/-- SHIP_COMPLETE (R439, R451): the image and the residual blocks are acknowledged. -/
def execShipComplete (s : State) : Outcome State Fault Refusal :=
  let k := s.arg 0
  let x := s.session k
  if x.state != .ship || !x.imageAcked || !x.flight.isEmpty || (s.nextBlock x).isSome then .next s
  else
    let ts := ((s.drainChannels x.func).map (·.1)).eraseDups
    let own := s.ownTriple x.func
    let s1 := ts.foldl (fun s t => s.send { dst := t, src := own, body := .rebind own x.partner }) s
    .next (s1.setSession k { x with state := .rebind, stateAt := s.clock, rebinds := ts })

/-- A peer's tables and held messages name the new triple from now on (R451). -/
def State.rebind (s : State) (old new : Triple) : State :=
  let s1 := (List.range 64).foldl (fun s f => (s.renameVdn f old new).2) s
  let go (p : Packet) : Packet := if p.fresh && !p.body.isResponse && p.dst == old then { p with dst := new } else p
  { s1 with
    marked := s1.marked.filter (fun t => t != old)
    egress := s1.egress.map go
    msgs := s1.msgs.map (fun (m : OutMsg) => if m.dst == old then { m with dst := new, pkts := m.pkts.map go } else m) }

/-- REBIND_ARRIVAL (R451): the argument is the place of the packet in the inbox. -/
def execRebindArrival (s : State) : Outcome State Fault Refusal :=
  match s.inboxAt (s.arg 0) with
  | none => .next s
  | some p =>
    let off := s.dropInbox (s.arg 0)
    match p.body with
    | .rebind old new => .next (((off.allowFor p).rebind old new).answerTo p .rebindAck)
    | .rebindAck =>
      match (off.sessionsWhere (fun x => x.func == p.dst.func && x.state == .rebind)).head? with
      | none => .next off
      | some k => .next (off.setSession k { off.session k with rebinds := (off.session k).rebinds.filter (fun t => t != p.src) })
    | _ => .next s

/-- REBIND_COMPLETE (R439, R452): the partner restores, and the function's state here is discarded.  BLACKOUT counts from the entry to DRAIN
to the guest's first issue at the destination (R432): what comes after this step is the partner's, and free (log 99). -/
def execRebindComplete (s : State) : Outcome State Fault Refusal :=
  let k := s.arg 0
  let x := s.session k
  if x.state != .rebind || (!x.rebinds.isEmpty && decide (s.clock < x.stateAt + 100 * usec)) then .next s
  else
    let (b, s0) := s.drawWord
    let s1 := (s0.clearWork x.func).dropTraffic x.func
    let f := s1.fn x.func
    let s2 := s1.setFn x.func { f with stopIssue := false, notReady := true, colls := [], lists := f.lists.map (fun (l, y) => (l, { y with recs := [] })) }
    let s3 := { s2 with moved := s2.moved.filter (fun (m : Moved) => m.fn != x.func) ++ [({ fn := x.func, new := x.partner, until_ := s.clock + 250 * usec } : Moved)] }
    .next ((s3.setSession k { x with state := .forward, stateAt := s.clock, blackout := ((s.clock - x.drainAt) / usec + b.toNat) % 2 ^ 32 }).tellPartner x (.told 1))

/-- FORWARD_PACKET (R452): a packet for a function that has moved.  The argument is its place in the inbox. -/
def execForwardPacket (s : State) : Outcome State Fault Refusal :=
  match s.inboxAt (s.arg 0) with
  | none => .next s
  | some p =>
    match s.movedFn p.dst.func with
    | none => .next s
    | some m =>
      if !(p.body.isAccess || p.body.isMessage) then .next s
      else
        let s1 := (s.dropInbox (s.arg 0)).allowFor p
        if !s1.names m.fn p.src then .next (s1.answerTo p (if p.body.isAccess then .response 5 [] false else .msgAck 5 0))
        else if s.clock < m.until_ then .next (s1.send { p with dst := m.new, fresh := false, hops := 0 })
        else .next (s1.answerTo p (.moved m.new))

/-- FORWARD_WINDOW_END (R439, R503): 250 µs in FORWARD. -/
def execForwardWindowEnd (s : State) : Outcome State Fault Refusal :=
  let k := s.arg 0
  let x := s.session k
  if x.state == .forward && decide (x.stateAt + 250 * usec ≤ s.clock) then .next (s.endSession k 1) else .next s

/-- SESSION_FAILURE (R453): the partner fails, or the link to it is lost, in SAVE, SHIP or REBIND.  The argument
is the session. -/
def execSessionFailure (s : State) : Outcome State Fault Refusal :=
  let k := s.arg 0
  let x := s.session k
  match x.state with
  | .save | .ship | .rebind => .next (s.failSession k 4)
  | _ => .next s

end Sys2Proof.Machine
end

