-- ==== Sys2Proof/Machine/Partition.lean ====
section
/-!
DEFINITION. Sys2Proof/Machine/Partition.lean: the partition unit's rows (R414 to R420, R427, R428).
-/

namespace Sys2Proof.Machine

open Host

/-! ### Function reset (R427, R428) -/

/-- A write of FRESET.GO (R427): a second one during a reset is ignored; a session of the function ends, and so does an eviction
handshake that was to move it (R428, R511). -/
def State.startReset (s : State) (fn : Nat) : State :=
  if (s.fn fn).resetting then s
  else
    let s1 := s.endSessionsOf fn
    let s2 := if s1.mgmt.ev == .migrate && s1.evListed.contains fn then s1.evFail else s1
    ((s2.setFn fn { s2.fn fn with resetting := true }).clearWork fn).tellPeers fn

/-- FRESET_GO (R427): the argument is the function. -/
def execFresetGo (s : State) : Outcome State Fault Refusal := .next (s.startReset (s.arg 0 % 64))

/-- FUNCTION_RESET_COMPLETE (R427): the argument is the function. -/
def execFunctionResetComplete (s : State) : Outcome State Fault Refusal :=
  let fn := s.arg 0 % 64
  .next (if (s.fn fn).resetting then s.endReset fn else s)

/-- PF_RESET (R414): all 64 functions, each as by a write of its GO. -/
def execPfReset (s : State) : Outcome State Fault Refusal := .next ((List.range 64).foldl (fun s f => s.startReset f) s)

/-! ### Clusters and cores (R415 to R418) -/

/-- OWNER and HOLDER of a value of CLOWN. -/
def clownOwner (v : DWord) : Nat := v.toNat % 64
def clownHolder (v : DWord) : Nat := v.toNat / 64 % 64

/-- A write of CLOWN is counted when it touches reserved bits (R3, R415). -/
def State.clownRegister (s : State) (k : Nat) (v : DWord) : State :=
  (s.writeClown k v).countRsv 0 (v &&& 0xFFFFFFFF0000E000 != 0)

/-- CLOWN_OWNER_CHANGE (R415): arguments of these three are the cluster and the value, which names another owner. -/
def execClownOwnerChange (s : State) : Outcome State Fault Refusal :=
  let k := s.arg 0 % 32
  let v := BitVec.ofNat 64 (s.arg 1)
  .next (if clownOwner v != s.clusterOwner k then s.clownRegister k v else s)

/-- CLOWN_LEND (R416): the value keeps the owner and names another holder. -/
def execClownLend (s : State) : Outcome State Fault Refusal :=
  let k := s.arg 0 % 32
  let v := BitVec.ofNat 64 (s.arg 1)
  .next (if clownOwner v == s.clusterOwner k && clownHolder v != clownOwner v then s.clownRegister k v else s)

/-- CLOWN_RECLAIM (R417): the value sets HOLDER to OWNER on a lent cluster. -/
def execClownReclaim (s : State) : Outcome State Fault Refusal :=
  let k := s.arg 0 % 32
  let v := BitVec.ofNat 64 (s.arg 1)
  .next (if clownOwner v == s.clusterOwner k && clownHolder v == clownOwner v && s.clusterHolder k != s.clusterOwner k then s.clownRegister k v
    else s)

/-- A write of SPART, counted when it touches reserved bits (R3, R418). -/
def State.spartRegister (s : State) (core : Nat) (v : DWord) : State :=
  (s.writeSpart core v).countRsv 0 (v &&& 0xFFFFFFFFFFFFFEE0 != 0)

/-- SPART_WRITE (R418): arguments are the physical core and the value. -/
def execSpartWrite (s : State) : Outcome State Fault Refusal := .next (s.spartRegister (s.arg 0 % 256) (BitVec.ofNat 64 (s.arg 1)))

/-! ### Calendars (R420) -/

/-- A write of CALCMT: the shadow waits for the selected calendar's next slot 0. -/
def State.writeCalcmt (s : State) : State := { s with calWait := s.calWait.set s.calidx s.calShadow }

/-- CALCMT_WRITE (R420). -/
def execCalcmtWrite (s : State) : Outcome State Fault Refusal := .next s.writeCalcmt

/-- CALENDAR_APPLY (R420): the argument is the calendar. -/
def execCalendarApply (s : State) : Outcome State Fault Refusal :=
  match s.calWait.get? (s.arg 0) with
  | none => .next s
  | some c => .next { s with cals := s.cals.set (s.arg 0) c, calWait := s.calWait.erase (s.arg 0) }

end Sys2Proof.Machine
end

