-- ==== Sys2Proof/Machine/Manage.lean ====
section
/-!
DEFINITION. Sys2Proof/Machine/Manage.lean: management, identity and bring-up (R40, R499 to R512), but for the registers.
-/

namespace Sys2Proof.Machine

open Host

/-! ### Power-good and readiness (R504) -/

/-- POWER_GOOD (R504): every unit's self-test starts. -/
def execPowerGood (s : State) : Outcome State Fault Refusal :=
  if s.mgmt.powered then .next s else .next { s with mgmt := { s.mgmt with powered := true, powerAt := s.clock } }

/-- The bits of RDY0 to RDY2 that stand for a unit. -/
def rdyMask (reg : Nat) : DWord :=
  match reg with
  | 0 => 0x0007FFFFFFFFFFFF
  | 1 => 0xFFFFFFFF7FFFFFFF
  | _ => 0x00000000FFFFFFFF

/-- Set a unit's ready bit. -/
def Mgmt.setReady (m : Mgmt) (reg bit : Nat) : Mgmt :=
  let b : DWord := (1#64 <<< bit) &&& rdyMask reg
  match reg with
  | 0 => { m with rdy0 := m.rdy0 ||| b }
  | 1 => { m with rdy1 := m.rdy1 ||| b }
  | _ => { m with rdy2 := m.rdy2 ||| b }

/-- The log slot and kind of a unit of RDY0 (R508); other units have no slot. -/
def rdySlot (reg bit : Nat) : Option (Nat × Nat) :=
  if reg ≠ 0 then none
  else if bit < 16 then some (bit, 0)
  else if bit < 48 then some (bit, 1)
  else if bit < 50 then some (bit + 10, 7)
  else none

/-- A unit passes its self-test: its bit is set, and the owner of a cluster becomes ready with its first (R414). -/
def State.unitReady (s : State) (reg bit : Nat) : State :=
  let s1 := { s with mgmt := s.mgmt.setReady reg bit }
  if reg == 0 && decide (16 ≤ bit) && decide (bit < 48) then s1.newlyReady s [s.clusterOwner (bit - 16)] else s1

/-- UNIT_SELF_TEST_COMPLETE (R504): arguments are the register of RDY0 to RDY2, the unit's bit, and whether the test passed.  A port
that is enabled starts to train. -/
def execUnitSelfTestComplete (s : State) : Outcome State Fault Refusal :=
  let reg := s.arg 0
  let bit := s.arg 1
  if !s.mgmt.powered || 2 < reg || 63 < bit then .next s
  else if s.arg 2 = 0 then
    match rdySlot reg bit with
    | some (slot, kind) => .next (s.logError slot kind 0 0 0 true)
    | none => .next s
  else
    let s1 := s.unitReady reg bit
    let p := bit + (if reg = 2 then 64 else 0)
    let x := s1.port p
    if reg ≠ 0 ∧ portExists p ∧ x.pctl.getLsbD 0 ∧ x.state = .down then .next ((s1.setPort p { x with tries := 0 }).toLock p true)
    else .next s1

/-! ### The Mboix bus (R499) -/

/-- SMBUS_FALLBACK (R499): the bus owner has not started I3C within 100 ms of power-good. -/
def execSmbusFallback (s : State) : Outcome State Fault Refusal :=
  let m := s.mgmt
  if m.powered && !m.i3cStarted && decide (m.powerAt + 100000 * usec ≤ s.clock) then .next { s with mgmt := { m with smbus := true } }
  else .next s

/-- A message over the bus: before the fallback it starts I3C. -/
def State.busUsed (s : State) : State := if s.mgmt.smbus then s else { s with mgmt := { s.mgmt with i3cStarted := true } }

/-! ### SPDM (R500, R501) -/

/-- The routing and calendar registers of the device page, as bytes (R500). -/
def State.routeBytes (s : State) : List Byte :=
  let ds (t : Tab DWord) : List Byte := t.flatMap (fun (k, v) => bytesOfNat 2 k ++ bytesOfNat 8 v.toNat)
  let cal (c : Tab Nat) : List Byte := (List.range 64).flatMap (fun i => bytesOfNat 2 (c.get 0 i))
  [BitVec.ofNat 8 s.rtAct.toNat] ++ ds s.rtgrp ++ ds s.rtmem ++ ds s.rtgrpB ++ ds s.rtmemB ++ bytesOfNat 8 s.calidx ++
    s.cals.flatMap (fun (k, c) => bytesOfNat 2 k ++ cal c)

/-- The measurement blocks 1 to 4 (R500). -/
def State.measurements (s : State) : List (List Byte) :=
  (List.range 3).map (fun i => sha512 (s.mgmt.firmware.get [] (i + 1))) ++ [sha512 s.routeBytes]

/-- Answer an SPDM request by its code in SPDM 1.3; `also` is what the answer rests on beside the requests before it. -/
def State.spdm (s : State) (code : Nat) (also : List (List Byte)) : State :=
  let s1 := s.busUsed
  let a := Config.spdmAnswer code s.data (also ++ s.mgmt.answers)
  { s1 with mgmt := { s1.mgmt with spdm := s1.mgmt.spdm ++ [code], answers := s1.mgmt.answers ++ [a] } }

/-- GET_VERSION (R500): the data of these rows is the request. -/
def execGetVersion (s : State) : Outcome State Fault Refusal := .next (s.spdm 0x84 [])
/-- GET_CAPABILITIES (R500). -/
def execGetCapabilities (s : State) : Outcome State Fault Refusal := .next (s.spdm 0xE1 [])
/-- NEGOTIATE_ALGORITHMS (R500). -/
def execNegotiateAlgorithms (s : State) : Outcome State Fault Refusal := .next (s.spdm 0xE3 [])
/-- GET_DIGESTS (R500). -/
def execGetDigests (s : State) : Outcome State Fault Refusal := .next (s.spdm 0x81 [])
/-- GET_CERTIFICATE (R500). -/
def execGetCertificate (s : State) : Outcome State Fault Refusal := .next (s.spdm 0x82 [])
/-- CHALLENGE (R500). -/
def execChallenge (s : State) : Outcome State Fault Refusal := .next (s.spdm 0x83 s.measurements)
/-- GET_MEASUREMENTS (R500). -/
def execGetMeasurements (s : State) : Outcome State Fault Refusal := .next (s.spdm 0xE0 s.measurements)
/-- KEY_EXCHANGE (R500). -/
def execKeyExchange (s : State) : Outcome State Fault Refusal := .next (s.spdm 0xE4 [])
/-- FINISH (R500). -/
def execFinish (s : State) : Outcome State Fault Refusal := .next (s.spdm 0xE5 [])

/-- The 32 bytes of HKDF-Expand from an export master secret, for a key ID (R501). -/
def pladenSecret (prk : List Byte) (kid : Nat) : List Byte :=
  (hmacSha512 prk ([0x50, 0x4C, 0x41, 0x44, 0x45, 0x4E] ++ bytesOfNat 2 kid ++ [1])).take 32

/-- PORT_KEY_SESSION (R501): arguments are the port and the key ID. -/
def execPortKeySession (s : State) : Outcome State Fault Refusal :=
  let p := s.arg 0
  let sec := pladenSecret (Config.exportSecret s.tick) (s.arg 1)
  let s1 := { s with tick := s.tick + 1 }
  let x := s1.port p
  let keys : Tab DWord := (List.range 4).map (fun i => (i, BitVec.ofNat 64 (natOfBytes ((sec.drop (8 * i)).take 8))))
  if !portExists p then .next s else .next ((s1.setPort p { x with pkey := keys }).writePkid p (s.arg 1))

/-- FIRMWARE_IMAGE_INSTALL (R500): the argument is the measurement block, 1 to 3; the data is the image. -/
def execFirmwareImageInstall (s : State) : Outcome State Fault Refusal :=
  if 1 ≤ s.arg 0 ∧ s.arg 0 ≤ 3 ∧ Config.signatureHolds s.data then
    .next { s with mgmt := { s.mgmt with firmware := s.mgmt.firmware.set (s.arg 0) s.data } }
  else .next s

/-! ### The identity store (R502, R503) -/

/-- A byte of the identity store. -/
def Mgmt.identity (m : Mgmt) (off : Nat) : Byte :=
  let of (x lo : Nat) : Byte := BitVec.ofNat 8 (x / 2 ^ (8 * (off - lo)))
  if off < 4 then of 0x41554C31 0
  else if off < 8 then of 1 4
  else if 16 ≤ off ∧ off < 24 then of 61701 16
  else if 512 ≤ off ∧ off < 544 then of m.outA 512
  else if 544 ≤ off ∧ off < 576 then of m.outB 544
  else if 576 ≤ off then 0xFF
  else Config.identityByte off

/-! ### Power and temperature (R505 to R507) -/

/-- CAP as it acts. -/
def Mgmt.cap (m : Mgmt) : Nat := max 1000 (min 5000 (m.pwrcap.toNat % 65536))

/-- The throttle level 10 µs later (R506). -/
def Mgmt.throttled (m : Mgmt) : Nat :=
  if m.cap < m.pwr ∨ 105 ≤ m.tj then min 15 (m.throttle + 1)
  else if 100 * m.pwr < 98 * m.cap ∧ m.tj < 100 then m.throttle - 1
  else m.throttle

/-- R507: every FCFG.EN goes to 0, THERMAL_TRIP is reported, and core power is removed. -/
def State.trip (s : State) : State :=
  let s1 := (List.range 64).foldl (fun s f => if f = 0 then s else s.setFn f { s.fn f with fcfg := (s.fn f).fcfg &&& ~~~(1 : DWord) }) s
  let s2 := s1.event [0] 0 0x0E 0 0 (BitVec.ofNat 64 s.mgmt.tj)
  { s2 with mgmt := { s2.mgmt with tripped := true } }

/-- THROTTLE_UPDATE (R505 to R507): arguments are the power in W and the temperature in °C as measured. -/
def execThrottleUpdate (s : State) : Outcome State Fault Refusal :=
  let m := { s.mgmt with pwr := s.arg 0 % 65536, tj := s.arg 1 % 256 }
  let s1 := { s with mgmt := { m with throttle := m.throttled } }
  .next (if 115 ≤ m.tj ∧ !m.tripped then s1.trip else s1)

/-! ### Error logs (R37, R40, R508, R509) -/

/-- ELOGS.V written as 1 clears the whole slot. -/
def State.clearElog (s : State) (a : Nat) : State :=
  let e := s.mgmt.elog.get {} a
  { s with mgmt := { s.mgmt with elog := s.mgmt.elog.set a { e with elogs := 0, eloga := 0 } } }

/-- ELOG_CLEAR (R508): the argument is the slot. -/
def execElogClear (s : State) : Outcome State Fault Refusal := .next (s.clearElog (s.arg 0 % 64))

/-- The context that owns a unit of HBM: the function whose stage 2 maps it, else the PF. -/
def State.ownerOf (s : State) (u : Nat) : Nat :=
  match s.fns.find? (fun (f, _) => f != 0 && (s.s2Leaves f).any (fun (_, h, n) => decide (h ≤ u) && decide (u < h + n))) with
  | some (f, _) => f
  | none => 0

/-- HBM_SCRUB (R40): the argument is the stack; errors of its cells are logged, and those that can be are corrected. -/
def execHbmScrub (s : State) : Outcome State Fault Refusal :=
  let mine (u : Nat) : Bool := decide (u < sliceBase) && Config.stackOf u % 16 == s.arg 0
  let s1 := (s.faulty.filter (fun (u, _) => mine u)).foldl (fun s (u, dbl) => s.logError (s.arg 0 % 16) 0 0 (s.ownerOf u) u dbl) s
  .next { s1 with faulty := s1.faulty.filter (fun ((u, dbl) : Nat × Bool) => dbl || !mine u) }

/-! ### Errors of arrays that have no address (R37, R509)

EINJ arms an error of the register file, an instruction cache, the state of queues, directories, frames, rings and barriers, the mesh or a
host link; which element, line, block, task or packet its offset names is stated nowhere, and is free (log 68). -/

/-- The kind of an armed injection that names no check unit of memory (R508, R509). -/
def Elog.armedKind (e : Elog) (slot : Nat) : Option Nat :=
  let k := e.einj.toNat / 4 % 8
  let fits := (decide (3 ≤ k) && decide (k ≤ 5) && decide (16 ≤ slot) && decide (slot < 48)) ||
    (k == 6 && decide (48 ≤ slot) && decide (slot < 58)) || (k == 7 && (slot == 58 || slot == 59))
  if e.einj.getLsbD 0 && fits then some k else none

/-- An injected error of an array comes about: the injection is over, and the error is logged with its owner. -/
def State.strike (s : State) (slot kind fn : Nat) (uc : Bool) : State :=
  let e := s.mgmt.elog.get {} slot
  let s1 := { s with mgmt := { s.mgmt with elog := s.mgmt.elog.set slot { e with einj := e.einj &&& ~~~(1 : DWord) } } }
  s1.tellError slot kind (e.einj.toNat / 32 % 8) fn e.einja.toNat uc

/-- Something picked freely among some; the state as it was where there is none. -/
def State.pickOf {α : Type} (s : State) (l : List α) (f : State → α → State) : State :=
  let (k, s1) := s.drawPick l.length
  match l[k]? with
  | some x => f s1 x
  | none => s

/-- The waves that stand on a core. -/
def State.wavesOn (s : State) (core : Nat) : List (Nat × Nat) :=
  (s.blocks.filter (fun (_, b) => b.core == some core)).flatMap (fun (k, b) => (b.waves.filter (fun (_, w) => !w.ended)).map (fun (i, _) => (k, i)))

/-- A lane element of a wave's window fails its parity and is poisoned (R37, R171). -/
def State.strikeReg (s : State) (slot core : Nat) : State :=
  s.pickOf (s.wavesOn core) (fun s (b, k) =>
    let (r, s1) := s.drawPick (32 * (s.wave b k).window)
    let w := s1.wave b k
    let x := w.v.get {} r
    (s1.setWave b k { w with v := w.v.set r { x with poison := true } }).strike slot 3 (s.block b).fn true)

/-- The POISON record of a block whose state is lost (R37). -/
def State.lostRecord (s : State) (blk : Nat) : State :=
  let b := s.block blk
  let f := s.fn b.fn
  let r : TrapRec := { id := s.serial, fn := b.fn, cause := .poison, blk := b.handle, byWave := false, blkId := blk }
  { s.setFn b.fn { f with recs := f.recs ++ [r] } with serial := s.serial + 1 }

/-- The POISON record of a queued task whose state is lost (R37). -/
def State.lostTask (s : State) (t : Task) : State :=
  let f := s.fn t.fn
  let r : TrapRec := { id := s.serial, fn := t.fn, cause := .poison, byWave := false }
  { s.setFn t.fn { f with recs := f.recs ++ [r] } with serial := s.serial + 1, tasks := s.tasks.filter (fun x => x.id != t.id) }

/-- State of a queue, a directory, a frame, a ring or a barrier of a core fails (R37): one flipped bit is corrected; two raise POISON to the
owning context, and the affected block or task is not resumed. -/
def State.strikeState (s : State) (slot core : Nat) (dbl : Bool) : State :=
  let blocks := (s.blocks.filter (fun (_, b) => b.core == some core)).map (fun (k, _) => (k : Nat))
  let tasks := s.tasks.filter (fun t => t.core == core)
  s.pickOf (blocks.map (Sum.inl (β := Task)) ++ tasks.map (Sum.inr (α := Nat))) (fun s x =>
    match x with
    | .inl b =>
      let s1 := s.strike slot 5 (s.block b).fn dbl
      if dbl then (s1.lostRecord b).abandonBlock b else s1
    | .inr t =>
      let s1 := s.strike slot 5 t.fn dbl
      if dbl then s1.lostTask t else s1)

/-- A line of an instruction cache fails (R37): it is corrected, or discarded and fetched again. -/
def State.strikeCode (s : State) (slot core : Nat) (dbl : Bool) : State :=
  s.pickOf (s.core core).icache (fun s (line, _) =>
    let owner := match s.blocks.find? (fun (_, b) => b.core == some core) with | some (_, b) => b.fn | none => 0
    let s1 := s.strike slot 4 owner dbl
    if dbl then s1.setCore core { s1.core core with icache := (s1.core core).icache.erase line } else s1)

/-- A packet of the mesh or of a host link is hit (R37): its CRC fails once, and it is sent again. -/
def State.strikePacket (s : State) (slot kind : Nat) : State :=
  let (f, s1) := s.drawPick 64
  s1.strike slot kind f false

/-- An armed injection comes about. -/
def State.strikeSlot (s : State) (slot kind : Nat) : State :=
  let e := s.mgmt.elog.get {} slot
  let core := 8 * (slot - 16) + e.einj.toNat / 32 % 8
  let dbl := e.einj.getLsbD 1
  match kind with
  | 3 => s.strikeReg slot core
  | 4 => s.strikeCode slot core dbl
  | 5 => s.strikeState slot core dbl
  | _ => s.strikePacket slot kind

/-- Armed injections of arrays that have no address come about at free times (R509). -/
def State.strikes (s : State) : State :=
  s.mgmt.elog.foldl (fun s (slot, e) =>
    match e.armedKind slot with
    | none => s
    | some kind =>
      let (go, s1) := s.drawBool
      if go then s1.strikeSlot slot kind else s1) s

/-- HOST_LINK_DOWN (R37): the argument is the Limpador port, which goes down. -/
def execHostLinkDown (s : State) : Outcome State Fault Refusal :=
  let p := s.arg 0 % 2
  .next (({ s with mgmt := { s.mgmt with hostDown := s.mgmt.hostDown ||| (1#2 <<< p) } } : State).event [0] 0 0x0D 0 0 (BitVec.ofNat 64 p))

/-! ### The eviction handshake (R510 to R512) -/

/-- A write of EVICTCTL.GO (R511). -/
def State.evGo (s : State) : State :=
  match s.mgmt.ev with
  | .migrate | .drain => s
  | _ =>
    let ok := (List.range 64).all (fun f => f == 0 || !s.enabled f || s.evListed.contains f)
    let s1 := { s with mgmt := { s.mgmt with goAt := s.clock, done := [], arming := [], ev := if ok then .migrate else .failed } }
    if !ok then s1
    else if s1.evListed.isEmpty then
      ((List.range 96).filter portExists).foldl (fun s p => s.portReconfSet p) { s1 with mgmt := { s1.mgmt with ev := .drain } }
    else s1.evAssign

/-- EVICTCTL_GO (R511). -/
def execEvictctlGo (s : State) : Outcome State Fault Refusal := .next s.evGo

/-- The answer to an ARM request (R512): 0 armed, 1 busy, 2 refused. -/
def State.armSession (s : State) (pfunc : Nat) (who : Triple) : Nat × State :=
  match (s.sessionsWhere (fun x => x.state == .idle)).find? (fun k => !s.mgmt.arming.any (fun (_, j, _) => j == k)) with
  | none => (1, s)
  | some k =>
    if s.mgmt.save = 0 then (1, s)
    else if !s.enabled pfunc || !s.canReceive pfunc (s.logicalParts pfunc) then (2, s)
    else (0, (s.evProgram k pfunc true who).goReceive k)

/-- EVICT_ARM_REQUEST (R512): an ARM request reaches the partner, or its answer comes back.  The argument is the place of the packet
in the inbox. -/
def execEvictArmRequest (s : State) : Outcome State Fault Refusal :=
  match s.inboxAt (s.arg 0) with
  | none => .next s
  | some p =>
    let off := s.dropInbox (s.arg 0)
    match p.body with
    | .arm f =>
      let (code, s1) := (off.allowFor p).armSession p.dst.func { p.src with func := f }
      .next (s1.answerTo p (.armAns code f))
    | .armAns code f =>
      match off.mgmt.arming.find? (fun (g, _, _) => g == f) with
      | none => .next off
      | some (_, k, _) =>
        if code = 1 then .next off
        else
          let s1 := { off with mgmt := { off.mgmt with arming := off.mgmt.arming.filter (fun (x : Nat × Nat × Nat) => x.1 != f) } }
          .next (if code = 0 then s1.goSource k else s1.endSession k 4)
    | _ => .next s

/-- EVICT_ARM_RETRY (R512): the request goes out again 1 ms after the last.  The argument is the function. -/
def execEvictArmRetry (s : State) : Outcome State Fault Refusal :=
  match s.mgmt.arming.find? (fun (g, _, _) => g == s.arg 0) with
  | some (f, k, t) => if s.mgmt.ev == .migrate && decide (t + 1000 * usec ≤ s.clock) then .next (s.evAsk f k) else .next s
  | none => .next s

/-- EVICT_TIMEOUT (R511): 30 s since GO. -/
def execEvictTimeout (s : State) : Outcome State Fault Refusal :=
  if (s.mgmt.ev == .migrate || s.mgmt.ev == .drain) && decide (s.mgmt.goAt + 30000000 * usec ≤ s.clock) then
    .next (((List.range 96).filter portExists).foldl (fun s p => s.portReconfClear p) s.evFail)
  else .next s

end Sys2Proof.Machine
end

