-- ==== Sys2Proof/Machine/Trap.lean ====
section
/-!
DEFINITION. Sys2Proof/Machine/Trap.lean: the instructions of the trap unit, opcodes 0xE0 to 0xE5 and 0xFF, the production of trap
records, and the registers of the trap ring and of answers (R349 to R369, R407, R408).
-/

namespace Sys2Proof.Machine

open Host

/-! ### TRAP (R366) -/

/-- The code of TRAP and HOSTCALL: the low halfword of a register, or IMM16. -/
def trapCode (w : Wave) (e : Enc) (code : BitVec 8) : Except Cause Word :=
  match e.len with
  | .l64 => (w.sCode code).use
  | _ => .ok (e.imm16.setWidth 32)

/-- TRAP (R366). -/
def execTrap (e : Enc) (s : State) : Outcome State Fault Refusal :=
  s.issue (.trap e) e false (fun s c =>
    match trapCode (s.ctxWave c) e e.src0 with
    | .error k => Res.uni s k
    | .ok x => .after (s.release c.blk c.wave) { cause := .trapUser, aux2 := x &&& 0xFFFF })

/-! ### EMRD and EMWR (R359, R363, R367) -/

/-- The register limit of the faulting context (R71, R359). -/
def Wave.outerLimit (w : Wave) : Nat := w.window + (w.emdepth - 1) * w.emWindow

/-- What a selector names (R359). -/
inductive Selected where
  | reg (code : Nat)
  | latch (n : Nat)
  | latchInfo (n : Nat)
  | pred
  | word (n : Nat)
  deriving DecidableEq, Repr

/-- A selector word (R359). -/
def selected (x : Word) : Option Selected :=
  let i := x.toNat % 256
  if 2048 ≤ x.toNat then none
  else
    match x.toNat / 256 with
    | 0 => some (.reg i)
    | 1 => if i < 4 then some (.latch i) else none
    | 2 => if i < 4 then some (.latchInfo i) else none
    | 3 => if i = 0 then some .pred else none
    | 4 => if i < 7 then some (.word i) else none
    | _ => none

/-- The frame of the handler that runs. -/
def Wave.frame (w : Wave) : Frame := w.frames.headD {}

/-- A lane of the frame with its pending latch writes applied. -/
def Frame.latchLane (w : Wave) (f : Frame) (l n : Nat) : LatchLane :=
  let mine := f.pending.filter (fun p => p.lane == l && (p.target == .latchVal n || p.target == .latchMeta n))
  (((mine.foldl applyPending (w, f)).2.lanes.get {} l).latches).get {} n

/-- A v register of the faulting fibre, a pending write included. -/
def Wave.outerV (w : Wave) (f : Frame) (l code : Nat) : Except Cause PWord :=
  let r := (f.lanes.get {} l).base + code
  if w.outerLimit ≤ r then .error .accessFault
  else .ok ((f.pend (.v r) l).getD (w.vAt r l))

/-- The PC of the faulting fibre or of the stream, before pending writes. -/
def Frame.pcOf (f : Frame) (stream : Option Stream) (l : Nat) : DWord :=
  match f.stream, stream with
  | true, some m => m.pc
  | _, _ => (f.lanes.get {} l).pc

/-- The lane whose pending writes hold a PC: the stream has one (R363). -/
def Frame.pcLane (f : Frame) (l : Nat) : Nat := if f.stream then 0 else l

/-- What EMRD reads in a lane (R359, R363). -/
def emRead (w : Wave) (stream : Option Stream) (l : Nat) (sel : Selected) : Except Cause PWord :=
  let f := w.frame
  let x := f.lanes.get {} l
  let clean (v : Word) : Except Cause PWord := .ok ⟨v, false⟩
  match sel, f.stream with
  | .reg _, true | .latch _, true | .latchInfo _, true | .pred, true => clean 0
  | .reg i, false => if i < 192 then w.outerV f l i else .ok ((f.pend (.s (i - 192)) 0).getD (f.sregs.get {} (i - 192)))
  | .latch n, false =>
    let y := f.latchLane w l n
    if y.valid then .ok y.val else if y.nwb then .error .latchLost else w.outerV f l y.tag.toNat
  | .latchInfo n, false =>
    let y := f.latchLane w l n
    clean (BitVec.ofNat 32 (y.tag.toNat + (if y.nwb then 256 else 0) + (if y.valid then 512 else 0)))
  | .pred, false => clean ((match f.pend .pred l with | some p => p.val | none => x.pred) ||| predReset)
  | .word n, _ =>
    match n with
    | 0 => clean ((match f.pend .fpstat l with | some p => p.val | none => x.fpstat) &&& 0x1F)
    | 1 => clean ((match f.pend .fpctl 0 with | some p => p.val | none => f.fpctl) &&& 3)
    | 2 => clean (match f.pend .pcLo (f.pcLane l) with | some p => p.val | none => (f.pcOf stream l).setWidth 32)
    | 3 => clean ((match f.pend .pcHi (f.pcLane l) with | some p => p.val | none => (f.pcOf stream l >>> 32).setWidth 32) &&& 0x7FFFFF)
    | 4 => clean f.doneMask
    | 5 => clean (BitVec.ofNat 32 x.base)
    | _ => clean (w.lane l).fibid

/-- The selector of EMRD and EMWR. -/
def emSelector (w : Wave) (e : Enc) : Except Cause Selected := do
  let x ← (w.sCode e.src0).use
  match selected x with
  | some y => .ok y
  | none => .error .accessFault

/-- EMRD and EMWR outside emulation mode are undefined encodings (R361). -/
def State.inHandler (s : State) (e : Enc) : Bool :=
  match s.ctx e with
  | some c => (s.ctxWave c).emdepth != 0
  | none => true

/-- EMRD (R367). -/
def execEmrd (e : Enc) (s : State) : Outcome State Fault Refusal :=
  if !s.inHandler e then s.issueEmulated (.emrd e) 0xE1 e (rawOf (.emrd e)) false
  else
    s.issue (.emrd e) e true (fun s c =>
      lanesBody e (fun c w l => do
        let sel ← emSelector w e
        w.withDst l e 1 ((emRead w (s.block c.blk).stream l sel).map (fun x => { words := [x] }))) s c)

/-- The pending write of EMWR in a lane: none where the write is ignored (R359, R363). -/
def emTarget (w : Wave) (l leader : Nat) (sel : Selected) : Except Cause (Option (EmTarget × Nat)) :=
  let f := w.frame
  match sel, f.stream with
  | .reg _, true | .latch _, true | .latchInfo _, true | .pred, true => .ok none
  | .reg i, false =>
    if i < 192 then
      let r := (f.lanes.get {} l).base + i
      if w.outerLimit ≤ r then .error .accessFault else .ok (some (.v r, l))
    else .ok (if l = leader then some (.s (i - 192), 0) else none)
  | .latch n, false => .ok (some (.latchVal n, l))
  | .latchInfo n, false => .ok (some (.latchMeta n, l))
  | .pred, false => .ok (some (.pred, l))
  | .word n, str =>
    .ok (match n with
      | 0 => some (.fpstat, l)
      | 1 => if l = leader then some (.fpctl, 0) else none
      | 2 => if str then (if l = leader then some (.pcLo, 0) else none) else some (.pcLo, l)
      | 3 => if str then (if l = leader then some (.pcHi, 0) else none) else some (.pcHi, l)
      | _ => none)

/-- The data of EMWR: a register or latch value moves with its poison; what goes anywhere else is consumed (R39). -/
def emData (w : Wave) (l : Nat) (e : Enc) (sel : Selected) : Except Cause PWord := do
  let x ← w.readSrc l e.sl1 e.src1
  match sel with
  | .reg _ | .latch _ => .ok x
  | _ => (x.use).map (fun v => ⟨v, false⟩)

/-- Add a pending write: the later write to a target and lane replaces the earlier (R359). -/
def Frame.addPending (f : Frame) (p : EmWrite) : Frame :=
  { f with pending := f.pending.filter (fun q => !(q.target == p.target && q.lane == p.lane)) ++ [p] }

/-- The write sets reserved bits of %fpstat or %fpctl (R3, R141, R142). -/
def EmWrite.reserved (p : EmWrite) : Bool :=
  match p.target with
  | .fpstat => p.val.val &&& 0xFFFFFFE0 != 0
  | .fpctl => p.val.val &&& 0xFFFFFFFC != 0
  | _ => false

/-- EMWR (R367).  Reserved bits of %fpstat and %fpctl that it sets count once in RSVWRITE, at the EMWR (R3, log 151). -/
def execEmwr (e : Enc) (s : State) : Outcome State Fault Refusal :=
  if !s.inHandler e then s.issueEmulated (.emwr e) 0xE2 e (rawOf (.emwr e)) false
  else
    s.issue (.emwr e) e true (fun s c =>
      let w := s.ctxWave c
      let one (l : Nat) : Except Cause (Option EmWrite) := do
        let sel ← emSelector w e
        let x ← emData w l e sel
        let t ← emTarget w l c.leader sel
        .ok (t.map (fun (t, k) => { target := t, lane := k, val := x }))
      let rs := (lanesOf c.acting).map (fun l => (l, one l))
      let bad := rs.filterMap (fun (l, r) => match r with | .error k => some (l, k) | .ok _ => none)
      match bad with
      | (_, k) :: _ => .fault s { cause := k, lanes := maskOf (bad.map (·.1)), perFibre := true }
      | [] =>
        let ws := rs.filterMap (fun (_, r) => match r with | .ok (some p) => some p | _ => none)
        let f := ws.foldl (fun f p => f.addPending p) w.frame
        if 96 < f.pending.length then .fault s { cause := .accessFault, lanes := c.acting, perFibre := true }
        else
          let s1 := s.setCtxWave c { w with frames := f :: w.frames.drop 1 }
          Res.next (if ws.any EmWrite.reserved then s1.bumpRsv (s1.ctxFn c) else s1))

/-! ### EMRET and EMSKIP (R360) -/

/-- The end of a handler by an instruction. -/
def leaveBody (commit : Bool) (s : State) (c : Ctx) : Res :=
  match s.leaveHandler c.blk c.wave commit with
  | .inl s1 => .stay s1
  | .inr k => Res.uni s k

/-- EMRET (R360). -/
def execEmret (e : Enc) (s : State) : Outcome State Fault Refusal :=
  if !s.inHandler e then s.issueEmulated (.emret e) 0xE3 e (rawOf (.emret e)) false
  else s.issue (.emret e) e true (leaveBody true)

/-- EMSKIP (R360). -/
def execEmskip (e : Enc) (s : State) : Outcome State Fault Refusal :=
  if !s.inHandler e then s.issueEmulated (.emskip e) 0xE4 e (rawOf (.emskip e)) false
  else s.issue (.emskip e) e true (leaveBody false)

/-- XOP (R365): always an encoding to emulate. -/
def execXop (e : Enc) (s : State) : Outcome State Fault Refusal := s.issueEmulated (.xop e) 0xFF e (rawOf (.xop e)) false

/-! ### HOSTCALL (R368) -/

/-- The KIND 5 record of HOSTCALL (R351, R368). -/
def State.hostRecord (s : State) (c : Ctx) (i : Instr) (arg : DWord) (service : Word) (ans : Bool) (resume : Resume) : TrapRec :=
  { s.trapRecord c (rawOf i) { cause := .none, aux := arg, aux2 := service, resume := resume } with kind := 5, ans := ans }

/-- The operands of HOSTCALL. -/
def hostOperands (w : Wave) (e : Enc) : Except Cause (DWord × Word) := do
  let a ← w.useSPairAt e.src0
  let x ← trapCode w e e.src1
  .ok (a, x)

/-- HOSTCALL, posted (R354, R368): the wave stalls until its record is produced. -/
def execHostcall (e : Enc) (s : State) : Outcome State Fault Refusal :=
  s.issue (.hostcall e) e false (notInUnit e (fun s c =>
    match hostOperands (s.ctxWave c) e with
    | .error k => Res.uni s k
    | .ok (a, x) =>
      let s1 := s.release c.blk c.wave
      let r := s1.hostRecord c (.hostcall e) a x false .nothing
      let f := s1.fn r.fn
      let s2 := { s1.setFn r.fn { f with recs := f.recs ++ [r] } with serial := s1.serial + 1 }
      .ok (s2.parkLanes c e c.members (.record r.id r.stalled)) false 0))

/-- HOSTCALL.WAIT (R368): the block is saved until its record is answered. -/
def execHostcallWait (e : Enc) (s : State) : Outcome State Fault Refusal :=
  s.issue (.hostcallWait e) e false (notInUnit e (fun s c =>
    match hostOperands (s.ctxWave c) e with
    | .error k => Res.uni s k
    | .ok (a, x) =>
      let s1 := s.release c.blk c.wave
      let r := s1.hostRecord c (.hostcallWait e) a x true (.hostcall (e.dst.toNat - 192))
      .stay ((s1.finish c false 0).stopOn c.blk c.wave { r with id := s1.serial })))

/-! ### Trap records (R350, R354, R407) -/

/-- The 64 bytes of a trap record (R350). -/
def TrapRec.bytes (r : TrapRec) (seq : Nat) : List Byte :=
  let b (x : Bool) (n : Nat) : Nat := if x then 2 ^ n else 0
  bytesOfNat 64 (r.cause.code + b r.ans 8 + b r.def_ 9 + r.kind * 2 ^ 10 + r.depth * 2 ^ 13 + r.lane * 2 ^ 16 + seq * 2 ^ 32 +
    (r.pc.toNat % 2 ^ 55) * 2 ^ 64 + r.fva.toNat * 2 ^ 128 + r.iw0.toNat * 2 ^ 192 + r.iw1.toNat * 2 ^ 256 + r.iw2.toNat * 2 ^ 288 +
    (r.blk % 2 ^ 32) * 2 ^ 320 + r.wave % 32 * 2 ^ 352 + r.obj.toNat * 2 ^ 360 + r.aux.toNat * 2 ^ 384 + r.fmask.toNat * 2 ^ 448 +
    r.aux2.toNat * 2 ^ 480)

/-- ACC of a syndrome (R407). -/
def Acc.code (a : Acc) : Nat :=
  match a with
  | .read | .any => 0
  | .write => 1
  | .readWrite => 2
  | .fetch => 3
  | .walk => 4

/-- The 32 bytes of a syndrome (R407). -/
def Syndrome.bytes (y : Syndrome) (seq : Nat) : List Byte :=
  bytesOfNat 32 (seq + y.stage * 2 ^ 32 + y.level * 2 ^ 34 + y.type * 2 ^ 36 + (if y.tab then 2 ^ 39 else 0) + y.acc.code * 2 ^ 40 +
    y.va * 2 ^ 64 + y.gpa * 2 ^ 128)

/-- The base of the syndrome array (R403). -/
def Fn.tfBase (f : Fn) : Nat := f.tfbase.toNat % 2 ^ 56 / 4096 * 4096

/-- Write the syndrome of a record, if it has one (R407): a page that does not translate disables the array (R421). -/
def State.writeSyndrome (s : State) (fn : Nat) (r : TrapRec) : State :=
  let f := s.fn fn
  match r.syn with
  | none => s
  | some y =>
    if !f.tfbase.getLsbD 0 then s
    else
      let gpa := f.tfBase + 32 * (f.trprod.toNat % ringSize f.trctl)
      let off := (s.setFn fn { f with tfbase := f.tfbase &&& ~~~(1 : DWord) }).badBase fn 3 0 f.tfBase
      if s.s2PagesOk fn f.tfBase (32 * ringSize f.trctl) .write then (s.s2Write fn gpa (y.bytes f.trprod.toNat)).getD off else off

/-- The record's cause arose in a stage-2 walk (R408). -/
def TrapRec.stage2 (r : TrapRec) : Bool := match r.syn with | some y => y.stage == 2 | none => false

/-- A posted record has been produced: the wave that waits for it goes on (R368). -/
def State.wakeRecord (s : State) (id : Nat) : State := s.mapWaves (fun w => w.wakeWhere (fun y => match y with | .record k _ => k == id | _ => false))

/-- Take the record at a place off the list that waits to be produced. -/
def Fn.dropRec (f : Fn) (id : Nat) : Fn := { f with recs := f.recs.filter (fun r => r.id != id) }

/-- TRAP_RECORD_PRODUCE (R354, R407): arguments are the function and the place of the record among those that wait. -/
def execTrapRecordProduce (s : State) : Outcome State Fault Refusal :=
  let fn := s.arg 0
  let f := s.fn fn
  match f.recs[s.arg 1]? with
  | none => .next s
  | some r =>
    if f.trctl.getLsbD 0 && !s.s2PagesOk fn (ringBase f.trbase) (64 * ringSize f.trctl) .write then
      .next ((s.setFn fn { f with trctl := ringOff f.trctl }).badBase fn 1 0 (ringBase f.trbase))
    else if !ringRoomFor f.trctl f.trprod f.trcons then
      .next (if r.byWave || r.ans then s
        else s.setFn fn { f.dropRec r.id with trctl := ringLost f.trctl })
    else
      let gpa := ringBase f.trbase + 64 * (f.trprod.toNat % ringSize f.trctl)
      match s.s2Access fn gpa .write with
      | none => .next ((s.setFn fn { f with trctl := ringOff f.trctl }).badBase fn 1 0 gpa)
      | some (h, s1) =>
        let s2 := (s1.writeOut fn none h (r.bytes f.trprod.toNat) false).writeSyndrome fn r
        let g := (s2.fn fn).dropRec r.id
        let w : WaitingRec := { seq := f.trprod, addr := h, record := r, stage2 := r.stage2 }
        let s3 := s2.setFn fn
          { g with trprod := g.trprod + 1, irqs := g.irqs + 1, waiting := if r.ans then g.waiting ++ [w] else g.waiting }
        let s4 := if r.stage2 then s3.event [0] fn 0x0A (eventObj 1 0) 0 (f.trprod.setWidth 64) else s3
        .next (s4.wakeRecord r.id)

/-! ### Answers (R352, R355, R408) -/

/-- Answer the record with a SEQ (R355); AUX is read after the answer.  Host software writes 0 RETRY, 1 SKIP, 2 ABANDON. -/
def State.answerSeq (s : State) (fn seq act : Nat) (stage2 : Bool) : State :=
  let f := s.fn fn
  match f.waiting.find? (fun w => w.seq.toNat == seq && w.stage2 == stage2) with
  | none => s
  | some w =>
    let s1 := s.setFn fn { f with waiting := f.waiting.filter (fun x => x.seq != w.seq) }
    (s1.meet fn (w.addr + 48) 8).answer w.record act (s1.dwordAt (w.addr + 48))

/-- A TRANS write: a function in reset takes none (R427). -/
def State.trans (s : State) (act : Nat) : State :=
  if (s.fn (s.arg 0)).resetting then s else s.answerSeq (s.arg 0) (s.arg 1) act false

/-- TRANS_RETRY (R355): arguments are the function and SEQ. -/
def execTransRetry (s : State) : Outcome State Fault Refusal := .next (s.trans 0)
/-- TRANS_SKIP (R355): arguments are the function and SEQ. -/
def execTransSkip (s : State) : Outcome State Fault Refusal := .next (s.trans 1)
/-- TRANS_ABANDON (R355): arguments are the function and SEQ. -/
def execTransAbandon (s : State) : Outcome State Fault Refusal := .next (s.trans 2)

/-- S2ANS_RETRY (R408): arguments are the function and SEQ. -/
def execS2ansRetry (s : State) : Outcome State Fault Refusal := .next (s.answerSeq (s.arg 0) (s.arg 1) 0 true)
/-- S2ANS_SKIP (R408): arguments are the function and SEQ. -/
def execS2ansSkip (s : State) : Outcome State Fault Refusal := .next (s.answerSeq (s.arg 0) (s.arg 1) 1 true)
/-- S2ANS_ABANDON (R408): arguments are the function and SEQ. -/
def execS2ansAbandon (s : State) : Outcome State Fault Refusal := .next (s.answerSeq (s.arg 0) (s.arg 1) 2 true)

/-! ### The trap ring's registers (R352, R353) -/

/-- A write to TRCTL (R352, R353). -/
def State.writeTrctl (s : State) (fn : Nat) (v : Word) : State :=
  let f := s.fn fn
  let c := ringCtlWrite f.trctl v
  let s1 := s.countRsv fn (v &&& 0xFF00 != 0)
  if c.getLsbD 0 then
    let ok := s.s2PagesOk fn (ringBase f.trbase) (64 * ringSize c) .write
    let s2 := s1.setFn fn { s1.fn fn with trctl := ringChecked c ok }
    if ok then s2 else s2.badBase fn 1 0 (ringBase f.trbase)
  else s1.setFn fn { s1.fn fn with trctl := c }

/-- TRCTL_ENABLE (R353): arguments are the function and the value, whose EN is 1. -/
def execTrctlEnable (s : State) : Outcome State Fault Refusal :=
  .next (if (s.fn (s.arg 0)).resetting then s else s.writeTrctl (s.arg 0) (BitVec.ofNat 32 (s.arg 1) ||| 1))

/-- TRCTL_LOST_CLEAR (R352): arguments are the function and the value, whose LOST is 1. -/
def execTrctlLostClear (s : State) : Outcome State Fault Refusal :=
  .next (if (s.fn (s.arg 0)).resetting then s else s.writeTrctl (s.arg 0) (BitVec.ofNat 32 (s.arg 1) ||| 0x40))

/-- A write to TRCONS (R353). -/
def State.writeTrcons (s : State) (fn : Nat) (v : Word) : State :=
  let f := s.fn fn
  if consBeyond v f.trcons f.trprod then s.consBad fn 1 v else s.setFn fn { f with trcons := v }

/-- TRCONS_WRITE (R353): arguments are the function and the value. -/
def execTrconsWrite (s : State) : Outcome State Fault Refusal :=
  .next (if (s.fn (s.arg 0)).resetting then s else s.writeTrcons (s.arg 0) (BitVec.ofNat 32 (s.arg 1)))

end Sys2Proof.Machine
end

