-- ==== Sys2Proof/Machine/Registers.lean ====
section
/-!
DEFINITION. Sys2Proof/Machine/Registers.lean: the register windows as the Limpador link and the Mboix bus reach them (R3, R411 to
R413, R499).
-/

namespace Sys2Proof.Machine

open Host

/-! ### A register (R3) -/

/-- A register as an access meets it: what it reads, its RW fields, its RSV bits, whether only a write that carries its bits [31:0]
acts, and what a write does. -/
structure Reg where
  read : DWord := 0
  rw : DWord := 0
  rsv : DWord := 0
  low : Bool := true
  write : DWord → State → State := fun _ s => s

/-- The bits of a 64-bit register that an access of 4 or 8 bytes carries. -/
def accessMask (off size : Nat) : DWord :=
  if size = 8 then BitVec.allOnes 64 else if off % 8 = 4 then 0xFFFFFFFF00000000 else 0xFFFFFFFF

/-- The accesses that R411 carries. -/
def accessOk (off size : Nat) : Bool := (size == 4 && off % 4 == 0) || (size == 8 && off % 8 == 0)

/-- A write of R411 and R3; `payer` is the function whose RSVWRITE counts. -/
def State.regWrite (s : State) (payer : Nat) (r : Option Reg) (off size v : Nat) : State :=
  if !accessOk off size then s
  else
    let mask := accessMask off size
    let given : DWord := BitVec.ofNat 64 (if off % 8 = 4 then v * 2 ^ 32 else v) &&& mask
    match r with
    | none => s.countRsv payer (given != 0)
    | some r =>
      let s1 := s.countRsv payer (given &&& r.rsv != 0)
      if r.low && !mask.getLsbD 0 then s1 else r.write ((given &&& ~~~r.rsv) ||| (r.read &&& r.rw &&& ~~~mask)) s1

/-- A read of R411. -/
def regRead (r : Option Reg) (off size : Nat) : Nat :=
  if !accessOk off size then 0
  else
    match r with
    | none => 0
    | some r => if off % 8 = 4 then r.read.toNat / 2 ^ 32 else r.read.toNat % 2 ^ (8 * size)

/-! ### The function window (R412) -/

/-- A write that sets a field of the function. -/
def putFn (fn : Nat) (g : DWord → Fn → Fn) : DWord → State → State := fun v s => s.setFn fn (g v (s.fn fn))

/-- The registers of a launch queue (R370). -/
def State.queueReg (s : State) (fn off : Nat) : Reg :=
  let q := (off - 0x1000) / 32
  let rd := s.windowReg fn (off / 8 * 8)
  let put (g : DWord → Queue → Queue) : DWord → State → State :=
    putFn fn (fun v f => { f with queues := f.queues.set q (g v (f.queues.get {} q)) })
  match off / 8 % 4 with
  | 0 => { read := rd, rw := 0x00FFFFFFFFFFFFFF, rsv := 0xFF00000000000000, low := false, write := put (fun v q => { q with base := v }) }
  | 1 => { read := rd, rw := 0x3F, rsv := 0xFFFFFFFFFFFFFFC0, write := fun v s => s.writeLqctl fn q (v.setWidth 32) }
  | 2 => { read := rd, rsv := 0xFFFFFFFF00000000 }
  | _ => { read := rd, rsv := 0xFFFFFFFFF0000000 }

/-- The register of the function window at an offset. -/
def State.fnReg (s : State) (fn off : Nat) : Option Reg :=
  let o := off / 8 * 8
  let rd := s.windowReg fn o
  let w (v : DWord) : Word := v.setWidth 32
  let base : DWord := 0xFF00000000000000
  let hi : DWord := 0xFFFFFFFF00000000
  if 0x1000 ≤ o ∧ o < 0x1200 then some (s.queueReg fn o)
  else if 0x1400 ≤ o ∧ o < 0x1480 then
    some { rsv := hi, write := fun v s => s.notify fn ((o - 0x1400) / 8) (v.toNat % 2 ^ 32) }
  else if 0x100 ≤ o ∧ o < 0x140 then
    some { read := rd, rw := BitVec.allOnes 64, low := false
           write := putFn fn (fun v f => { f with scbase := f.scbase.set ((o - 0x100) / 8) v }) }
  else if 0x260 ≤ o ∧ o < 0x280 then
    some { read := rd, rw := BitVec.allOnes 64, low := false
           write := putFn fn (fun v f => { f with odis := f.odis.set ((o - 0x260) / 8) v }) }
  else if 0xA0 ≤ o ∧ o < 0xC0 then some { read := rd }
  else
    match o with
    | 0x000 => some { read := rd, rsv := 0xFFFFFFFFFFFFC0F8 }
    | 0x008 => some { rsv := 0xFFFFFFFFFFFFFFFE, write := fun v s => if v.getLsbD 0 then s.startReset fn else s }
    | 0x010 => some { read := rd, rsv := hi }
    | 0x040 => some { read := rd, rw := ~~~base, rsv := base, low := false, write := putFn fn (fun v f => { f with evbase := v }) }
    | 0x048 => some { read := rd, rsv := hi ||| 0xFF00, write := fun v s => s.writeEvctl fn (w v) }
    | 0x050 => some { read := rd, rsv := hi }
    | 0x058 => some { read := rd, rsv := hi, write := fun v s => s.writeEvcons fn (w v) }
    | 0x080 => some { read := rd, rsv := ~~~0x7F, write := fun v s => s.writeVestat fn v }
    | 0x088 => some { read := rd, rsv := ~~~0x7F, write := putFn fn (fun v f => { f with vemask := v }) }
    | 0x090 => some { read := rd, rsv := ~~~0x7F, write := putFn fn (fun v f => { f with vesev := v }) }
    | 0x098 => some { read := rd, rsv := ~~~0xF }
    | 0x200 => some { read := rd, rw := ~~~base, rsv := base, low := false, write := putFn fn (fun v f => { f with trbase := v }) }
    | 0x208 => some { read := rd, rsv := hi ||| 0xFF00, write := fun v s => s.writeTrctl fn (w v) }
    | 0x210 => some { read := rd, rsv := hi }
    | 0x218 => some { read := rd, rsv := hi, write := fun v s => s.writeTrcons fn (w v) }
    | 0x220 =>
      some { rsv := 0xFFFFFFFC00000000
             write := fun v s =>
              let act := v.toNat / 2 ^ 32 % 4
              if act = 3 then s else s.answerSeq fn (v.toNat % 2 ^ 32) act false }
    | 0x240 =>
      some { read := rd, rw := 0x007FFFFFFFFFFFFD, rsv := 0xFF80000000000002, low := false
             write := putFn fn (fun v f => { f with embase := v }) }
    | 0x248 => some { read := rd, rsv := ~~~0xF, write := putFn fn (fun v f => { f with emctl := w v }) }
    | 0x300 => some { read := rd, rw := ~~~rootRsv, rsv := rootRsv, low := false, write := fun v s => s.writeS1root fn v }
    | 0x308 => some { rsv := rootRsv, write := fun v s => s.writeInv fn 1 v }
    | 0x310 => some { read := rd, rsv := hi }
    | 0x318 => some { read := rd, rw := ~~~tfbaseRsv, rsv := tfbaseRsv, low := false, write := fun v s => s.writeTfbase fn v }
    | _ => none

/-! ### The control pages (R246, R296, R403, R413, R414, R457) -/

/-- A bucket's first register (R246); its level is held in 1/64 byte. -/
def Bucket.reg (b : Bucket) : DWord := BitVec.ofNat 64 (b.rate % 2 ^ 16 + b.depth % 2 ^ 13 * 2 ^ 16 + b.level / 64 % 2 ^ 25 * 2 ^ 32)

/-- RATE and DEPTH as written. -/
def Bucket.written (b : Bucket) (v : DWord) : Bucket := { b with rate := v.toNat % 2 ^ 16, depth := v.toNat / 2 ^ 16 % 2 ^ 13 }

def bucketRsv : DWord := 0xFE000000E0000000

/-- The registers of a core's bucket of a function. -/
def State.bucketReg (s : State) (f off : Nat) : Reg :=
  let c := (off - 0x1000) / 16
  let b := (s.core c).cbkt.get {} f
  if off / 8 % 2 = 0 then
    { read := b.reg, rsv := bucketRsv
      write := fun v s => s.setCore c { s.core c with cbkt := (s.core c).cbkt.set f (((s.core c).cbkt.get {} f).written v) } }
  else { read := BitVec.ofNat 64 (b.debt / 64 % 2 ^ 21), rsv := 0xFFFFFFFFFFE00000 }

/-- TOVF as written: it waits while records lie in the area (R296). -/
def State.writeTovf (s : State) (f : Nat) (v : DWord) : State :=
  if s.tasks.any (fun t => t.fn == f && t.overflow) then s.setFn f { s.fn f with tovfNext := some v }
  else s.setFn f { s.fn f with tovf := v, tovfNext := none }

/-- FCFG as written (R414, R511): an enabled function that owns a cluster becomes ready. -/
def State.writeFcfg (s : State) (f : Nat) (v : DWord) : State :=
  if f = 0 || (v.getLsbD 0 && s.mgmt.ev != .idle) then s else (s.setFn f { s.fn f with fcfg := v }).newlyReady s [f]

/-- The register of function f's control page at an offset. -/
def State.ctlReg (s : State) (f off : Nat) : Option Reg :=
  let o := off / 8 * 8
  let x := s.fn f
  if 0x1000 ≤ o ∧ o < 0x2000 then some (s.bucketReg f o)
  else
    match o with
    | 0x00 => some { read := x.s2root, rw := ~~~s2rootRsv, rsv := s2rootRsv, low := false, write := fun v s => s.writeS2root f v }
    | 0x08 => some { rsv := rootRsv, write := fun v s => s.writeInv f 2 v }
    | 0x10 => some { read := x.s2stat.setWidth 64, rsv := 0xFFFFFFFF00000000 }
    | 0x18 =>
      some { rsv := 0xFFFFFF0000000000
             write := fun v s =>
              let act := v.toNat / 2 ^ 32 % 4
              if act = 3 ∨ v.toNat / 2 ^ 34 % 64 ≠ f then s else s.answerSeq f (v.toNat % 2 ^ 32) act true }
    | 0x20 => some { read := x.tctl, rsv := ~~~0xFFFF, write := putFn f (fun v y => { y with tctl := v }) }
    | 0x28 =>
      some { read := x.tovfNext.getD x.tovf, rw := 0x01FFFFFFFFFFFFFF, rsv := 0xFE00000000000000, low := false
             write := fun v s => s.writeTovf f v }
    | 0x40 => some { read := if f = 0 then 1 else x.fcfg, rsv := ~~~1, write := fun v s => s.writeFcfg f v }
    | 0x80 =>
      some { read := x.vdnbase, rw := 0x000FFFFFFFFF0000, rsv := 0xFFF000000000FFFF, low := false
             write := putFn f (fun v y => { y with vdnbase := v }) }
    | 0x88 => some { read := x.vdnctl, rsv := ~~~0xFFFF, write := putFn f (fun v y => { y with vdnctl := v }) }
    | 0x90 => some { rsv := ~~~1, write := fun v s => if v.getLsbD 0 then s.syncVdn f else s }
    | 0x98 => some { read := x.vdnstat, rsv := 0xFFFFFFFF00000000 }
    | 0xA0 => some { read := x.fabctl, rsv := ~~~0xFFFFF, write := putFn f (fun v y => { y with fabctl := v }) }
    | _ => none

/-! ### The device page (R246, R415 to R420, R429, R432, R493, R494, R504 to R510) -/

/-- EVICTST.STATE. -/
def EvState.code (x : EvState) : Nat := match x with | .idle => 0 | .migrate => 1 | .drain => 2 | .safe => 3 | .failed => 4

/-- PSTAT.STATE (R493). -/
def PortSt.code (x : PortSt) : Nat :=
  match x with
  | .down => 0 | .lock => 1 | .summary => 2 | .active => 3 | .draining => 4 | .quiet => 5 | .mismatch => 6 | .failed => 7

/-- The number of calendars (R420). -/
def calCount : Nat := 512 + 64 * 10

/-- CALINFO (R420). -/
def calInfo (n : Nat) : DWord :=
  if calCount ≤ n then 0 else BitVec.ofNat 64 ((if n < 512 then 0 else 1) + Config.calEnds n % 65536 * 256)

/-- Four entries of the shadow, from an entry on. -/
def State.calData (s : State) (n : Nat) : DWord :=
  BitVec.ofNat 64 ((List.range 4).foldl (fun acc i => acc + s.calShadow.get 0 (n + i) % 65536 * 2 ^ (16 * i)) 0)

/-- A write of four entries. -/
def State.writeCalData (s : State) (n : Nat) (v : DWord) : State :=
  { s with calShadow := (List.range 4).foldl (fun c i => c.set (n + i) (v.toNat / 2 ^ (16 * i) % 8192)) s.calShadow }

/-- DBMAP as written (R429). -/
def State.writeDbmap (s : State) (v : DWord) : State :=
  if v.toNat / 2 ^ 25 != s.dbmap.toNat / 2 ^ 25 && (List.range 4).any (fun k => (s.session k).state != .idle) then s else { s with dbmap := v }

/-- MGCTL's RW fields. -/
def mgctlRw : DWord := 0x007FFFFF003F0034

/-- MGCTL as written (R432, R433, R436, R439). -/
def State.writeMgctl (s : State) (k : Nat) (v : DWord) : State :=
  let x := s.session k
  let s1 := if x.state == .idle then s.setSession k { x with mgctl := v &&& mgctlRw } else s
  let y := s1.session k
  let s2 := if v.getLsbD 0 && y.state == .idle then (if y.recv then s1.goReceive k else s1.goSource k) else s1
  let s3 := if v.getLsbD 1 then s2.writeLull k else s2
  if v.getLsbD 3 then s3.writeCancel k else s3

/-- MGSTAT (R432). -/
def Session.mgstat (x : Session) : DWord :=
  BitVec.ofNat 64 (x.state.code + x.round % 256 * 2 ^ 4 + x.outcome % 16 * 2 ^ 12 + min 255 x.abandons * 2 ^ 16 + x.dcnt % 2 ^ 32 * 2 ^ 32)

/-- The register of a session at an offset from its first. -/
def State.sessionReg (s : State) (k off : Nat) : Option Reg :=
  let x := s.session k
  let put (g : DWord → Session → Session) : DWord → State → State :=
    fun v s => if (s.session k).state == .idle then s.setSession k (g v (s.session k)) else s
  match off with
  | 0x00 => some { read := x.mgctl, rw := mgctlRw, rsv := 0xFF800000FFC0FFC0, low := false, write := fun v s => s.writeMgctl k v }
  | 0x08 => some { read := x.mgshr, rsv := 0xFFFFFFFF000000C0, write := put (fun v x => { x with mgshr := v }) }
  | 0x10 =>
    some { read := x.mgsave, rw := 0x000FFFFFFFFF0000, rsv := 0xFFF000000000FFFF, low := false
           write := put (fun v x => { x with mgsave := v }) }
  | 0x18 => some { read := x.mgstat, rsv := 0xFF000000 }
  | 0x20 => some { read := BitVec.ofNat 64 x.bytes }
  | 0x28 => some { read := BitVec.ofNat 64 (x.blackout % 2 ^ 32 + x.drainUs % 2 ^ 32 * 2 ^ 32) }
  | _ => none

/-- EVICTCTL as written (R510, R511). -/
def State.writeEvictctl (s : State) (v : DWord) (lowHalf : Bool) : State :=
  let s1 := { s with mgmt := { s.mgmt with save := v.toNat / 2 ^ 34 % 2 ^ 18 * 2 ^ 34 } }
  if lowHalf && v.getLsbD 0 then s1.evGo else s1

/-- PCTL as written (R492, R493). -/
def State.writePctl (s : State) (p : Nat) (v : DWord) : State :=
  let x := s.port p
  let s1 := s.setPort p { x with pctl := (x.pctl &&& 3) ||| (v &&& 0xF8) }
  let s2 := if v.getLsbD 0 == x.pctl.getLsbD 0 then s1 else if v.getLsbD 0 then s1.portEnable p else s1.portDisable p
  let s3 := if v.getLsbD 1 then s2.portReconfSet p else if x.pctl.getLsbD 1 then s2.portReconfClear p else s2
  if v.getLsbD 2 then s3.portRetrain p else s3

/-- PSTAT (R493). -/
def Port.pstat (x : Port) : DWord :=
  BitVec.ofNat 64 (x.state.code + x.tries % 4 * 16 + x.width % 64 * 64 + x.mcode % 16 * 2 ^ 12 + x.kid % 65536 * 2 ^ 16 + x.kgen % 2 ^ 32 * 2 ^ 32)

/-- The register of a port at an offset from its first; only the management controller writes PKEY and PKID. -/
def State.portReg (s : State) (mc : Bool) (p off : Nat) : Option Reg :=
  let x := s.port p
  let key (i : Nat) : Reg :=
    { low := false, write := fun v s => if mc then s.setPort p { s.port p with pkey := (s.port p).pkey.set i v } else s }
  match off with
  | 0x00 => some { read := x.pctl &&& 0xFB, rsv := ~~~0xFF, write := fun v s => s.writePctl p v }
  | 0x08 => some { read := x.ppeer, rsv := ~~~0x1FFFFFF, write := fun v s => s.setPort p { s.port p with ppeer := v } }
  | 0x10 => some { read := x.pstat }
  | 0x18 => some { read := x.perr }
  | 0x20 => some (key 0)
  | 0x28 => some (key 1)
  | 0x30 => some (key 2)
  | 0x38 => some (key 3)
  | 0x40 => some { rsv := ~~~0xFFFF, write := fun v s => if mc then s.writePkid p (v.toNat % 65536) else s }
  | _ => none

/-- The registers of a log slot (R508, R509); slots 60 to 63 read 0. -/
def State.elogReg (s : State) (a off : Nat) : Option Reg :=
  let e := s.mgmt.elog.get {} a
  let put (g : DWord → Elog → Elog) : DWord → State → State :=
    fun v s => { s with mgmt := { s.mgmt with elog := s.mgmt.elog.set a (g v (s.mgmt.elog.get {} a)) } }
  if 60 ≤ a then some {}
  else
    match off with
    | 0x00 => some { read := e.elogs, rsv := 0xFFFF000000008000, write := fun v s => if v.getLsbD 0 then s.clearElog a else s }
    | 0x08 => some { read := e.eloga }
    | 0x10 => some { read := e.einj, rsv := ~~~0xFF, write := put (fun v e => { e with einj := v }) }
    | _ => some { read := e.einja, rw := BitVec.allOnes 64, low := false, write := put (fun v e => { e with einja := v }) }

/-- An entry of the inactive bank (R494). -/
def State.bankGrp (s : State) (g : Nat) : DWord := (if s.rtAct then s.rtgrp else s.rtgrpB).get 0 g
def State.bankMem (s : State) (m : Nat) : DWord := (if s.rtAct then s.rtmem else s.rtmemB).get 0 m
def State.setBankGrp (s : State) (g : Nat) (v : DWord) : State :=
  if s.rtAct then { s with rtgrp := s.rtgrp.set g v } else { s with rtgrpB := s.rtgrpB.set g v }
def State.setBankMem (s : State) (m : Nat) (v : DWord) : State :=
  if s.rtAct then { s with rtmem := s.rtmem.set m v } else { s with rtmemB := s.rtmemB.set m v }

/-- The registers of the device page that stand alone. -/
def State.deviceReg1 (s : State) (off o : Nat) : Option Reg :=
  let m := s.mgmt
  match o with
  | 0x2000 => some { read := BitVec.ofNat 64 s.calidx, rw := BitVec.allOnes 64, low := false, write := fun v s => { s with calidx := v.toNat } }
  | 0x2008 => some { read := calInfo s.calidx }
  | 0x2200 => some { write := fun _ s => if s.calidx < calCount then s.writeCalcmt else s }
  | 0x2800 =>
    some { read := s.dbmap, rw := 0x000FFFFFFE000001, rsv := 0xFFF0000001FFFFFE, low := false, write := fun v s => s.writeDbmap v }
  | 0x3100 => some { read := BitVec.ofNat 64 s.rtAct.toNat, rsv := ~~~3, write := fun v s => if v.getLsbD 1 then s.swapRoutes else s }
  | 0x3200 => some { read := BitVec.ofNat 64 (m.pwr % 2 ^ 16 + m.tj % 256 * 2 ^ 16 + m.throttle % 16 * 2 ^ 24), rsv := 0xFFFFFFFFF0000000 }
  | 0x3208 => some { read := m.pwrcap, rsv := ~~~0xFFFF, write := fun v s => { s with mgmt := { s.mgmt with pwrcap := v } } }
  | 0x3210 => some { read := m.rdy0, rsv := 0xFFF8000000000000 }
  | 0x3218 => some { read := m.rdy1 }
  | 0x3220 => some { read := m.rdy2, rsv := 0xFFFFFFFF00000000 }
  | 0x3300 =>
    some { read := BitVec.ofNat 64 m.save, rw := 0x000FFFFC00000000, rsv := 0xFFF00003FFFFFFFE, low := false
           write := fun v s => s.writeEvictctl v (off % 8 == 0) }
  | 0x3308 => some { read := BitVec.ofNat 64 m.ev.code, rsv := ~~~7 }
  | _ => none

/-- The register of the device page at an offset; `mc` holds for the management controller's accesses. -/
def State.deviceReg (s : State) (mc : Bool) (off : Nat) : Option Reg :=
  let o := off / 8 * 8
  let idx (b : Nat) : Nat := (o - b) / 8
  if o < 0x100 then some { read := s.clown.get 0 (o / 8), rsv := 0xFFFFFFFF0000E000, write := fun v s => s.clownRegister (o / 8) v }
  else if 0x400 ≤ o ∧ o < 0xC00 then
    some { read := s.spart.get 0 (idx 0x400), rsv := 0xFFFFFFFFFFFFFEE0, write := fun v s => s.spartRegister (idx 0x400) v }
  else if 0x1000 ≤ o ∧ o < 0x1800 then
    let c := idx 0x1000
    some { read := (s.core c).cpool.reg, rsv := bucketRsv
           write := fun v s => s.setCore c { s.core c with cpool := (s.core c).cpool.written v } }
  else if 0x2100 ≤ o ∧ o < 0x2180 then
    some { read := s.calData (4 * idx 0x2100), rw := 0x1FFF1FFF1FFF1FFF, rsv := 0xE000E000E000E000, low := false
           write := fun v s => s.writeCalData (4 * idx 0x2100) v }
  else if 0x2900 ≤ o ∧ o < 0x2A00 then s.sessionReg ((o - 0x2900) / 64) ((o - 0x2900) % 64)
  else if 0x3000 ≤ o ∧ o < 0x3100 then
    some { read := s.bankMem (idx 0x3000), rsv := ~~~0xFFFF, write := fun v s => s.setBankMem (idx 0x3000) v }
  else if 0x3400 ≤ o ∧ o < 0x3600 then
    some { read := s.mgmt.evlist.get 0 (idx 0x3400), rsv := ~~~0xFFFFFF
           write := fun v s => { s with mgmt := { s.mgmt with evlist := s.mgmt.evlist.set (idx 0x3400) v } } }
  else if 0x4000 ≤ o ∧ o < 0x7000 then
    if portExists ((o - 0x4000) / 128) then s.portReg mc ((o - 0x4000) / 128) ((o - 0x4000) % 128) else none
  else if 0x7000 ≤ o ∧ o < 0x7800 then s.elogReg ((o - 0x7000) / 32) ((o - 0x7000) % 32)
  else if 0x8000 ≤ o ∧ o < 0x10000 then
    some { read := s.bankGrp (idx 0x8000), rsv := ~~~0x3FFFFF, write := fun v s => s.setBankGrp (idx 0x8000) v }
  else s.deviceReg1 off o

/-! ### The windows (R411, R427) -/

/-- The register that a function reaches at an offset of its window; none where the window holds none. -/
def State.windowAt (s : State) (fn off : Nat) : Option Reg :=
  if off < 0x10000 then s.fnReg fn off
  else if fn = 0 ∧ off < 0x20000 then s.deviceReg false (off - 0x10000)
  else if fn = 0 ∧ 0x400000 ≤ off ∧ off < 0x800000 then s.ctlReg ((off - 0x400000) / 0x10000) (off % 0x10000)
  else none

/-- A write through a function's window: a VF's window is 64 KiB and the PF's 8 MiB, and a function in reset writes nothing to its own. -/
def State.windowWrite (s : State) (fn off size v : Nat) : State :=
  if (if fn = 0 then 0x800000 else 0x10000) ≤ off || ((s.fn fn).resetting && decide (off < 0x10000)) then s
  else s.regWrite fn (s.windowAt fn off) off size v

/-- A read through a function's window. -/
def State.windowRead (s : State) (fn off size : Nat) : Nat := regRead (s.windowAt fn off) off size

/-- REGISTER_WRITE (R411): arguments are the function whose window is written, the offset, the size in bytes and the data. -/
def execRegisterWrite (s : State) : Outcome State Fault Refusal :=
  .next (s.windowWrite (s.arg 0 % 64) (s.arg 1) (s.arg 2) (s.arg 3))

/-- The MCTP error answer, and an answer that carries 8 bytes (R499). -/
def mctpError : List Byte := []
def mctpData (v : Nat) : List Byte := bytesOfNat 8 v

/-- MCTP_DEVICE_PAGE_ACCESS (R499): arguments are the message type, 1 for a write, the offset in the device page and the data. -/
def execMctpDevicePageAccess (s : State) : Outcome State Fault Refusal :=
  let s1 := s.busUsed
  let answer (s : State) (bs : List Byte) : State := { s with mgmt := { s.mgmt with answers := s.mgmt.answers ++ [bs] } }
  let off := s.arg 2 % 0x10000
  .next (
    if s.arg 0 ≠ 0x7E then answer s1 mctpError
    else if s.arg 1 = 1 then answer (s1.regWrite 0 (s1.deviceReg true off) off 8 (s.arg 3)) (mctpData 0)
    else answer s1 (mctpData (regRead (s1.deviceReg true off) off 8)))

end Sys2Proof.Machine
end

