-- ==== Sys2Proof/Machine/Fetch.lean ====
section
/-!
DEFINITION. Sys2Proof/Machine/Fetch.lean: who may issue (R76, R77, R381), the fetch and decode of the next instruction (R48, R58), the
steps that follow where it does not issue, and what the machine settles before every step.
-/

namespace Sys2Proof.Machine

open Host

/-! ### Who may issue -/

/-- A block's function lets it issue; `handler` holds in a running handler, which goes on to its end (R362). -/
def State.fnIssues (s : State) (fn : Nat) (handler : Bool) : Bool :=
  let f := s.fn fn
  s.enabled fn && !s.mgmt.tripped && !f.resetting && (handler || !f.stopIssue)

/-- A wave of a resident block may issue from a batch (R77, R335, R381, R382). -/
def State.waveIssues (s : State) (blk wave lane : Nat) : Bool :=
  let k := s.block blk
  match k.waves.get? wave with
  | none => false
  | some w =>
    let handler := w.emdepth != 0
    k.core.isSome && s.fnIssues k.fn handler && (handler || !k.saving) && !w.ended && w.stopped.isNone && !w.evicted && !w.parked &&
    !k.starved w && (match w.spec.sid with | some sid => (s.unit sid).deferred.isNone | none => true) &&
    (match w.batchOf lane with
      | none => false
      | some b => handler || decide (w.others < 16) || w.batches.head? == some b)

/-- A block's stream may issue. -/
def State.streamIssues (s : State) (blk : Nat) : Bool :=
  let k := s.block blk
  k.core.isSome && !k.saving && s.fnIssues k.fn false && (match k.stream with | some m => m.live | none => false)

/-- An agent may issue. -/
def State.issues (s : State) (a : Agent) : Bool :=
  match a with
  | .wave b w l => s.waveIssues b w l
  | .stream b => s.streamIssues b

/-- Everyone who may issue now: a batch is named by its lowest lane. -/
def State.agents (s : State) : List Agent :=
  (s.blocks.flatMap (fun ((b, k) : Nat × Block) =>
    k.waves.flatMap (fun ((w, x) : Nat × Wave) => x.batches.map (fun t => Agent.wave b w (lowLane t.mask))) ++ [Agent.stream b])).filter s.issues

/-! ### Fetch (R39, R48, R58 step 1) -/

/-- What a fetch block held at earlier times that a fetch of a block's code may return (R48): what the core fetched since code was placed
there, and what each write since the placement of the launch found. -/
def State.staleCode (s : State) (blk core a : Nat) : List (List Byte) :=
  let from_ := (s.block blk).codeFrom
  (((s.core core).icache.get? (a / 32)).toList ++
    (s.codeOld.filter (fun x => x.1 == a / 32 && decide (from_ ≤ x.2.1))).map (fun x => x.2.2)).filter (fun bs => bs != s.bytesAt a 32)

/-- The 32 bytes of a fetch block as a block's core sees them (R48): those of memory, or those of an earlier time. -/
def State.fetchBytes (s : State) (blk core a : Nat) : List Byte × State :=
  let now := s.bytesAt a 32
  let keep (s : State) : State :=
    if (s.core core).icache.get? (a / 32) == some now then s
    else s.setCore core { s.core core with icache := (s.core core).icache.set (a / 32) now }
  match s.staleCode blk core a with
  | [] => (now, keep s)
  | old =>
    let (k, s1) := s.drawPick (old.length + 1)
    match old[k]? with
    | some bs => (bs, s1)
    | none => (now, keep s1)

/-- Fetch the block that holds a PC. -/
def State.fetchBlock (s : State) (blk : Nat) (pc : DWord) : Except FaultInfo (List Byte) × State :=
  match translate s (s.xreq blk) pc.toNat .fetch with
  | (.error (k, syn), s1) => (.error { cause := k, fva := pc, syn := if pc.toNat < 2 ^ 55 then some syn else none }, s1)
  | (.ok x, s1) =>
    match x.place.host s1 (some blk) with
    | none => (.error { cause := .accessFault, fva := pc }, s1)
    | some h =>
      let a := h - h % 32
      let s2 := s1.meet (s1.block blk).fn a 32
      if s2.poisonAt a 32 then (.error { cause := .poison, fva := pc }, s2)
      else
        let (bs, s3) := s2.fetchBytes blk (s2.coreOf blk) a
        (.ok bs, s3)

/-! ### Decoding (R21, R56, R58 steps 2 to 6, R59) -/

/-- What the sequencer finds at a PC. -/
inductive Fetched where
  /-- steps 1 to 4 -/
  | fault (f : FaultInfo) (raw : Raw)
  /-- steps 5 and 6 -/
  | emulate (opc : BitVec 8) (e : Enc) (raw : Raw) (disabled : Bool)
  /-- step 7 -/
  | issue (i : Instr)
  deriving DecidableEq, Repr

/-- The words of an instruction that a record holds, of those bytes that lie in its fetch block (R350). -/
def rawBytes (l : Option Len) (bs : List Byte) : Raw :=
  let w (i n : Nat) : Nat := natOfBytes ((bs.drop i).take n)
  { w0 := BitVec.ofNat 64 (w 0 8)
    w1 := if l == some Len.l96 || l == some Len.l128 then BitVec.ofNat 32 (w 8 4) else 0
    w2 := if l == some Len.l128 then BitVec.ofNat 32 (w 12 4) else 0 }

/-- An opcode is disabled for a function (R56). -/
def Fn.disabled (f : Fn) (opc : Nat) (emulation : Bool) : Bool :=
  decide (opc < 0xF0) && !(emulation && decide (0xE0 ≤ opc) && decide (opc ≤ 0xE7)) && (f.odis.get 0 (opc / 64)).getLsbD (opc % 64)

/-- The opcodes a copy role may issue: wave sequencer, sync unit, copy engine, trap unit and LDU (R21). -/
def copyRole (opc : Nat) : Bool :=
  decide (opc ≤ 0x1B) || (decide (0x90 ≤ opc) && decide (opc ≤ 0xAF)) || (decide (0xE0 ≤ opc) && decide (opc ≤ 0xE7)) || opc == 0x72

/-- The matrix stream's range, and MXRD and MXWR in it, which execute in a wave. -/
def streamOp (opc : Nat) : Bool := decide (0xB0 ≤ opc) && decide (opc ≤ 0xBF)
def mxOp (opc : Nat) : Bool := opc == 0xBB || opc == 0xBC

/-- From an offset of a fetch block on stand padding NOPs alone (R47), to the end of the block or to the word at its offset 0x1C (R46). -/
def padsToEnd (fuel : Nat) (block : List Byte) (off : Nat) : Bool :=
  match fuel with
  | 0 => false
  | k + 1 =>
    match lenOf (natOfBytes ((block.drop off).take 1)) with
    | none => false
    | some l =>
      let x := natOfBytes ((block.drop off).take l.bytes)
      let next := off + l.bytes
      x == 0x01F0000000000000 + x % 4 && (next == 32 || next == 28 || (decide (next < 32) && padsToEnd k block next))

/-- An agent's role lets it issue an opcode (R21, R59); a stream issues its padding too (R47, R250, log 126), and 0xFF vectors by its
meaning. -/
def State.roleAllows (s : State) (a : Agent) (pads : Bool) (opc : Nat) : Bool :=
  match a with
  | .stream _ => (streamOp opc && !mxOp opc) || pads
  | .wave b w _ =>
    let x := s.wave b w
    if streamOp opc then mxOp opc && s.mxAllowed b w
    else x.emdepth != 0 || x.role == .vector || copyRole opc || opc == 0xFF

/-- Steps 2 to 6 of R58 on the bytes of a fetch block.  An entry that is no multiple of 4 is checked nowhere: its bytes are decoded as they
stand (R45, log 163). -/
def State.decodeAt (s : State) (a : Agent) (fn : Nat) (emulation : Bool) (pc : DWord) (block : List Byte) : Fetched :=
  let off := pc.toNat % 32
  let bs := block.drop off
  if off = 28 then .fault { cause := .illegalPlacement } {}
  else
    match lenOf (natOfBytes (bs.take 1)) with
    | none => .fault { cause := .illegalLength } (rawBytes none bs)
    | some l =>
      if 32 < off + l.bytes then .fault { cause := .illegalPlacement } (rawBytes (some l) bs)
      else
        let x := natOfBytes (bs.take l.bytes)
        let opc := opcOf x
        let disabled := (s.fn fn).disabled opc.toNat emulation
        let emulate : Fetched := .emulate opc (fieldsOf l x) (rawBytes (some l) bs) disabled
        if disabled then emulate
        else
          match decode (bs.take l.bytes) with
          | .instr i => if s.roleAllows a (padsToEnd 4 block off) opc.toNat then .issue i else emulate
          | _ => emulate

/-- The PC an agent stands at, and whether it is in emulation mode. -/
def State.agentPc (s : State) (a : Agent) : DWord × Bool :=
  match a with
  | .wave b w l =>
    let x := s.wave b w
    ((x.lane (lowLane (match x.batchOf l with | some t => t.mask | none => 0))).pc, x.emdepth != 0)
  | .stream b => (match (s.block b).stream with | some m => m.pc | none => 0, false)

def Agent.blk (a : Agent) : Nat := match a with | .wave b _ _ => b | .stream b => b

/-- Fetch and decode an agent's next instruction (R58, steps 1 to 6). -/
def State.fetch (s : State) (a : Agent) : Fetched × State :=
  let (pc, em) := s.agentPc a
  match s.fetchBlock a.blk pc with
  | (.error f, s1) => (.fault f {}, s1)
  | (.ok bs, s1) => (s1.decodeAt a (s1.block a.blk).fn em pc bs, s1)

/-! ### The steps that follow a fetch that issues nothing -/

/-- The agent of a row that names it by arguments: a block's stream, or a block, a wave and a lane. -/
def State.rowAgent (s : State) : Option Agent :=
  match s.cur, s.args with
  | some a, _ => some a
  | none, [b] => some (.stream b)
  | none, b :: w :: l :: _ => some (.wave b w l)
  | none, _ => none

/-- Run a row for an agent that may issue. -/
def State.forAgent (s : State) (f : Agent → State → State) : Outcome State Fault Refusal :=
  match s.rowAgent with
  | none => .next s
  | some a => .next (if s.issues a then f a { s with cur := some a } else s)

/-- A fault of steps 1 to 4 (R58, R59, R355): it names the instruction at the PC; SKIP acts as ABANDON. -/
def State.fetchRaise (s : State) (a : Agent) (raw : Raw) (f : FaultInfo) : State :=
  let f1 := { f with resume := .fetch }
  match a with
  | .wave .. =>
    match s.ctx {} with
    | none => s
    | some c => s.raise c raw false f1
  | .stream b =>
    match (s.block b).stream with
    | none => s
    | some m => s.streamRaise b m.pc (seqPc m.pc .l64) raw f1

/-- FETCH_FAULT (R58): an agent's next instruction meets steps 1 to 4. -/
def execFetchFault (s : State) : Outcome State Fault Refusal :=
  s.forAgent (fun a s =>
    match s.fetch a with
    | (.fault f raw, s1) => s1.fetchRaise a raw f
    | _ => s)

/-- A next state, or the state as it was. -/
def nextOr (s : State) (r : Outcome State Fault Refusal) : State := match r with | .next s1 => s1 | _ => s

/-- An encoding to emulate (R56, R58, R59, R251, R357, R361): the wave enters its handler, or the stream stops for its proxy. -/
def State.emulateFor (s : State) (a : Agent) (opc : BitVec 8) (e : Enc) (raw : Raw) (disabled : Bool) : State :=
  match a with
  | .wave .. => nextOr s (s.issueEmulated (.xop e) opc e raw disabled)
  | .stream b =>
    s.onStream b (fun m => { m with emul := some { opc := opc, enc := e, raw := raw, disabled := disabled, nextPc := seqPc m.pc e.len } })

/-- EMULATION_ENTRY (R357): an agent's next instruction meets step 5 or 6. -/
def execEmulationEntry (s : State) : Outcome State Fault Refusal :=
  s.forAgent (fun a s =>
    match s.fetch a with
    | (.emulate opc e raw disabled, s1) => s1.emulateFor a opc e raw disabled
    | _ => s)

/-- The words of what was fetched. -/
def Fetched.raw (x : Fetched) : Raw :=
  match x with
  | .fault _ r => r
  | .emulate _ _ r _ => r
  | .issue i => rawOf i

/-- A handler has issued 65,536 instructions at its depth without returning or blocking (R362). -/
def Wave.overrun (w : Wave) : Bool := w.emdepth != 0 && decide (65536 ≤ w.wdCount)

/-- WATCHDOG (R362): the handler's next instruction does not issue. -/
def execWatchdog (s : State) : Outcome State Fault Refusal :=
  s.forAgent (fun a s =>
    match a, s.ctx {} with
    | .wave b w _, some c =>
      let (x, s1) := s.fetch a
      let y := s1.wave b w
      if y.overrun then (s1.setWave b w { y with wdCount := 0 }).raise c x.raw false { cause := .watchdog } else s
    | _, _ => s)

/-! ### What is settled before every step -/

/-- Waits whose conditions came true while their wave or block was held, and elastic waves whose ring has filled (R213, R241, R382,
R391, R473, R474). -/
def State.settleBlock (s : State) (b : Nat) : State :=
  let k := s.block b
  if k.core.isNone || k.saving then s
  else
    let bars (ps : Tab Park) : List Nat := ps.flatMap (fun (_, p) => match p.why with | .waitb n _ => [n] | _ => [])
    let ofStream := match k.stream.bind (fun m => m.wait) with | some (.bar n _ _) => [n] | _ => []
    let s1 := (k.waves.flatMap (fun (_, w) => bars w.waits) ++ ofStream).foldl (fun s n => s.judgeBar b n) s
    let s2 := k.waves.foldl (fun s (w, x) =>
      if x.waits.isEmpty || x.onHold then s else ((s.judgeWaitk b w).judgeGang b w).judgeFabric b w) s1
    if k.waves.any (fun (_, w) => w.parked) then s2.setBlock b (s2.block b).unpark else s2

/-- Settle every block, clear the way of frontier tasks (R332), let a TOVF that waited take effect (R296), and take blocks that are over
off the device (R20). -/
def State.settleAll (s : State) : State :=
  let ids := s.blocks.map (·.1)
  let s1 := (ids.foldl (fun s b => s.settleBlock b) s).frontierClears.settleTovf
  ids.foldl (fun s b => s.reap b) s1

/-- Time passes, and the arguments of the last step go. -/
def State.tickOver (s : State) : State :=
  { s with clock := s.clock + 1 + Config.stepCycles s.tick, tick := s.tick + 1, cur := none, args := [], data := [] }

/-- The machine as a step finds it. -/
def State.begin (s : State) : State := s.tickOver.settleAll.strikes

/-! ### What happens next -/

/-- What a step does: an agent's turn, or a row of an engine, the host or a peer. -/
inductive Turn where
  | agent (a : Agent)
  | row (p : Post)
  | idle
  deriving DecidableEq, Repr

/-- The next turn: the agenda's head, the agent that is named, or a free choice among the agents that may issue and the rows
of the engines, the host and the peers (R76, R381). -/
def State.turn (s : State) : Turn × State :=
  match s.agenda, s.forced with
  | p :: r, _ => (.row p, { s with agenda := r })
  | [], some a => (.agent a, { s with forced := none })
  | [], none =>
    let (k, s1) := s.drawPick (s.agents.length + 1)
    match s.agents[k]? with
    | some a => (.agent a, s1)
    | none =>
      let s2 := { s1 with tick := s1.tick + 1 }
      match Config.freeRow s1.tick with
      | some (i, xs, bs) => (.row { step := i, args := xs, data := bs }, s2)
      | none => (.idle, s2)

/-- The row that a turn runs, and the state it runs on; none where nothing happens. -/
def State.turnRow (s : State) (t : Turn) : Option (Instr × State) :=
  match t with
  | .idle => none
  | .row p => if p.step.form.isNone then some (p.step, { s with args := p.args, data := p.data }) else none
  | .agent a =>
    if !s.issues a then none
    else
      let s1 := { s with cur := some a }
      match s1.fetch a with
      | (.fault .., _) => some (.fetchFault, s1)
      | (.emulate .., _) => some (.emulationEntry, s1)
      | (.issue i, s2) => some (i, s2)

/-! ### A first instruction (the host's question) -/

/-- Memory, tables and an issuer such that the next step issues the instruction of the bytes (log 1): VA 0 to 512 MiB maps to itself
for function 0 in both stages, its code is at VA 0, and block 0 holds one wave, in emulation mode for the handler's own opcodes, or
a stream for the matrix stream's. -/
def State.placeBytes (s : State) (bs : List Byte) : State :=
  let opc := (opcOf (natOfBytes bs)).toNat
  let tables : List (Nat × Nat) := [(0x10000, 0x20001), (0x20000, 0x403F)]
  let mem := tables.foldl (fun m (a, v) => memSetBytes m a (bytesOfNat 8 v)) (memSetBytes s.mem 0 bs)
  let handler := mxOp opc || (decide (0xE1 ≤ opc) && decide (opc ≤ 0xE4))
  let asStream := streamOp opc && !mxOp opc
  let w : Wave :=
    { lanes := [(0, { cond := .runnable })], batches := [⟨1⟩], window := 64, emdepth := if handler then 1 else 0
      frames := if handler then [{ members := 1 }] else [] }
  let b : Block := { core := some 0, waves := [(0, w)], stream := if asStream || mxOp opc then some {} else none }
  let f := s.fn 0
  let c := s.core 0
  { s with
    mem := mem
    codeOld := []
    poisoned := s.poisoned.filter (fun g => !([0, 0x10000, 0x20000].contains g))
    fns := s.fns.set 0 { f with s1root := 0x10001, s2root := 0x10001, odis := [], resetting := false, stopIssue := false }
    blocks := s.blocks.set 0 b
    cores := s.cores.set 0 { c with tlb := c.tlb.filter (fun t => t.fn != 0), icache := c.icache.erase 0 }
    clusters := s.clusters.set 0 { tlb := (s.cluster 0).tlb.filter (fun t => t.fn != 0), leaves := (s.cluster 0).leaves.filter (fun t => t.fn != 0) }
    mgmt := { s.mgmt with rdy0 := s.mgmt.rdy0 ||| 0xFFFF, tripped := false }
    agenda := []
    forced := some (if asStream then .stream 0 else .wave 0 0 0) }

end Sys2Proof.Machine
end

