-- ==== Sys2Proof/Machine/Vector.lean ====
section
/-!
DEFINITION. Sys2Proof/Machine/Vector.lean: the instructions of the vector engine, opcodes 0x20 to 0x5C (R145 to R172).
-/

namespace Sys2Proof.Machine

open Host

/-! ### Elements (R60, R148) -/

/-- The element width of an integer type code. -/
def itBits (it : Nat) : Nat :=
  match it / 2 with
  | 0 => 32
  | 1 => 16
  | 2 => 8
  | _ => 64

/-- The type code is signed. -/
def itSigned (it : Nat) : Bool := it % 2 == 0

/-- An element pattern of w bits read as a number. -/
def elemInt (signed : Bool) (w x : Nat) : Int :=
  if signed && decide (2 ^ (w - 1) ≤ x) then (x : Int) - 2 ^ w else (x : Int)

/-- A number wrapped to w bits. -/
def wrapTo (w : Nat) (t : Int) : Nat := (t % 2 ^ w).toNat

/-- A number clamped to the range of a type (R148). -/
def clampTo (signed : Bool) (w : Nat) (t : Int) : Int :=
  let lo : Int := if signed then -(2 ^ (w - 1)) else 0
  let hi : Int := if signed then 2 ^ (w - 1) - 1 else 2 ^ w - 1
  if t < lo then lo else if hi < t then hi else t

/-- Element k of a pattern. -/
def elemAt (w x k : Nat) : Nat := x / 2 ^ (w * k) % 2 ^ w

/-- A pattern of n bits made element by element. -/
def mapElems (w n : Nat) (f : Nat → Nat) : Nat :=
  (List.range (n / w)).foldl (fun acc k => acc + f k % 2 ^ w * 2 ^ (w * k)) 0

/-- How IMM16 is taken by an integer type (R146). -/
def itImm (it : Nat) : Ext16 :=
  match it with
  | 0 => .sign
  | 1 => .zero
  | 2 | 3 => .pair16
  | _ => .bytes

/-- A two-operand instruction on elements: `f` gets the type's width, and the two element patterns. -/
def elems2 (e : Enc) (f : Nat → Nat → Nat) : State → Ctx → Res :=
  let it := e.fn.toNat
  let w := itBits it
  lanesBody e (fun _ wv l =>
    if w = 64 then do
      let a ← wv.readPair l e.src0
      let b ← wv.srcBD l e (itSigned it)
      let a ← useD a
      let b ← useD b
      wv.withDst l e 2 (.ok { words := clean (dwords (BitVec.ofNat 64 (f a.toNat b.toNat))) })
    else do
      let a ← wv.src0 l e
      let b ← wv.srcB l e (itImm it)
      let a ← a.use
      let b ← b.use
      wv.withDst l e 1 (.ok { words := clean [BitVec.ofNat 32 (mapElems w 32 (fun k => f (elemAt w a.toNat k) (elemAt w b.toNat k)))] }))

/-- An exact integer operation on elements, wrapped, or clamped where SAT is set (R148). -/
def intOp (e : Enc) (op : Int → Int → Int) : State → Ctx → Res :=
  let it := e.fn.toNat
  let w := itBits it
  let sg := itSigned it
  elems2 e (fun x y =>
    let t := op (elemInt sg w x) (elemInt sg w y)
    wrapTo w (if e.mod.getLsbD 0 then clampTo sg w t else t))

/-- IADD (R148). -/
def execIadd (e : Enc) (s : State) : Outcome State Fault Refusal := s.issue (.iadd e) e false (intOp e (fun a b => a + b))
/-- ISUB (R148). -/
def execIsub (e : Enc) (s : State) : Outcome State Fault Refusal := s.issue (.isub e) e false (intOp e (fun a b => a - b))
/-- IMUL (R148). -/
def execImul (e : Enc) (s : State) : Outcome State Fault Refusal := s.issue (.imul e) e false (intOp e (fun a b => a * b))
/-- IMIN (R148). -/
def execImin (e : Enc) (s : State) : Outcome State Fault Refusal := s.issue (.imin e) e false (intOp e (fun a b => min a b))
/-- IMAX (R148). -/
def execImax (e : Enc) (s : State) : Outcome State Fault Refusal := s.issue (.imax e) e false (intOp e (fun a b => max a b))

/-- A lane function of two consumed 32-bit sources. -/
def lanes2 (e : Enc) (f : Wave → Word → Word → LaneRes) : State → Ctx → Res :=
  lanesBody e (fun _ w l => do
    let a ← (← w.src0 l e).use
    let b ← (← w.src1 l e).use
    w.withDst l e 1 (.ok (f w a b)))

/-- A lane function of one consumed 32-bit source. -/
def lanes1 (e : Enc) (f : Wave → Word → LaneRes) : State → Ctx → Res :=
  lanesBody e (fun _ w l => do
    let a ← (← w.src0 l e).use
    w.withDst l e 1 (.ok (f w a)))

/-- One 32-bit integer result. -/
def word1 (x : Word) : LaneRes := { words := [⟨x, false⟩] }

/-- IMULH (R149). -/
def execImulh (e : Enc) (s : State) : Outcome State Fault Refusal :=
  let sg := e.fn.toNat == 0
  s.issue (.imulh e) e false (lanes2 e (fun _ a b =>
    let p : Int := if sg then a.toInt * b.toInt else (a.toNat : Int) * b.toNat
    word1 (BitVec.ofInt 32 (p / 2 ^ 32))))

/-- IMAD (R149). -/
def execImad (e : Enc) (s : State) : Outcome State Fault Refusal :=
  s.issue (.imad e) e false (lanesBody e (fun _ w l => do
    let a ← (← w.src0 l e).use
    let b ← (← if e.len == .l128 then .ok ⟨e.imm32, false⟩ else w.src1 l e).use
    let c ← (← w.src2 l e).use
    w.withDst l e 1 (.ok (word1 (a * b + c)))))

/-- IABS and INEG on elements (R150). -/
def intOp1 (e : Enc) (op : Int → Int) : State → Ctx → Res :=
  let it := e.fn.toNat
  let wd := itBits it
  let f (x : Nat) : Nat :=
    let t := op (elemInt true wd x)
    wrapTo wd (if e.mod.getLsbD 0 then clampTo true wd t else t)
  lanesBody e (fun _ w l =>
    if wd = 64 then do
      let a ← useD (← w.readPair l e.src0)
      w.withDst l e 2 (.ok { words := clean (dwords (BitVec.ofNat 64 (f a.toNat))) })
    else do
      let a ← (← w.src0 l e).use
      w.withDst l e 1 (.ok (word1 (BitVec.ofNat 32 (mapElems wd 32 (fun k => f (elemAt wd a.toNat k)))))))

/-- IABS (R150). -/
def execIabs (e : Enc) (s : State) : Outcome State Fault Refusal :=
  s.issue (.iabs e) e false (intOp1 e (fun x => if x < 0 then -x else x))
/-- INEG (R150). -/
def execIneg (e : Enc) (s : State) : Outcome State Fault Refusal := s.issue (.ineg e) e false (intOp1 e (fun x => -x))

/-- IDP4 (R151). -/
def execIdp4 (e : Enc) (s : State) : Outcome State Fault Refusal :=
  let fn := e.fn.toNat
  let sa := fn == 0 || fn == 2
  let sb := fn == 0 || fn == 3
  s.issue (.idp4 e) e false (lanesBody e (fun _ w l => do
    let a ← (← w.src0 l e).use
    let b ← (← w.src1 l e).use
    let c ← (← w.src2 l e).use
    let c0 : Int := if fn == 1 then (c.toNat : Int) else c.toInt
    let t := (List.range 4).foldl (fun t k =>
      t + elemInt sa 8 (elemAt 8 a.toNat k) * elemInt sb 8 (elemAt 8 b.toNat k)) c0
    let t := if e.mod.getLsbD 0 then clampTo (fn != 1) 32 t else t
    w.withDst l e 1 (.ok (word1 (BitVec.ofNat 32 (wrapTo 32 t))))))

/-! ### Shifts, logic and bits (R152 to R155) -/

/-- A shift of elements by their own amounts; the pair types take one 32-bit amount (R152). -/
def shiftOp (e : Enc) (f : Nat → Nat → Nat → Nat) : State → Ctx → Res :=
  let it := e.fn.toNat
  let wd := itBits it
  lanesBody e (fun _ w l =>
    if wd = 64 then do
      let a ← useD (← w.readPair l e.src0)
      let c ← (← w.srcB l e (if itSigned it then .sign else .zero)).use
      w.withDst l e 2 (.ok { words := clean (dwords (BitVec.ofNat 64 (f 64 a.toNat c.toNat))) })
    else do
      let a ← (← w.src0 l e).use
      let c ← (← w.srcB l e (itImm it)).use
      w.withDst l e 1 (.ok (word1 (BitVec.ofNat 32 (mapElems wd 32 (fun k => f wd (elemAt wd a.toNat k) (elemAt wd c.toNat k)))))))

/-- ISHL (R152). -/
def execIshl (e : Enc) (s : State) : Outcome State Fault Refusal :=
  s.issue (.ishl e) e false (shiftOp e (fun w x c => if c < w then x * 2 ^ c % 2 ^ w else 0))

/-- ISHR (R152). -/
def execIshr (e : Enc) (s : State) : Outcome State Fault Refusal :=
  let sg := itSigned e.fn.toNat
  s.issue (.ishr e) e false (shiftOp e (fun w x c => wrapTo w (elemInt sg w x / 2 ^ (min c w))))

/-- IROT (R152). -/
def execIrot (e : Enc) (s : State) : Outcome State Fault Refusal :=
  s.issue (.irot e) e false (shiftOp e (fun w x c =>
    let k := c % w
    x * 2 ^ k % 2 ^ w + x / 2 ^ (w - k)))

/-- The function of a BITFN table: bit T[a + 2b + 4c] at each position (R153). -/
def bitFn (t : BitVec 8) (a b c : Word) : Word :=
  (List.range 8).foldl (fun r i =>
    if t.getLsbD i then
      r ||| ((if i % 2 == 1 then a else ~~~a) &&& (if i / 2 % 2 == 1 then b else ~~~b) &&& (if i / 4 == 1 then c else ~~~c))
    else r) 0

/-- BITFN (R153). -/
def execBitfn (e : Enc) (s : State) : Outcome State Fault Refusal :=
  s.issue (.bitfn e) e false (lanesBody e (fun _ w l => do
    let a ← (← w.src0 l e).use
    let b ← (← w.src1 l e).use
    let c ← (← if e.len == .l128 then .ok ⟨e.imm32, false⟩ else w.src2 l e).use
    w.withDst l e 1 (.ok (word1 (bitFn (e.ext.setWidth 8) a b c)))))

/-- The number of 1 bits among the low n. -/
def popcount (n x : Nat) : Nat := ((List.range n).filter (fun i => x.testBit i)).length

/-- The number of 0 bits above the most significant 1 of n bits (R154). -/
def leadZeros (n x : Nat) : Nat := n - bitLen x

/-- Bit order reversed in n bits. -/
def bitReverse (n x : Nat) : Nat :=
  (List.range n).foldl (fun r i => if x.testBit i then r + 2 ^ (n - 1 - i) else r) 0

/-- A function of a 32-bit or 64-bit operand with a 32-bit result (R154). -/
def countOp (e : Enc) (f : Nat → Nat → Nat) : State → Ctx → Res :=
  lanesBody e (fun _ w l => do
    if e.fn.toNat = 7 then
      let a ← useD (← w.readPair l e.src0)
      w.withDst l e 1 (.ok (word1 (BitVec.ofNat 32 (f 64 a.toNat))))
    else
      let a ← (← w.src0 l e).use
      w.withDst l e 1 (.ok (word1 (BitVec.ofNat 32 (f 32 a.toNat)))))

/-- POPC (R154). -/
def execPopc (e : Enc) (s : State) : Outcome State Fault Refusal := s.issue (.popc e) e false (countOp e popcount)
/-- CLZ (R154). -/
def execClz (e : Enc) (s : State) : Outcome State Fault Refusal := s.issue (.clz e) e false (countOp e leadZeros)

/-- BREV (R154). -/
def execBrev (e : Enc) (s : State) : Outcome State Fault Refusal :=
  s.issue (.brev e) e false (lanesBody e (fun _ w l => do
    if e.fn.toNat = 7 then
      let a ← useD (← w.readPair l e.src0)
      w.withDst l e 2 (.ok { words := clean (dwords (BitVec.ofNat 64 (bitReverse 64 a.toNat))) })
    else
      let a ← (← w.src0 l e).use
      w.withDst l e 1 (.ok (word1 (BitVec.ofNat 32 (bitReverse 32 a.toNat))))))

/-- The field of BFE and BFI: its lowest bit and its width, width 0 where it is empty (R155). -/
def fieldOf (x : Word) : Nat × Nat :=
  let p := x.toNat % 256
  let n := x.toNat / 256 % 256
  if n = 0 ∨ 32 ≤ p then (0, 0) else (p, min (p + n) 32 - p)

/-- The field operand of BFE and BFI: SRC1, or IMM16 where IMMF is 1. -/
def fieldSrc (w : Wave) (l : Nat) (e : Enc) : Except Cause PWord :=
  if e.mod.getLsbD 0 then .ok ⟨e.imm16.setWidth 32, false⟩ else w.src1 l e

/-- BFE (R155). -/
def execBfe (e : Enc) (s : State) : Outcome State Fault Refusal :=
  s.issue (.bfe e) e false (lanesBody e (fun _ w l => do
    let a ← (← w.src0 l e).use
    let b ← (← fieldSrc w l e).use
    let (p, n) := fieldOf b
    let x := a.toNat / 2 ^ p % 2 ^ n
    w.withDst l e 1 (.ok (word1 (BitVec.ofInt 32 (if n = 0 then 0 else elemInt (e.fn.toNat == 0) n x))))))

/-- BFI (R155). -/
def execBfi (e : Enc) (s : State) : Outcome State Fault Refusal :=
  s.issue (.bfi e) e false (lanesBody e (fun _ w l => do
    let a ← (← w.src0 l e).use
    let b ← (← fieldSrc w l e).use
    let c ← (← w.src2 l e).use
    let (p, n) := fieldOf b
    let mask : Word := BitVec.ofNat 32 ((2 ^ n - 1) * 2 ^ p)
    w.withDst l e 1 (.ok (word1 ((c &&& ~~~mask) ||| ((a <<< p) &&& mask))))))

/-! ### Moves (R156, R171) -/

/-- SEL (R156): the value selected is moved, the other is not read. -/
def execSel (e : Enc) (s : State) : Outcome State Fault Refusal :=
  s.issue (.sel e) e false (lanesBody e (fun _ w l => do
    let p := (w.lane l).q (e.mod.toNat % 32) != e.mod.getLsbD 5
    let x ← if p then w.src0 l e else w.src1 l e
    w.withDst l e 1 (.ok { words := [x] })))

/-- MOV (R156). -/
def execMov (e : Enc) (s : State) : Outcome State Fault Refusal :=
  s.issue (.mov e) e false (lanesBody e (fun _ w l => do
    if e.fn.toNat = 1 then
      let lo ← w.readSrc l false e.src0
      let hi ← w.readSrc l false (e.src0 + 1)
      w.withDst l e 2 (.ok { words := [lo, hi] })
    else
      let x ← w.src0 l e
      w.withDst l e 1 (.ok { words := [x] })))

/-- MOVI (R156). -/
def execMovi (e : Enc) (s : State) : Outcome State Fault Refusal :=
  s.issue (.movi e) e false (lanesBody e (fun _ w l =>
    w.withDst l e 1 (.ok (word1 (if e.len == .l128 then e.imm32 else e.imm16.signExtend 32)))))

/-! ### Floating point (R157 to R162) -/

/-- An operation on two floats (R157). -/
def floatOp2 (e : Enc) (op : Fmt → Rm → FVal → FVal → Nat × Flags) : State → Ctx → Res :=
  let f := fmtOf e.fn.toNat
  lanesBody e (fun _ w l => do
    let a ← (← w.src0 l e).use
    let b ← (← w.srcB l e (floatImm e.fn.toNat)).use
    let x := f.unpack (f.flip (negA e) (f.low a))
    let y := f.unpack (f.flip (negB e) (f.low b))
    w.withDst l e 1 (.ok (fltRes (op f (rmOf w e) x y))))

/-- FADD (R157). -/
def execFadd (e : Enc) (s : State) : Outcome State Fault Refusal := s.issue (.fadd e) e false (floatOp2 e Fmt.addV)
/-- FSUB (R157): a + (−b). -/
def execFsub (e : Enc) (s : State) : Outcome State Fault Refusal :=
  s.issue (.fsub e) e false (floatOp2 e (fun f rm a b => f.addV rm a (b.flip true)))
/-- FMUL (R157). -/
def execFmul (e : Enc) (s : State) : Outcome State Fault Refusal := s.issue (.fmul e) e false (floatOp2 e Fmt.mulV)

/-- FFMA (R157). -/
def execFfma (e : Enc) (s : State) : Outcome State Fault Refusal :=
  let f := fmtOf e.fn.toNat
  s.issue (.ffma e) e false (lanesBody e (fun _ w l => do
    let a ← (← w.src0 l e).use
    let b ← (← if e.len == .l128 then .ok ⟨e.imm32, false⟩ else w.src1 l e).use
    let c ← (← w.src2 l e).use
    let v (n : Bool) (x : Word) : FVal := f.unpack (f.flip n (f.low x))
    w.withDst l e 1 (.ok (fltRes (f.fmaV (rmOf w e) (v (negA e) a) (v (negB e) b) (v (negC e) c))))))

/-- FMIN and FMAX (R158). -/
def floatMinMax (e : Enc) (isMax : Bool) : State → Ctx → Res :=
  let f := fmtOf e.fn.toNat
  lanes2 e (fun _ a b => fltRes (f.minMax isMax (f.flip (negA e) (f.low a)) (f.flip (negB e) (f.low b))))

/-- FMIN (R158). -/
def execFmin (e : Enc) (s : State) : Outcome State Fault Refusal := s.issue (.fmin e) e false (floatMinMax e false)
/-- FMAX (R158). -/
def execFmax (e : Enc) (s : State) : Outcome State Fault Refusal := s.issue (.fmax e) e false (floatMinMax e true)

/-- A float function of one pattern. -/
def floatOp1 (e : Enc) (op : Fmt → Rm → Nat → Nat × Flags) : State → Ctx → Res :=
  let f := fmtOf e.fn.toNat
  lanes1 e (fun w a => fltRes (op f (rmOf w e) (f.low a)))

/-- FABS (R159). -/
def execFabs (e : Enc) (s : State) : Outcome State Fault Refusal :=
  s.issue (.fabs e) e false (floatOp1 e (fun f _ x => (x % f.signBit, Flags.none)))
/-- FNEG (R159). -/
def execFneg (e : Enc) (s : State) : Outcome State Fault Refusal :=
  s.issue (.fneg e) e false (floatOp1 e (fun f _ x => (x ^^^ f.signBit, Flags.none)))
/-- FRND (R159). -/
def execFrnd (e : Enc) (s : State) : Outcome State Fault Refusal := s.issue (.frnd e) e false (floatOp1 e Fmt.roundInt)
/-- FCLS (R159). -/
def execFcls (e : Enc) (s : State) : Outcome State Fault Refusal :=
  s.issue (.fcls e) e false (floatOp1 e (fun f _ x => (2 ^ f.classBit x, Flags.none)))
/-- FRCP (R160). -/
def execFrcp (e : Enc) (s : State) : Outcome State Fault Refusal := s.issue (.frcp e) e false (floatOp1 e Fmt.recip)
/-- FRSQ (R160). -/
def execFrsq (e : Enc) (s : State) : Outcome State Fault Refusal := s.issue (.frsq e) e false (floatOp1 e Fmt.rsqrt)
/-- FSQRT (R160). -/
def execFsqrt (e : Enc) (s : State) : Outcome State Fault Refusal := s.issue (.fsqrt e) e false (floatOp1 e Fmt.sqrt)
/-- FEX2 (R161). -/
def execFex2 (e : Enc) (s : State) : Outcome State Fault Refusal :=
  s.issue (.fex2 e) e false (floatOp1 e (fun _ rm x => exp2 rm x))
/-- FLG2 (R161). -/
def execFlg2 (e : Enc) (s : State) : Outcome State Fault Refusal :=
  s.issue (.flg2 e) e false (floatOp1 e (fun _ rm x => log2 rm x))
/-- FSIN (R161). -/
def execFsin (e : Enc) (s : State) : Outcome State Fault Refusal :=
  s.issue (.fsin e) e false (floatOp1 e (fun _ rm x => fsin rm x))
/-- FCOS (R161). -/
def execFcos (e : Enc) (s : State) : Outcome State Fault Refusal :=
  s.issue (.fcos e) e false (floatOp1 e (fun _ rm x => fcos rm x))

/-- Two halves computed apart; their flags are ORed (R142, R162). -/
def halves (f : Nat → Nat × Flags) : LaneRes :=
  let lo := f 0
  let hi := f 1
  fltRes (lo.1 + hi.1 * 65536, lo.2.or hi.2)

/-- Half k of a word. -/
def half (x : Word) (k : Nat) : Nat := elemAt 16 x.toNat k

/-- HADD2 (R162). -/
def execHadd2 (e : Enc) (s : State) : Outcome State Fault Refusal :=
  let f := fmtOf e.fn.toNat
  s.issue (.hadd2 e) e false (lanes2 e (fun w a b => halves (fun k =>
    f.addV (rmOf w e) (f.unpack (f.flip (negA e) (half a k))) (f.unpack (f.flip (negB e) (half b k))))))

/-- HMUL2 (R162). -/
def execHmul2 (e : Enc) (s : State) : Outcome State Fault Refusal :=
  let f := fmtOf e.fn.toNat
  s.issue (.hmul2 e) e false (lanes2 e (fun w a b => halves (fun k =>
    f.mulV (rmOf w e) (f.unpack (f.flip (negA e) (half a k))) (f.unpack (f.flip (negB e) (half b k))))))

/-- HFMA2 (R162). -/
def execHfma2 (e : Enc) (s : State) : Outcome State Fault Refusal :=
  let f := fmtOf e.fn.toNat
  s.issue (.hfma2 e) e false (lanesBody e (fun _ w l => do
    let a ← (← w.src0 l e).use
    let b ← (← w.src1 l e).use
    let c ← (← w.src2 l e).use
    w.withDst l e 1 (.ok (halves (fun k =>
      f.fmaV (rmOf w e) (f.unpack (f.flip (negA e) (half a k))) (f.unpack (f.flip (negB e) (half b k)))
        (f.unpack (f.flip (negC e) (half c k))))))))

/-- HMIN2 (R162). -/
def execHmin2 (e : Enc) (s : State) : Outcome State Fault Refusal :=
  let f := fmtOf e.fn.toNat
  s.issue (.hmin2 e) e false (lanes2 e (fun _ a b => halves (fun k =>
    f.minMax false (f.flip (negA e) (half a k)) (f.flip (negB e) (half b k)))))

/-- HMAX2 (R162). -/
def execHmax2 (e : Enc) (s : State) : Outcome State Fault Refusal :=
  let f := fmtOf e.fn.toNat
  s.issue (.hmax2 e) e false (lanes2 e (fun _ a b => halves (fun k =>
    f.minMax true (f.flip (negA e) (half a k)) (f.flip (negB e) (half b k)))))

/-! ### Byte tables (R163, R164) -/

/-- The byte BPERM gives for a selector (R163). -/
def bpermByte (pool sel : Nat) : Nat :=
  let y := elemAt 8 pool (sel % 8)
  if sel.testBit 7 then 0 else if sel.testBit 6 then (if y.testBit 7 then 255 else 0) else y

/-- BPERM (R163). -/
def execBperm (e : Enc) (s : State) : Outcome State Fault Refusal :=
  s.issue (.bperm e) e false (lanesBody e (fun _ w l => do
    let pool ← useD (← w.readPair l e.src0)
    let sel ← (← w.src1 l e).use
    w.withDst l e 1 (.ok (word1 (BitVec.ofNat 32 (mapElems 8 32 (fun k => bpermByte pool.toNat (elemAt 8 sel.toNat k))))))))

/-- NLUT (R164). -/
def execNlut (e : Enc) (s : State) : Outcome State Fault Refusal :=
  s.issue (.nlut e) e false (lanesBody e (fun _ w l => do
    let a ← (← w.src0 l e).use
    let t ← w.readGroup l e.src1.toNat 4
    let t ← t.mapM PWord.use
    let entry (n : Nat) : Nat := elemAt 8 (t.getD (n / 4) 0).toNat (n % 4)
    let idx (b : Nat) : Nat := if e.fn.toNat = 0 then b % 16 else b / 16
    w.withDst l e 1 (.ok (word1 (BitVec.ofNat 32 (mapElems 8 32 (fun k => entry (idx (elemAt 8 a.toNat k)))))))))

/-! ### Across lanes (R165 to R168) -/

/-- The source lane of SHFL (R165). -/
def shflLane (fn seg i c : Nat) : Nat :=
  let w := 32 / 2 ^ seg
  let base := i / w * w
  match fn with
  | 0 => base + c % w
  | 1 => if c < w ∧ base + c ≤ i then i - c else i
  | 2 => if c < w ∧ i + c < base + w then i + c else i
  | _ => i ^^^ (c % w)

/-- SHFL (R165): the register is resolved against the batch's window base; its value is moved. -/
def execShfl (e : Enc) (s : State) : Outcome State Fault Refusal :=
  s.issue (.shfl e) e true (lanesBody e (fun _ w l => do
    let c ← (← w.srcB l e .zero).use
    let r := (w.lane l).base + e.src0.toNat
    if r < w.limit then w.withDst l e 1 (.ok { words := [w.vAt r (shflLane e.fn.toNat (e.mod.toNat % 8) l c.toNat)] })
    else .error .accessFault))

/-- The combine of LSCAN and LRED (R166). -/
def combineOp (w : Wave) (op : Nat) (a b : Word) : Word × Flags :=
  let rm := Rm.ofCode w.fpctl.toNat
  let fl (r : Nat × Flags) : Word × Flags := (BitVec.ofNat 32 r.1, r.2)
  match op with
  | 0 => (a + b, Flags.none)
  | 1 => fl (F32.addV rm (F32.unpack a.toNat) (F32.unpack b.toNat))
  | 2 => (if a.toInt ≤ b.toInt then a else b, Flags.none)
  | 3 => (if a.toInt ≤ b.toInt then b else a, Flags.none)
  | 4 => fl (F32.minMax false a.toNat b.toNat)
  | 5 => fl (F32.minMax true a.toNat b.toNat)
  | 6 => (a &&& b, Flags.none)
  | _ => (a ||| b, Flags.none)

/-- The value written where nothing is combined (R166). -/
def combineEmpty (op : Nat) : Word :=
  match op with
  | 0 => 0
  | 1 => 0x80000000
  | 2 => 0x7FFFFFFF
  | 3 => 0x80000000
  | 4 => 0x7F800000
  | 5 => 0xFF800000
  | 6 => 0xFFFFFFFF
  | _ => 0

/-- A combine of values that may be empty, with the flags so far (R166). -/
def combineOpt (w : Wave) (op : Nat) (a b : Option Word) (fl : Flags) : Option Word × Flags :=
  match a, b with
  | some x, some y => let r := combineOp w op x y; (some r.1, fl.or r.2)
  | some x, none => (some x, fl)
  | none, y => (y, fl)

/-- One level of the tree of LRED: pairs combined, the lower lane left (R167). -/
def redLevel (w : Wave) (op : Nat) (t : List (Option Word)) (fl : Flags) : List (Option Word) × Flags :=
  match t with
  | a :: b :: r =>
    let (x, f1) := combineOpt w op a b fl
    let (xs, f2) := redLevel w op r f1
    (x :: xs, f2)
  | xs => (xs, fl)

/-- LRED's tree over 32 lanes (R167). -/
def redTree (w : Wave) (op : Nat) (t : List (Option Word)) : Option Word × Flags :=
  let r := (List.range 5).foldl (fun (p : List (Option Word) × Flags) _ => redLevel w op p.1 p.2) (t, Flags.none)
  ((r.1.headD none), r.2)

/-- One step of LSCAN at distance dd (R167). -/
def scanStep (w : Wave) (op dd : Nat) (y : List (Option Word)) (fl : Flags) : List (Option Word) × Flags :=
  ((List.range 32).foldl (fun (p : List (Option Word) × Flags) i =>
    if dd ≤ i then
      let (x, f) := combineOpt w op (y.getD (i - dd) none) (y.getD i none) p.2
      (p.1 ++ [x], f)
    else (p.1 ++ [y.getD i none], p.2)) ([], fl))

/-- LSCAN's inclusive prefixes (R167). -/
def scanTree (w : Wave) (op : Nat) (t : List (Option Word)) : List (Option Word) × Flags :=
  [1, 2, 4, 8, 16].foldl (fun (p : List (Option Word) × Flags) dd => scanStep w op dd p.1 p.2) (t, Flags.none)

/-- The participants' values of register SRC0, each consumed (R166, R171). -/
def participants (w : Wave) (c : Ctx) (e : Enc) : List (Option Word) :=
  (List.range 32).map (fun l => if c.acting.getLsbD l then
    (match (w.src0 l e).bind PWord.use with | .ok x => some x | .error _ => none) else none)

/-- A cross-lane combine: `f` gives the value of each lane and the flags of all combines. -/
def crossBody (e : Enc) (f : Wave → List (Option Word) → (Nat → Option Word) × Flags) (s : State) (c : Ctx) : Res :=
  lanesBody e (fun c w l => do
    let _ ← (← w.src0 l e).use
    let (g, fl) := f w (participants w c e)
    w.withDst l e 1 (.ok { words := [⟨(g l).getD (combineEmpty (e.fn.toNat % 8)), false⟩], flags := fl.bits })) s c

/-- LSCAN (R167). -/
def execLscan (e : Enc) (s : State) : Outcome State Fault Refusal :=
  s.issue (.lscan e) e false (crossBody e (fun w t =>
    let (y, fl) := scanTree w (e.fn.toNat % 8) t
    (fun l => if e.fn.getLsbD 3 then (if l = 0 then none else y.getD (l - 1) none) else y.getD l none, fl)))

/-- LRED (R167). -/
def execLred (e : Enc) (s : State) : Outcome State Fault Refusal :=
  s.issue (.lred e) e false (crossBody e (fun w t =>
    let (x, fl) := redTree w (e.fn.toNat % 8) t
    (fun _ => x, fl)))

/-! ### The F64 class (R169, R170): every instruction vectors to the handler -/

/-- DADD (R170). -/
def execDadd (e : Enc) (s : State) : Outcome State Fault Refusal := s.issueEmulated (.dadd e) 0x58 e (rawOf (.dadd e)) false
/-- DMUL (R170). -/
def execDmul (e : Enc) (s : State) : Outcome State Fault Refusal := s.issueEmulated (.dmul e) 0x59 e (rawOf (.dmul e)) false
/-- DFMA (R170). -/
def execDfma (e : Enc) (s : State) : Outcome State Fault Refusal := s.issueEmulated (.dfma e) 0x5A e (rawOf (.dfma e)) false
/-- DDIV (R170). -/
def execDdiv (e : Enc) (s : State) : Outcome State Fault Refusal := s.issueEmulated (.ddiv e) 0x5B e (rawOf (.ddiv e)) false
/-- DCVT (R170). -/
def execDcvt (e : Enc) (s : State) : Outcome State Fault Refusal := s.issueEmulated (.dcvt e) 0x5C e (rawOf (.dcvt e)) false

end Sys2Proof.Machine
end

