-- ==== Sys2Proof/Machine/Dispatch.lean ====
section
/-!
DEFINITION. Sys2Proof/Machine/Dispatch.lean: one arm for each constructor of Instr: the call of its meaning.
-/

namespace Sys2Proof.Machine

open Host

/-- What an instruction, or a step of an engine, does. -/
def exec (i : Instr) (s : State) : Host.Outcome State Fault Refusal :=
  match i with
  | .nop e => Sys2Proof.Machine.execNop e s
  | .bra e => Sys2Proof.Machine.execBra e s
  | .brx e => Sys2Proof.Machine.execBrx e s
  | .call e => Sys2Proof.Machine.execCall e s
  | .ret e => Sys2Proof.Machine.execRet e s
  | .exit e => Sys2Proof.Machine.execExit e s
  | .fork e => Sys2Proof.Machine.execFork e s
  | .quit e => Sys2Proof.Machine.execQuit e s
  | .split e => Sys2Proof.Machine.execSplit e s
  | .join e => Sys2Proof.Machine.execJoin e s
  | .drop e => Sys2Proof.Machine.execDrop e s
  | .yield e => Sys2Proof.Machine.execYield e s
  | .pcmp e => Sys2Proof.Machine.execPcmp e s
  | .plog e => Sys2Proof.Machine.execPlog e s
  | .pmov e => Sys2Proof.Machine.execPmov e s
  | .pmovRd e => Sys2Proof.Machine.execPmovRd e s
  | .pmovWr e => Sys2Proof.Machine.execPmovWr e s
  | .pldm e => Sys2Proof.Machine.execPldm e s
  | .voteSome e => Sys2Proof.Machine.execVoteSome e s
  | .voteEvery e => Sys2Proof.Machine.execVoteEvery e s
  | .voteMask e => Sys2Proof.Machine.execVoteMask e s
  | .voteSame e => Sys2Proof.Machine.execVoteSame e s
  | .gets e => Sys2Proof.Machine.execGets e s
  | .sets e => Sys2Proof.Machine.execSets e s
  | .sadd e => Sys2Proof.Machine.execSadd e s
  | .ssub e => Sys2Proof.Machine.execSsub e s
  | .smul e => Sys2Proof.Machine.execSmul e s
  | .slog e => Sys2Proof.Machine.execSlog e s
  | .ssh e => Sys2Proof.Machine.execSsh e s
  | .scmp e => Sys2Proof.Machine.execScmp e s
  | .smov e => Sys2Proof.Machine.execSmov e s
  | .sli e => Sys2Proof.Machine.execSli e s
  | .fetchFault => Sys2Proof.Machine.execFetchFault s
  | .emulationEntry => Sys2Proof.Machine.execEmulationEntry s
  | .launch e => Sys2Proof.Machine.execLaunch e s
  | .schsel e => Sys2Proof.Machine.execSchsel e s
  | .gangwait e => Sys2Proof.Machine.execGangwait e s
  | .gangwaitTimeout => Sys2Proof.Machine.execGangwaitTimeout s
  | .phase e => Sys2Proof.Machine.execPhase e s
  | .iadd e => Sys2Proof.Machine.execIadd e s
  | .isub e => Sys2Proof.Machine.execIsub e s
  | .imul e => Sys2Proof.Machine.execImul e s
  | .imulh e => Sys2Proof.Machine.execImulh e s
  | .imad e => Sys2Proof.Machine.execImad e s
  | .imin e => Sys2Proof.Machine.execImin e s
  | .imax e => Sys2Proof.Machine.execImax e s
  | .iabs e => Sys2Proof.Machine.execIabs e s
  | .ineg e => Sys2Proof.Machine.execIneg e s
  | .idp4 e => Sys2Proof.Machine.execIdp4 e s
  | .ishl e => Sys2Proof.Machine.execIshl e s
  | .ishr e => Sys2Proof.Machine.execIshr e s
  | .irot e => Sys2Proof.Machine.execIrot e s
  | .bitfn e => Sys2Proof.Machine.execBitfn e s
  | .popc e => Sys2Proof.Machine.execPopc e s
  | .clz e => Sys2Proof.Machine.execClz e s
  | .brev e => Sys2Proof.Machine.execBrev e s
  | .bfe e => Sys2Proof.Machine.execBfe e s
  | .bfi e => Sys2Proof.Machine.execBfi e s
  | .sel e => Sys2Proof.Machine.execSel e s
  | .mov e => Sys2Proof.Machine.execMov e s
  | .movi e => Sys2Proof.Machine.execMovi e s
  | .fadd e => Sys2Proof.Machine.execFadd e s
  | .fsub e => Sys2Proof.Machine.execFsub e s
  | .fmul e => Sys2Proof.Machine.execFmul e s
  | .ffma e => Sys2Proof.Machine.execFfma e s
  | .fmin e => Sys2Proof.Machine.execFmin e s
  | .fmax e => Sys2Proof.Machine.execFmax e s
  | .fabs e => Sys2Proof.Machine.execFabs e s
  | .fneg e => Sys2Proof.Machine.execFneg e s
  | .frnd e => Sys2Proof.Machine.execFrnd e s
  | .fcls e => Sys2Proof.Machine.execFcls e s
  | .frcp e => Sys2Proof.Machine.execFrcp e s
  | .frsq e => Sys2Proof.Machine.execFrsq e s
  | .fsqrt e => Sys2Proof.Machine.execFsqrt e s
  | .fex2 e => Sys2Proof.Machine.execFex2 e s
  | .flg2 e => Sys2Proof.Machine.execFlg2 e s
  | .fsin e => Sys2Proof.Machine.execFsin e s
  | .fcos e => Sys2Proof.Machine.execFcos e s
  | .hadd2 e => Sys2Proof.Machine.execHadd2 e s
  | .hmul2 e => Sys2Proof.Machine.execHmul2 e s
  | .hfma2 e => Sys2Proof.Machine.execHfma2 e s
  | .hmin2 e => Sys2Proof.Machine.execHmin2 e s
  | .hmax2 e => Sys2Proof.Machine.execHmax2 e s
  | .bperm e => Sys2Proof.Machine.execBperm e s
  | .nlut e => Sys2Proof.Machine.execNlut e s
  | .shfl e => Sys2Proof.Machine.execShfl e s
  | .lscan e => Sys2Proof.Machine.execLscan e s
  | .lred e => Sys2Proof.Machine.execLred e s
  | .dadd e => Sys2Proof.Machine.execDadd e s
  | .dmul e => Sys2Proof.Machine.execDmul e s
  | .dfma e => Sys2Proof.Machine.execDfma e s
  | .ddiv e => Sys2Proof.Machine.execDdiv e s
  | .dcvt e => Sys2Proof.Machine.execDcvt e s
  | .cvt e => Sys2Proof.Machine.execCvt e s
  | .pcvt e => Sys2Proof.Machine.execPcvt e s
  | .scaleq e => Sys2Proof.Machine.execScaleq e s
  | .tquant e => Sys2Proof.Machine.execTquant e s
  | .ldx e => Sys2Proof.Machine.execLdx e s
  | .stx e => Sys2Proof.Machine.execStx e s
  | .srseed e => Sys2Proof.Machine.execSrseed e s
  | .ld e => Sys2Proof.Machine.execLd e s
  | .st e => Sys2Proof.Machine.execSt e s
  | .ldu e => Sys2Proof.Machine.execLdu e s
  | .ldb e => Sys2Proof.Machine.execLdb e s
  | .stb e => Sys2Proof.Machine.execStb e s
  | .atom e => Sys2Proof.Machine.execAtom e s
  | .red e => Sys2Proof.Machine.execRed e s
  | .lr e => Sys2Proof.Machine.execLr e s
  | .sc e => Sys2Proof.Machine.execSc e s
  | .acq e => Sys2Proof.Machine.execAcq e s
  | .rel e => Sys2Proof.Machine.execRel e s
  | .fence e => Sys2Proof.Machine.execFence e s
  | .waitw e => Sys2Proof.Machine.execWaitw e s
  | .pref e => Sys2Proof.Machine.execPref e s
  | .homeWritePerformed => Sys2Proof.Machine.execHomeWritePerformed s
  | .loadValueReturn => Sys2Proof.Machine.execLoadValueReturn s
  | .barinit e => Sys2Proof.Machine.execBarinit e s
  | .arrive e => Sys2Proof.Machine.execArrive e s
  | .arrivex e => Sys2Proof.Machine.execArrivex e s
  | .barrierStep => Sys2Proof.Machine.execBarrierStep s
  | .waitb e => Sys2Proof.Machine.execWaitb e s
  | .testb e => Sys2Proof.Machine.execTestb e s
  | .barinv e => Sys2Proof.Machine.execBarinv e s
  | .rinit e => Sys2Proof.Machine.execRinit e s
  | .rpush e => Sys2Proof.Machine.execRpush e s
  | .rpop e => Sys2Proof.Machine.execRpop e s
  | .ringWaiterServed => Sys2Proof.Machine.execRingWaiterServed s
  | .rdoneFill e => Sys2Proof.Machine.execRdoneFill e s
  | .rdoneFree e => Sys2Proof.Machine.execRdoneFree e s
  | .rpeek e => Sys2Proof.Machine.execRpeek e s
  | .rstat e => Sys2Proof.Machine.execRstat e s
  | .cpy e => Sys2Proof.Machine.execCpy e s
  | .cpytLd e => Sys2Proof.Machine.execCpytLd e s
  | .cpytSt e => Sys2Proof.Machine.execCpytSt e s
  | .cpyr e => Sys2Proof.Machine.execCpyr e s
  | .cpys e => Sys2Proof.Machine.execCpys e s
  | .copyChunkStart => Sys2Proof.Machine.execCopyChunkStart s
  | .copyChunkCounted => Sys2Proof.Machine.execCopyChunkCounted s
  | .seal e => Sys2Proof.Machine.execSeal e s
  | .waitk e => Sys2Proof.Machine.execWaitk e s
  | .testk e => Sys2Proof.Machine.execTestk e s
  | .cpyq e => Sys2Proof.Machine.execCpyq e s
  | .mma e => Sys2Proof.Machine.execMma e s
  | .mmat e => Sys2Proof.Machine.execMmat e s
  | .mzero e => Sys2Proof.Machine.execMzero e s
  | .mldx e => Sys2Proof.Machine.execMldx e s
  | .mstx e => Sys2Proof.Machine.execMstx e s
  | .mwaitb e => Sys2Proof.Machine.execMwaitb e s
  | .marrive e => Sys2Proof.Machine.execMarrive e s
  | .mloop e => Sys2Proof.Machine.execMloop e s
  | .mbra e => Sys2Proof.Machine.execMbra e s
  | .mbraNz e => Sys2Proof.Machine.execMbraNz e s
  | .mend e => Sys2Proof.Machine.execMend e s
  | .myield e => Sys2Proof.Machine.execMyield e s
  | .mxrd e => Sys2Proof.Machine.execMxrd e s
  | .mxrdS e => Sys2Proof.Machine.execMxrdS e s
  | .mxwr e => Sys2Proof.Machine.execMxwr e s
  | .mxwrS e => Sys2Proof.Machine.execMxwrS e s
  | .proxyEmulationEntry => Sys2Proof.Machine.execProxyEmulationEntry s
  | .smv e => Sys2Proof.Machine.execSmv e s
  | .smvb e => Sys2Proof.Machine.execSmvb e s
  | .smvcfg e => Sys2Proof.Machine.execSmvcfg e s
  | .smvq e => Sys2Proof.Machine.execSmvq e s
  | .smvcan e => Sys2Proof.Machine.execSmvcan e s
  | .stackCommandRun => Sys2Proof.Machine.execStackCommandRun s
  | .stackResultUnit => Sys2Proof.Machine.execStackResultUnit s
  | .tspawn e => Sys2Proof.Machine.execTspawn e s
  | .tspawnOrd e => Sys2Proof.Machine.execTspawnOrd e s
  | .texit e => Sys2Proof.Machine.execTexit e s
  | .taff e => Sys2Proof.Machine.execTaff e s
  | .fnew e => Sys2Proof.Machine.execFnew e s
  | .fresolve e => Sys2Proof.Machine.execFresolve e s
  | .fpoison e => Sys2Proof.Machine.execFpoison e s
  | .fawait e => Sys2Proof.Machine.execFawait e s
  | .fjoin2 e => Sys2Proof.Machine.execFjoin2 e s
  | .fget e => Sys2Proof.Machine.execFget e s
  | .taskDispatch => Sys2Proof.Machine.execTaskDispatch s
  | .taskStealable => Sys2Proof.Machine.execTaskStealable s
  | .taskSteal => Sys2Proof.Machine.execTaskSteal s
  | .continuationOverflowRetry => Sys2Proof.Machine.execContinuationOverflowRetry s
  | .odom e => Sys2Proof.Machine.execOdom e s
  | .cdom e => Sys2Proof.Machine.execCdom e s
  | .rbegin e => Sys2Proof.Machine.execRbegin e s
  | .rbeginSer e => Sys2Proof.Machine.execRbeginSer e s
  | .rend e => Sys2Proof.Machine.execRend e s
  | .rabort e => Sys2Proof.Machine.execRabort e s
  | .rstatSpec e => Sys2Proof.Machine.execRstatSpec e s
  | .tfront e => Sys2Proof.Machine.execTfront e s
  | .tdefer e => Sys2Proof.Machine.execTdefer e s
  | .tdeferTimeout => Sys2Proof.Machine.execTdeferTimeout s
  | .depq e => Sys2Proof.Machine.execDepq e s
  | .unitAdmit => Sys2Proof.Machine.execUnitAdmit s
  | .serialTokenGrant => Sys2Proof.Machine.execSerialTokenGrant s
  | .frontierPublish => Sys2Proof.Machine.execFrontierPublish s
  | .orderedCommit => Sys2Proof.Machine.execOrderedCommit s
  | .promotion => Sys2Proof.Machine.execPromotion s
  | .regionCommit => Sys2Proof.Machine.execRegionCommit s
  | .edgeStallTimeout => Sys2Proof.Machine.execEdgeStallTimeout s
  | .trap e => Sys2Proof.Machine.execTrap e s
  | .emrd e => Sys2Proof.Machine.execEmrd e s
  | .emwr e => Sys2Proof.Machine.execEmwr e s
  | .emret e => Sys2Proof.Machine.execEmret e s
  | .emskip e => Sys2Proof.Machine.execEmskip e s
  | .hostcall e => Sys2Proof.Machine.execHostcall e s
  | .hostcallWait e => Sys2Proof.Machine.execHostcallWait e s
  | .xop e => Sys2Proof.Machine.execXop e s
  | .watchdog => Sys2Proof.Machine.execWatchdog s
  | .trapRecordProduce => Sys2Proof.Machine.execTrapRecordProduce s
  | .transRetry => Sys2Proof.Machine.execTransRetry s
  | .transSkip => Sys2Proof.Machine.execTransSkip s
  | .transAbandon => Sys2Proof.Machine.execTransAbandon s
  | .trctlEnable => Sys2Proof.Machine.execTrctlEnable s
  | .trctlLostClear => Sys2Proof.Machine.execTrctlLostClear s
  | .trconsWrite => Sys2Proof.Machine.execTrconsWrite s
  | .wrpost e => Sys2Proof.Machine.execWrpost e s
  | .wrarm e => Sys2Proof.Machine.execWrarm e s
  | .wrcan e => Sys2Proof.Machine.execWrcan e s
  | .collAllreduce e => Sys2Proof.Machine.execCollAllreduce e s
  | .collAllgather e => Sys2Proof.Machine.execCollAllgather e s
  | .collReducescatter e => Sys2Proof.Machine.execCollReducescatter e s
  | .collAlltoall e => Sys2Proof.Machine.execCollAlltoall e s
  | .collBroadcast e => Sys2Proof.Machine.execCollBroadcast e s
  | .vdnq e => Sys2Proof.Machine.execVdnq e s
  | .ffence e => Sys2Proof.Machine.execFfence e s
  | .cntadd e => Sys2Proof.Machine.execCntadd e s
  | .cntwait e => Sys2Proof.Machine.execCntwait e s
  | .cntwaitTimeout => Sys2Proof.Machine.execCntwaitTimeout s
  | .remoteRequestArrival => Sys2Proof.Machine.execRemoteRequestArrival s
  | .remoteResponseArrival => Sys2Proof.Machine.execRemoteResponseArrival s
  | .remoteTimeout => Sys2Proof.Machine.execRemoteTimeout s
  | .messagePacketArrival => Sys2Proof.Machine.execMessagePacketArrival s
  | .sprayBitmapAck => Sys2Proof.Machine.execSprayBitmapAck s
  | .sprayRetransmit => Sys2Proof.Machine.execSprayRetransmit s
  | .messageTimeout => Sys2Proof.Machine.execMessageTimeout s
  | .workRequestFire => Sys2Proof.Machine.execWorkRequestFire s
  | .workRequestComplete => Sys2Proof.Machine.execWorkRequestComplete s
  | .collectiveComplete => Sys2Proof.Machine.execCollectiveComplete s
  | .peerResetArrival => Sys2Proof.Machine.execPeerResetArrival s
  | .allowArrival => Sys2Proof.Machine.execAllowArrival s
  | .packetHop => Sys2Proof.Machine.execPacketHop s
  | .vdnsyncGo => Sys2Proof.Machine.execVdnsyncGo s
  | .vdnsyncComplete => Sys2Proof.Machine.execVdnsyncComplete s
  | .flitSend => Sys2Proof.Machine.execFlitSend s
  | .flitReceive => Sys2Proof.Machine.execFlitReceive s
  | .replayTimeout => Sys2Proof.Machine.execReplayTimeout s
  | .pauseSilenceTimeout => Sys2Proof.Machine.execPauseSilenceTimeout s
  | .laneLock => Sys2Proof.Machine.execLaneLock s
  | .lockTimeout => Sys2Proof.Machine.execLockTimeout s
  | .trainingAgreement => Sys2Proof.Machine.execTrainingAgreement s
  | .linkMismatch => Sys2Proof.Machine.execLinkMismatch s
  | .summaryTimeout => Sys2Proof.Machine.execSummaryTimeout s
  | .mismatchRetry => Sys2Proof.Machine.execMismatchRetry s
  | .lockLost => Sys2Proof.Machine.execLockLost s
  | .reconfTimeout => Sys2Proof.Machine.execReconfTimeout s
  | .portEnable => Sys2Proof.Machine.execPortEnable s
  | .portDisable => Sys2Proof.Machine.execPortDisable s
  | .portRetrain => Sys2Proof.Machine.execPortRetrain s
  | .portReconfSet => Sys2Proof.Machine.execPortReconfSet s
  | .portReconfClear => Sys2Proof.Machine.execPortReconfClear s
  | .pkidInstall => Sys2Proof.Machine.execPkidInstall s
  | .pkidWithdraw => Sys2Proof.Machine.execPkidWithdraw s
  | .routeSwap => Sys2Proof.Machine.execRouteSwap s
  | .queueNotify => Sys2Proof.Machine.execQueueNotify s
  | .launchRecordAccept => Sys2Proof.Machine.execLaunchRecordAccept s
  | .blockPlacement => Sys2Proof.Machine.execBlockPlacement s
  | .launchComplete => Sys2Proof.Machine.execLaunchComplete s
  | .elasticPark => Sys2Proof.Machine.execElasticPark s
  | .waveEvict => Sys2Proof.Machine.execWaveEvict s
  | .sliceEnd => Sys2Proof.Machine.execSliceEnd s
  | .drainDeadline => Sys2Proof.Machine.execDrainDeadline s
  | .clusterReturn => Sys2Proof.Machine.execClusterReturn s
  | .pageWalk => Sys2Proof.Machine.execPageWalk s
  | .tlbinvAll => Sys2Proof.Machine.execTlbinvAll s
  | .tlbinvPage => Sys2Proof.Machine.execTlbinvPage s
  | .s2invAll => Sys2Proof.Machine.execS2invAll s
  | .s2invPage => Sys2Proof.Machine.execS2invPage s
  | .invalidationComplete => Sys2Proof.Machine.execInvalidationComplete s
  | .s1rootWrite => Sys2Proof.Machine.execS1rootWrite s
  | .s2rootWrite => Sys2Proof.Machine.execS2rootWrite s
  | .tfbaseEnable => Sys2Proof.Machine.execTfbaseEnable s
  | .s2ansRetry => Sys2Proof.Machine.execS2ansRetry s
  | .s2ansSkip => Sys2Proof.Machine.execS2ansSkip s
  | .s2ansAbandon => Sys2Proof.Machine.execS2ansAbandon s
  | .fresetGo => Sys2Proof.Machine.execFresetGo s
  | .functionResetComplete => Sys2Proof.Machine.execFunctionResetComplete s
  | .clownOwnerChange => Sys2Proof.Machine.execClownOwnerChange s
  | .clownLend => Sys2Proof.Machine.execClownLend s
  | .clownReclaim => Sys2Proof.Machine.execClownReclaim s
  | .spartWrite => Sys2Proof.Machine.execSpartWrite s
  | .calcmtWrite => Sys2Proof.Machine.execCalcmtWrite s
  | .calendarApply => Sys2Proof.Machine.execCalendarApply s
  | .eventRecord => Sys2Proof.Machine.execEventRecord s
  | .evctlEnable => Sys2Proof.Machine.execEvctlEnable s
  | .evctlLostClear => Sys2Proof.Machine.execEvctlLostClear s
  | .evconsWrite => Sys2Proof.Machine.execEvconsWrite s
  | .vestatClear => Sys2Proof.Machine.execVestatClear s
  | .mgctlGoSource => Sys2Proof.Machine.execMgctlGoSource s
  | .mgctlGoReceive => Sys2Proof.Machine.execMgctlGoReceive s
  | .mgctlLull => Sys2Proof.Machine.execMgctlLull s
  | .mgctlCancel => Sys2Proof.Machine.execMgctlCancel s
  | .foehnBlockSend => Sys2Proof.Machine.execFoehnBlockSend s
  | .foehnBlockArrival => Sys2Proof.Machine.execFoehnBlockArrival s
  | .foehnRoundEnd => Sys2Proof.Machine.execFoehnRoundEnd s
  | .markArrival => Sys2Proof.Machine.execMarkArrival s
  | .markAckArrival => Sys2Proof.Machine.execMarkAckArrival s
  | .drainComplete => Sys2Proof.Machine.execDrainComplete s
  | .drainAbandon => Sys2Proof.Machine.execDrainAbandon s
  | .markReleaseArrival => Sys2Proof.Machine.execMarkReleaseArrival s
  | .saveComplete => Sys2Proof.Machine.execSaveComplete s
  | .shipComplete => Sys2Proof.Machine.execShipComplete s
  | .rebindArrival => Sys2Proof.Machine.execRebindArrival s
  | .rebindComplete => Sys2Proof.Machine.execRebindComplete s
  | .imageArrival => Sys2Proof.Machine.execImageArrival s
  | .forwardPacket => Sys2Proof.Machine.execForwardPacket s
  | .forwardWindowEnd => Sys2Proof.Machine.execForwardWindowEnd s
  | .sessionFailure => Sys2Proof.Machine.execSessionFailure s
  | .evictctlGo => Sys2Proof.Machine.execEvictctlGo s
  | .evictArmRequest => Sys2Proof.Machine.execEvictArmRequest s
  | .evictArmRetry => Sys2Proof.Machine.execEvictArmRetry s
  | .evictTimeout => Sys2Proof.Machine.execEvictTimeout s
  | .mctpDevicePageAccess => Sys2Proof.Machine.execMctpDevicePageAccess s
  | .smbusFallback => Sys2Proof.Machine.execSmbusFallback s
  | .getVersion => Sys2Proof.Machine.execGetVersion s
  | .getCapabilities => Sys2Proof.Machine.execGetCapabilities s
  | .negotiateAlgorithms => Sys2Proof.Machine.execNegotiateAlgorithms s
  | .getDigests => Sys2Proof.Machine.execGetDigests s
  | .getCertificate => Sys2Proof.Machine.execGetCertificate s
  | .challenge => Sys2Proof.Machine.execChallenge s
  | .getMeasurements => Sys2Proof.Machine.execGetMeasurements s
  | .keyExchange => Sys2Proof.Machine.execKeyExchange s
  | .finish => Sys2Proof.Machine.execFinish s
  | .portKeySession => Sys2Proof.Machine.execPortKeySession s
  | .firmwareImageInstall => Sys2Proof.Machine.execFirmwareImageInstall s
  | .powerGood => Sys2Proof.Machine.execPowerGood s
  | .unitSelfTestComplete => Sys2Proof.Machine.execUnitSelfTestComplete s
  | .throttleUpdate => Sys2Proof.Machine.execThrottleUpdate s
  | .elogClear => Sys2Proof.Machine.execElogClear s
  | .hbmScrub => Sys2Proof.Machine.execHbmScrub s
  | .hostLinkDown => Sys2Proof.Machine.execHostLinkDown s
  | .registerWrite => Sys2Proof.Machine.execRegisterWrite s
  | .pfReset => Sys2Proof.Machine.execPfReset s
  | .sessionPartnerRequest => Sys2Proof.Machine.execSessionPartnerRequest s
  | .recvGenerationWaitExpiry => Sys2Proof.Machine.execRecvGenerationWaitExpiry s
  | .blockSaveComplete => Sys2Proof.Machine.execBlockSaveComplete s

end Sys2Proof.Machine
end

