-- ==== Sys2Proof/Machine/Step.lean ====
section
/-!
DEFINITION. Sys2Proof/Machine/Step.lean: one step of the machine, and the state in which a given instruction comes next.
-/

namespace Sys2Proof.Machine

/-- One step: the machine settles, and the next turn's row, if there is one, has its effect. -/
def step (s : State) : Host.Outcome State Fault Refusal :=
  let t := s.begin.turn
  match t.2.turnRow t.1 with
  | some (i, s1) => exec i s1
  | none => .next t.2

/-- The state whose next step issues the instruction of the bits w (log 1). -/
def State.withFetchWord (s : State) (nbits w : Nat) : State := s.placeBytes (leBytes 16 (w % 2 ^ nbits))

end Sys2Proof.Machine
end

