-- ==== Sys2Proof/Safety.lean ====
section
/-!
DEFINITION. Sys2Proof/Safety.lean: what holds in a state from which claims start, and what an instruction leaves as it was, in the terms claims use.
-/

namespace Sys2Proof.Machine

/-- The memory is in its canonical form. -/
def State.memOk (s : State) : Prop := Memory.wf s.mem = true

/-- The instruction waits for no access of its wave (R49). -/
def Wave.quiet (w : Wave) (members : BitVec 32) (i : Instr) (e : Enc) : Prop :=
  match i.shape with
  | none => True
  | some h => ∀ a ∈ w.acc, w.waitsFor members e h a = false

/-- Instruction i of fields e reaches its guard in the context c, and nothing stands in its way: the members are runnable and stand
at one PC and base (R74), no rejoin mask is complete (R79), the wave is not stopped on a record (R126), the handler's count is below
the limit (R362), no register waits for an access (R49), and for an instruction that writes memory no arrival of the wave is on its
way (R212). -/
structure Stands (s : State) (i : Instr) (e : Enc) (c : Ctx) : Prop where
  form : ∃ opc, i.form = some (opc, e)
  issuer : s.ctx e = some c
  runs : ∀ l, c.members.getLsbD l = true → ((s.ctxWave c).lane l).cond = .runnable
  pcs : ∀ l, c.members.getLsbD l = true → ((s.ctxWave c).lane l).pc = c.pc
  together : ∀ k l, c.members.getLsbD k = true → c.members.getLsbD l = true →
    ((s.ctxWave c).lane k).base = ((s.ctxWave c).lane l).base
  joined : ∀ n, n < 8 → (s.ctxWave c).complete n = false
  going : (s.ctxWave c).stopped = none ∧ (s.ctxWave c).ended = false
  count : (s.ctxWave c).emdepth = 0 ∨ (s.ctxWave c).wdCount < 65536
  quiet : (s.ctxWave c).quiet c.members i e
  arrivals : instrWrites i = true → ∀ b ∈ (s.block c.blk).bars, ∀ p ∈ b.2.pend, p.ofWave c.wave = false

/-- The instruction stands so and its guard holds in some member (R52). -/
structure Ready (s : State) (i : Instr) (e : Enc) (c : Ctx) : Prop extends Stands s i e c where
  acting : c.acting ≠ 0

/-- t differs from s at most in one wave. -/
structure OnlyWave (s t : State) (c : Ctx) : Prop where
  device : t = { s with blocks := t.blocks }
  others : ∀ b, b ≠ c.blk → t.block b = s.block b
  block : t.block c.blk = { s.block c.blk with waves := (t.block c.blk).waves }
  waves : ∀ k, k ≠ c.wave → t.wave c.blk k = s.wave c.blk k

/-- The batch went on: the wave is as before but for its lanes, its v and s registers and the order of its batches, the issuing
batch being the most recently issued one (R75, R77); no fibre outside the batch changed. -/
structure WentOn (w w' : Wave) (c : Ctx) : Prop where
  rest : w' = { w with lanes := w'.lanes, v := w'.v, s := w'.s, batches := w'.batches, others := w'.others, wdCount := w'.wdCount }
  batches : w'.batches = w.batches.filter (fun b => b.mask &&& c.members == 0) ++ [⟨c.members⟩]
  lanes : ∀ l, c.members.getLsbD l = false → w'.lane l = w.lane l

/-- A lane of the batch after an instruction that gives it the result r: its next PC, its latch, predicates and sticky flags. -/
def Lane.after (x : Lane) (e : Enc) (r : LaneRes) (next : DWord) : Lane :=
  { x with
    pc := next
    latches := if r.words.isEmpty then x.latches
      else x.latches.set e.dlt.toNat { val := r.words.headD {}, tag := e.dst, nwb := e.nwb, valid := true }
    pred := r.preds.foldl (fun p (n, b) => if n == 31 then p else if b then p ||| laneBit n else p &&& ~~~(laneBit n)) x.pred
    fpstat := x.fpstat ||| r.flags
    sr := match r.sr with | some g => some g | none => x.sr }

/-- Each acting lane l took the result r l: the words in its destination unless NWB is set, the latch DLT names, the predicates
and the sticky flags; the batch went on at the next PC; every other register, lane, wave and block, and all of memory, is as it
was. -/
structure WroteLanes (s t : State) (c : Ctx) (e : Enc) (r : Nat → LaneRes) : Prop where
  only : OnlyWave s t c
  wentOn : WentOn (s.ctxWave c) (t.ctxWave c) c
  uniform : (t.ctxWave c).s = (s.ctxWave c).s
  acting : ∀ l, c.acting.getLsbD l = true → (t.ctxWave c).lane l = ((s.ctxWave c).lane l).after e (r l) c.nextPc
  idle : ∀ l, c.members.getLsbD l = true → c.acting.getLsbD l = false →
    (t.ctxWave c).lane l = { (s.ctxWave c).lane l with pc := c.nextPc }
  regs : ∀ l, l < 32 → ∀ q, (t.ctxWave c).vAt q l =
    if c.acting.getLsbD l = true ∧ e.nwb = false ∧ ((s.ctxWave c).lane l).base + e.dst.toNat ≤ q ∧
        q < ((s.ctxWave c).lane l).base + e.dst.toNat + (r l).words.length
      then (r l).words.getD (q - (((s.ctxWave c).lane l).base + e.dst.toNat)) {}
      else (s.ctxWave c).vAt q l

/-- The s registers from the destination on took the words; the batch went on; everything else is as it was. -/
structure WroteUniform (s t : State) (c : Ctx) (e : Enc) (xs : List PWord) : Prop where
  only : OnlyWave s t c
  wentOn : WentOn (s.ctxWave c) (t.ctxWave c) c
  lanes : ∀ l, c.members.getLsbD l = true → (t.ctxWave c).lane l = { (s.ctxWave c).lane l with pc := c.nextPc }
  regs : (t.ctxWave c).v = (s.ctxWave c).v
  uniform : ∀ q, (t.ctxWave c).sAt q =
    if e.dst.toNat - 192 ≤ q ∧ q < e.dst.toNat - 192 + xs.length then xs.getD (q - (e.dst.toNat - 192)) {}
    else (s.ctxWave c).sAt q

/-- The batch's lanes stand as x says and were partitioned by PC and base into the groups gs (R75), which hold each member once; two
members share a group exactly where they share PC and base. Where more than one part results the members lose their latches
(R54). Nothing else changed but v registers. -/
structure Regrouped (s t : State) (c : Ctx) (x : Nat → Lane) (gs : List (BitVec 32)) : Prop where
  only : OnlyWave s t c
  rest : t.ctxWave c = { s.ctxWave c with
    lanes := (t.ctxWave c).lanes, v := (t.ctxWave c).v, batches := (t.ctxWave c).batches
    others := (t.ctxWave c).others, wdCount := (t.ctxWave c).wdCount }
  inside : ∀ l, c.members.getLsbD l = true →
    (t.ctxWave c).lane l = if gs = [c.members] then x l else (x l).loseLatches
  outside : ∀ l, c.members.getLsbD l = false → (t.ctxWave c).lane l = (s.ctxWave c).lane l
  batches : (t.ctxWave c).batches =
    (s.ctxWave c).batches.filter (fun b => b.mask &&& c.members == 0) ++ gs.map (fun g => ⟨g⟩)
  covered : ∀ l, c.members.getLsbD l = true ↔ ∃ g ∈ gs, g.getLsbD l = true
  parts : ∀ g ∈ gs, ∀ h ∈ gs, ∀ k l, g.getLsbD k = true → h.getLsbD l = true →
    (g = h ↔ ((t.ctxWave c).lane k).pc = ((t.ctxWave c).lane l).pc ∧ ((t.ctxWave c).lane k).base = ((t.ctxWave c).lane l).base)

/-- The wave stopped on the record r (R126, R350, R355): r waits to be produced in its function's ring, the block is held by it and
is to be saved; no register, no memory and no other wave changed. -/
structure StoppedOn (s t : State) (c : Ctx) (r : TrapRec) : Prop where
  recs : (t.fn (s.ctxFn c)).recs = (s.fn (s.ctxFn c)).recs ++ [r]
  held : (t.block c.blk).holds = (s.block c.blk).holds ++ [r.id]
  saving : (t.block c.blk).saving = true
  wave : (t.ctxWave c).stopped = some r
  others : ∀ k, k ≠ c.wave → t.wave c.blk k = s.wave c.blk k
  blocks : ∀ b, b ≠ c.blk → t.block b = s.block b
  mem : t.mem = s.mem
  regs : (t.ctxWave c).v = (s.ctxWave c).v ∧ (t.ctxWave c).s = (s.ctxWave c).s
  source : r.id = s.serial ∧ r.fn = s.ctxFn c ∧ r.ans = true ∧ r.def_ = false ∧ r.depth = (s.ctxWave c).emdepth ∧ r.pc = c.pc ∧
    r.nextPc = c.nextPc ∧ r.blk = (s.block c.blk).handle ∧ r.wave = (s.ctxWave c).idx ∧ r.members = c.members ∧ r.blkId = c.blk

/-! ### Memory -/

/-- t is s after address translation with no A or D bit left to set: only what the cores and clusters hold of translations, and the draws
of free choices, may differ (R397 to R401). -/
structure State.walked (s t : State) : Prop where
  device : t = { s with tick := t.tick, cores := t.cores, clusters := t.clusters }
  cores : ∀ k, t.core k = { s.core k with tlb := (t.core k).tlb }

/-- The address translates to x for the access, whatever the block's waves hold, and no A or D bit is left to set (R397 to R401). -/
def State.mapsTo (s : State) (c : Ctx) (va : DWord) (acc : Acc) (x : Xlat) : Prop :=
  ∀ b : Block, b.fn = (s.block c.blk).fn → b.core = (s.block c.blk).core → b.scrBase = (s.block c.blk).scrBase →
    ∃ u, translate (s.setBlock c.blk b) ((s.setBlock c.blk b).xreq c.blk) va.toNat acc = (.ok x, u) ∧ (s.setBlock c.blk b).walked u

/-- What a wave has in flight: the lane, the address, the kind and the destination of each access, oldest first. -/
def Wave.flight (w : Wave) : List (Nat × Nat × AccKind × AccDst) := w.acc.map (fun a => (a.lane, a.addr, a.kind, a.dst))

/-- One fibre acts, in no speculative unit; nothing of the wave is in flight, and no POISON of its instructions is to come. -/
structure OneFibre (s : State) (i : Instr) (e : Enc) (c : Ctx) (l : Nat) : Prop where
  ready : Ready s i e c
  lane : l < 32 ∧ c.acting = laneBit l
  noUnit : (s.ctxWave c).spec.sid = none
  empty : (s.ctxWave c).acc = [] ∧ (s.ctxWave c).doneMask = 0 ∧ (s.ctxWave c).late = []

/-- Memory and every other block are as they were, and so are the wave's v and s registers; its batch went on. -/
structure KeptRegisters (s t : State) (c : Ctx) : Prop where
  mem : t.mem = s.mem ∧ t.poisoned = s.poisoned
  others : (∀ b, b ≠ c.blk → t.block b = s.block b) ∧ ∀ k, k ≠ c.wave → t.wave c.blk k = s.wave c.blk k
  regs : (t.ctxWave c).v = (s.ctxWave c).v ∧ (t.ctxWave c).s = (s.ctxWave c).s
  pcs : ∀ l, c.members.getLsbD l = true → ((t.ctxWave c).lane l).pc = c.nextPc ∧ ((t.ctxWave c).lane l).cond = .runnable
  lanes : ∀ l, c.members.getLsbD l = false → (t.ctxWave c).lane l = (s.ctxWave c).lane l

/-! ### The block's units -/

/-- The batch went on; of everything else only the block's barriers, rings and the wave's s registers may have changed, and what cores
hold of translations and of copies that an acquire discards. -/
structure SyncedOn (s t : State) (c : Ctx) : Prop where
  device : t = { s with blocks := t.blocks, cores := t.cores, tick := t.tick }
  others : ∀ b, b ≠ c.blk → t.block b = s.block b
  block : t.block c.blk = { s.block c.blk with waves := (t.block c.blk).waves, bars := (t.block c.blk).bars, rings := (t.block c.blk).rings }
  waves : ∀ k, k ≠ c.wave → t.wave c.blk k = s.wave c.blk k
  wentOn : WentOn (s.ctxWave c) (t.ctxWave c) c
  regs : (t.ctxWave c).v = (s.ctxWave c).v
  pcs : ∀ l, c.members.getLsbD l = true → ((t.ctxWave c).lane l).pc = c.nextPc

/-- The s registers from number r on hold the words, the others what they held. -/
def Wave.wroteS (w w' : Wave) (r : Nat) (xs : List Word) : Prop :=
  ∀ q, w'.sAt q = if r ≤ q ∧ q < r + xs.length then ⟨xs.getD (q - r) 0, false⟩ else w.sAt q

/-- The fibres of the mask wait for the reason at their instruction, under the wave's next wait. -/
def Waiting (s t : State) (c : Ctx) (m : BitVec 32) (why : Why) : Prop :=
  (∀ l, m.getLsbD l = true → ((t.ctxWave c).lane l).cond = .blocked (s.ctxWave c).nextWait ∧
    ((t.ctxWave c).lane l).pc = ((s.ctxWave c).lane l).pc) ∧
  ∃ p, (t.ctxWave c).waits.get? (s.ctxWave c).nextWait = some p ∧ p.lanes = m ∧ p.why = why ∧ p.nextPc = c.nextPc

/-! ### The matrix stream -/

/-- The matrix stream m of the block issues: it has not ended, and it waits for nothing (R249, R250). -/
structure StreamReady (s : State) (blk : Nat) (m : Stream) : Prop where
  cur : s.cur = some (.stream blk)
  stream : (s.block blk).stream = some m
  going : m.ended = false ∧ m.wait = none ∧ m.stopped = none ∧ m.emul = none

/-- The address of the stream's next instruction (R46, R249). -/
def Stream.after (m : Stream) (e : Enc) : DWord := pc55 (seqPc m.pc e.len)

/-- Of everything but the block's stream, tiles, barriers and rings nothing changed, memory and what cores and clusters hold of translations
apart. -/
structure StreamWent (s t : State) (blk : Nat) : Prop where
  device : t = { s with blocks := t.blocks, mem := t.mem, poisoned := t.poisoned, cores := t.cores, clusters := t.clusters, tick := t.tick }
  cores : ∀ k, t.core k = { s.core k with tlb := (t.core k).tlb }
  others : ∀ b, b ≠ blk → t.block b = s.block b
  block : t.block blk = { s.block blk with
    stream := (t.block blk).stream, tiles := (t.block blk).tiles, tileBad := (t.block blk).tileBad, bars := (t.block blk).bars, rings := (t.block blk).rings }

/-! ### Homes -/

/-- Writes at their homes do only that: the memory is in its canonical form, no speculative unit runs, no dirty bitmap is kept and no check
error is met. -/
def State.plainMemory (s : State) : Prop := s.memOk ∧ s.units = [] ∧ s.dbmap.getLsbD 0 = false ∧ s.faulty = []

/-- No check unit is in error, and no error-log slot holds an injection (R37, R509). -/
def State.checksQuiet (s : State) : Prop := s.faulty = [] ∧ s.mgmt.elog = []

/-- Memory after a write of the bytes at the address. -/
def State.wrote (s t : State) (a : Nat) (bs : List Byte) : Prop :=
  ∀ y, t.byteAt y = if a ≤ y ∧ y < a + bs.length then bs.getD (y - a) 0 else s.byteAt y

/-- The address names the future record, whatever the block's waves hold (R297). -/
def State.futureAt (s : State) (c : Ctx) (va : DWord) (acc : Acc) (r : FutRef) : Prop :=
  ∀ b : Block, b.fn = (s.block c.blk).fn → b.core = (s.block c.blk).core → b.scrBase = (s.block c.blk).scrBase →
    ∃ u, (s.setBlock c.blk b).futurePlace c va acc = (.ok r, u) ∧ (s.setBlock c.blk b).walked u

/-- Two future records one after the other, as `futureAt`. -/
def State.futuresAt (s : State) (c : Ctx) (va vb : DWord) (r q : FutRef) : Prop :=
  ∀ x : Block, x.fn = (s.block c.blk).fn → x.core = (s.block c.blk).core → x.scrBase = (s.block c.blk).scrBase →
    ∃ u v, (s.setBlock c.blk x).futurePlace c va .readWrite = (.ok r, u) ∧ u.futurePlace c vb .readWrite = (.ok q, v) ∧
      (s.setBlock c.blk x).walked u ∧ u.walked v

/-- The batch went on, no v register changed, and the s registers from number r on took the words. -/
structure TookWords (s t : State) (c : Ctx) (r : Nat) (xs : List Word) : Prop where
  regs : (t.ctxWave c).v = (s.ctxWave c).v ∧ (s.ctxWave c).wroteS (t.ctxWave c) r xs
  pcs : ∀ l, c.members.getLsbD l = true → ((t.ctxWave c).lane l).pc = c.nextPc
  others : ∀ l, c.members.getLsbD l = false → (t.ctxWave c).lane l = (s.ctxWave c).lane l

/-- Memory after the versions of a unit became the committed value (R322). -/
def State.committed (s t : State) (sid : Nat) : Prop :=
  ∀ y, t.byteAt y = match (s.versions.find? (fun v => v.sid == sid && v.gran == y / 32 * 32)).bind (fun v => v.bytes.get? (y % 32)) with
    | some b => b
    | none => s.byteAt y

/-- The unit is the only one, it holds no operation, and its versions are of distinct granules. -/
structure Alone (s : State) (sid : Nat) (u : SpecUnit) : Prop where
  only : s.units = [(sid, u)]
  clear : u.deps = [] ∧ u.held = [] ∧ u.deferred = none
  versions : ∀ v ∈ s.versions, v.sid = sid → v.gran % 32 = 0 ∧ ∀ x ∈ s.versions, x.sid = sid → x.gran = v.gran → x = v
  memory : s.memOk ∧ s.dbmap.getLsbD 0 = false

/-- n bytes at an address of the block read as the clean bytes bs, whatever the block's waves hold, and no A bit is left to set. -/
def State.readsAs (s : State) (c : Ctx) (va : DWord) (n : Nat) (bs : List Byte) : Prop :=
  ∀ b : Block, b.fn = (s.block c.blk).fn → b.core = (s.block c.blk).core → b.scrBase = (s.block c.blk).scrBase →
    ∃ u, (s.setBlock c.blk b).readVA c.blk va.toNat n = .ok u bs false ∧ (s.setBlock c.blk b).walked u

/-! ### Operands of per-fibre instructions -/

/-- Words as one number, the lowest word first. -/
def wordsNat (xs : List Word) : Nat := xs.foldr (fun x n => x.toNat + 2 ^ 32 * n) 0

/-- In the batch's wave every acting lane can read its operands and write its destination (R58 step 7, R71). -/
def CanRead (s : State) (i : Instr) (c : Ctx) (e : Enc) : Prop := (s.ctxWave c).operandFaults c.acting i e = none

/-- The first operand of an element instruction is the pattern a, clean, and its destination lies in the window. -/
def Wave.readsElem (w : Wave) (l : Nat) (e : Enc) (a : Nat) : Prop :=
  if itBits e.fn.toNat = 64 then (∃ x : DWord, w.readPair l e.src0 = .ok (x, false) ∧ a = x.toNat) ∧ w.dstOk l e 2 = true
  else (∃ x : Word, w.src0 l e = .ok ⟨x, false⟩ ∧ a = x.toNat) ∧ w.dstOk l e 1 = true

/-- The second operand of an element instruction is the pattern b, clean: a register, or the immediate of R146. -/
def Wave.readsElemB (w : Wave) (l : Nat) (e : Enc) (b : Nat) : Prop :=
  if itBits e.fn.toNat = 64 then ∃ y : DWord, w.srcBD l e (itSigned e.fn.toNat) = .ok (y, false) ∧ b = y.toNat
  else ∃ y : Word, w.srcB l e (itImm e.fn.toNat) = .ok ⟨y, false⟩ ∧ b = y.toNat

/-- The shift amounts are the pattern b, clean; the 64-bit types take one 32-bit amount (R152). -/
def Wave.readsShift (w : Wave) (l : Nat) (e : Enc) (b : Nat) : Prop :=
  ∃ y : Word, w.srcB l e (if itBits e.fn.toNat = 64 then (if itSigned e.fn.toNat then .sign else .zero) else itImm e.fn.toNat)
    = .ok ⟨y, false⟩ ∧ b = y.toNat

/-- The sources of a lane are the words a, b and c, clean, and its destination lies in the window. -/
structure Wave.Reads3 (w : Wave) (l : Nat) (e : Enc) (a b c : Word) : Prop where
  a : w.src0 l e = .ok ⟨a, false⟩
  b : w.src1 l e = .ok ⟨b, false⟩
  c : w.src2 l e = .ok ⟨c, false⟩
  dst : w.dstOk l e 1 = true

/-- As `Reads3`, IMM32 of the 128-bit form standing for the second source. -/
structure Wave.Reads3B (w : Wave) (l : Nat) (e : Enc) (a b c : Word) : Prop where
  a : w.src0 l e = .ok ⟨a, false⟩
  b : (if e.len = .l128 then .ok ⟨e.imm32, false⟩ else w.src1 l e) = .ok ⟨b, false⟩
  c : w.src2 l e = .ok ⟨c, false⟩
  dst : w.dstOk l e 1 = true

/-- As `Reads3`, IMM32 of the 128-bit form standing for the third source. -/
structure Wave.Reads3C (w : Wave) (l : Nat) (e : Enc) (a b c : Word) : Prop where
  a : w.src0 l e = .ok ⟨a, false⟩
  b : w.src1 l e = .ok ⟨b, false⟩
  c : (if e.len = .l128 then .ok ⟨e.imm32, false⟩ else w.src2 l e) = .ok ⟨c, false⟩
  dst : w.dstOk l e 1 = true

/-- The first source of a lane is the word a, clean, and its destination lies in the window. -/
structure Wave.Reads1 (w : Wave) (l : Nat) (e : Enc) (a : Word) : Prop where
  a : w.src0 l e = .ok ⟨a, false⟩
  dst : w.dstOk l e 1 = true

/-- The first two sources of a lane are the words a and b, clean, and its destination lies in the window. -/
structure Wave.Reads2 (w : Wave) (l : Nat) (e : Enc) (a b : Word) : Prop where
  a : w.src0 l e = .ok ⟨a, false⟩
  b : w.src1 l e = .ok ⟨b, false⟩
  dst : w.dstOk l e 1 = true

/-- The operand of POPC, CLZ and BREV is the number a, clean: 64 bits for FN 7, else 32; the destination has n registers. -/
def Wave.readsCount (w : Wave) (l : Nat) (e : Enc) (n a : Nat) : Prop :=
  (if e.fn.toNat = 7 then ∃ x : DWord, w.readPair l e.src0 = .ok (x, false) ∧ a = x.toNat
    else ∃ x : Word, w.src0 l e = .ok ⟨x, false⟩ ∧ a = x.toNat) ∧ w.dstOk l e n = true

end Sys2Proof.Machine
end

