-- ==== Sys2Proof/Certificates/Slice0/Obligations.lean ====
section
/-!
DEFINITION. Sys2Proof/Certificates/Slice0/Obligations.lean: the statements for the provers.
-/

open Sys2Proof Sys2Proof.Machine

/-- Reset leaves the memory in its canonical form. -/
def Obligations.ResetMemOk : Prop := Sys2Proof.Machine.State.reset.memOk

/-- R148: IADD, ISUB, IMUL, IMIN and IMAX complete, and act element by element in every acting lane: each element of the result is the
exact result of the two elements, clamped to the type where SAT is set, modulo 2^w; nothing but the destination, its latch and the PCs
changes. R150: IABS and INEG complete, and write |x| and −x element by element: the most negative element wraps to itself without SAT
and gives the largest positive value with SAT. -/
def Obligations.IntegerElements : Prop :=
  (∀ (s : State) (e : Enc) (c : Ctx) (a b : Nat → Nat),
      ∀ p ∈ [(Instr.iadd e, fun x y : Int => x + y), (.isub e, fun x y => x - y), (.imul e, fun x y => x * y),
        (.imin e, fun x y => min x y), (.imax e, fun x y => max x y)],
      Ready s p.1 e c → CanRead s p.1 c e →
      (∀ l, c.acting.getLsbD l = true → (s.ctxWave c).readsElem l e (a l) ∧ (s.ctxWave c).readsElemB l e (b l)) →
      ∃ t, ∃ x : Nat → List Word, exec p.1 s = .next t ∧ WroteLanes s t c e (fun l => { words := clean (x l) }) ∧
        ∀ l, c.acting.getLsbD l = true →
          (x l).length = (if itBits e.fn.toNat = 64 then 2 else 1) ∧
          ∀ k, itBits e.fn.toNat * (k + 1) ≤ 32 * (x l).length →
            let w := itBits e.fn.toNat
            let sg := itSigned e.fn.toNat
            let r := p.2 (elemInt sg w (elemAt w (a l) k)) (elemInt sg w (elemAt w (b l) k))
            (elemAt w (wordsNat (x l)) k : Int) = (if e.mod.getLsbD 0 then clampTo sg w r else r) % 2 ^ w) ∧
  (∀ (s : State) (e : Enc) (c : Ctx) (a : Nat → Nat),
      ∀ p ∈ [(Instr.iabs e, fun x : Int => if x < 0 then -x else x), (.ineg e, fun x => -x)],
      Ready s p.1 e c → CanRead s p.1 c e → p.1.wellFormed = true →
      (∀ l, c.acting.getLsbD l = true → (s.ctxWave c).readsElem l e (a l)) →
      ∃ t, ∃ x : Nat → List Word, exec p.1 s = .next t ∧ WroteLanes s t c e (fun l => { words := clean (x l) }) ∧
        ∀ l, c.acting.getLsbD l = true →
          (x l).length = (if itBits e.fn.toNat = 64 then 2 else 1) ∧
          ∀ k, itBits e.fn.toNat * (k + 1) ≤ 32 * (x l).length →
            let w := itBits e.fn.toNat
            let v := elemInt true w (elemAt w (a l) k)
            (elemAt w (wordsNat (x l)) k : Int) =
              if v = -(2 ^ (w - 1)) then (if e.mod.getLsbD 0 then 2 ^ (w - 1) - 1 else 2 ^ (w - 1)) else p.2 v % 2 ^ w)

/-- R149, R151: IMULH writes the high half of the exact product, IMAD the sum of product and addend with a single wrap, IDP4 the
four-term dot product of bytes and the accumulator, clamped where SAT is set. -/
def Obligations.MultiplyForms : Prop :=
  ∀ (s : State) (e : Enc) (c : Ctx) (a b d : Nat → Word),
    (Ready s (.imulh e) e c → CanRead s (.imulh e) c e → (∀ l, c.acting.getLsbD l = true → (s.ctxWave c).Reads2 l e (a l) (b l)) →
      ∃ t, exec (.imulh e) s = .next t ∧ WroteLanes s t c e (fun l => word1
        (if e.fn = 0 then ((a l).signExtend 64 * (b l).signExtend 64).extractLsb' 32 32
          else ((a l).setWidth 64 * (b l).setWidth 64).extractLsb' 32 32))) ∧
    (Ready s (.imad e) e c → CanRead s (.imad e) c e → (∀ l, c.acting.getLsbD l = true → (s.ctxWave c).Reads3B l e (a l) (b l) (d l)) →
      ∃ t, exec (.imad e) s = .next t ∧ WroteLanes s t c e (fun l => word1 (a l * b l + d l))) ∧
    (Ready s (.idp4 e) e c → CanRead s (.idp4 e) c e → (∀ l, c.acting.getLsbD l = true → (s.ctxWave c).Reads3 l e (a l) (b l) (d l)) →
      ∃ t, exec (.idp4 e) s = .next t ∧ WroteLanes s t c e (fun l =>
        let byte (x : Word) (k : Nat) (sg : Bool) : Int :=
          if sg then (x.extractLsb' (8 * k) 8).toInt else ((x.extractLsb' (8 * k) 8).toNat : Int)
        let sa := e.fn = 0 ∨ e.fn = 2
        let sb := e.fn = 0 ∨ e.fn = 3
        let prod (k : Nat) : Int := byte (a l) k (decide sa) * byte (b l) k (decide sb)
        let r := (if e.fn = 1 then ((d l).toNat : Int) else (d l).toInt) + prod 0 + prod 1 + prod 2 + prod 3
        word1 (BitVec.ofInt 32 (if e.mod.getLsbD 0 then
          (if e.fn = 1 then max 0 (min (2 ^ 32 - 1) r) else max (-(2 ^ 31)) (min (2 ^ 31 - 1) r)) else r))))

/-- R152: ISHL, ISHR and IROT complete; each element is shifted by its own amount, which may be the element's width or more, and the
64-bit types by the one 32-bit amount; ISHR divides the element, read by the type's signedness, by 2^n and rounds down, which fills with
zeros or with the sign bit. R153: bit j of BITFN's result is the bit of the table whose index is made of bit j of the three sources.
R154: POPC counts the 1 bits, CLZ the 0 bits above the most significant 1, BREV reverses the bit order. R155: BFE and BFI take the field
[p + n − 1 : p], cut at bit 31, that the second operand or IMM16 names; BFE extracts it, extended by sign for FN 0 and by zeros
otherwise, and an empty field gives 0; BFI inserts the low bits of its first operand into the base there. -/
def Obligations.ShiftsAndBits : Prop :=
  (∀ (s : State) (e : Enc) (c : Ctx) (a b : Nat → Nat),
      ∀ p ∈ [(Instr.ishl e, fun (w x n : Nat) => if n < w then x * 2 ^ n % 2 ^ w else 0),
        (.ishr e, fun w x n => (elemInt (itSigned e.fn.toNat) w x / 2 ^ n % 2 ^ w).toNat),
        (.irot e, fun w x n => x * 2 ^ (n % w) % 2 ^ w + x / 2 ^ (w - n % w))],
      Ready s p.1 e c → CanRead s p.1 c e →
      (∀ l, c.acting.getLsbD l = true → (s.ctxWave c).readsElem l e (a l) ∧ (s.ctxWave c).readsShift l e (b l)) →
      ∃ t, ∃ x : Nat → List Word, exec p.1 s = .next t ∧ WroteLanes s t c e (fun l => { words := clean (x l) }) ∧
        ∀ l, c.acting.getLsbD l = true →
          (x l).length = (if itBits e.fn.toNat = 64 then 2 else 1) ∧
          ∀ k, itBits e.fn.toNat * (k + 1) ≤ 32 * (x l).length →
            let w := itBits e.fn.toNat
            elemAt w (wordsNat (x l)) k = p.2 w (elemAt w (a l) k) (if w = 64 then b l else elemAt w (b l) k)) ∧
  (∀ (s : State) (e : Enc) (c : Ctx) (a b d : Nat → Word) (n : Nat → Nat),
      let width := if e.fn.toNat = 7 then 64 else 32
      (Ready s (.bitfn e) e c → CanRead s (.bitfn e) c e → (∀ l, c.acting.getLsbD l = true → (s.ctxWave c).Reads3C l e (a l) (b l) (d l)) →
        ∃ t, ∃ x : Nat → Word, exec (.bitfn e) s = .next t ∧ WroteLanes s t c e (fun l => word1 (x l)) ∧
          ∀ l, c.acting.getLsbD l = true → ∀ j, j < 32 → (x l).getLsbD j =
            e.ext.getLsbD (((a l).getLsbD j).toNat + 2 * ((b l).getLsbD j).toNat + 4 * ((d l).getLsbD j).toNat)) ∧
      (Ready s (.popc e) e c → CanRead s (.popc e) c e → (∀ l, c.acting.getLsbD l = true → (s.ctxWave c).readsCount l e 1 (n l)) →
        ∃ t, ∃ x : Nat → Word, exec (.popc e) s = .next t ∧ WroteLanes s t c e (fun l => word1 (x l)) ∧
          ∀ l, c.acting.getLsbD l = true → (x l).toNat = ((List.range width).filter (fun j => (n l).testBit j)).length) ∧
      (Ready s (.clz e) e c → CanRead s (.clz e) c e → (∀ l, c.acting.getLsbD l = true → (s.ctxWave c).readsCount l e 1 (n l)) →
        ∃ t, ∃ x : Nat → Word, exec (.clz e) s = .next t ∧ WroteLanes s t c e (fun l => word1 (x l)) ∧
          ∀ l, c.acting.getLsbD l = true → (x l).toNat ≤ width ∧ n l < 2 ^ (width - (x l).toNat) ∧
            ((x l).toNat < width → (n l).testBit (width - 1 - (x l).toNat) = true)) ∧
      (Ready s (.brev e) e c → CanRead s (.brev e) c e →
        (∀ l, c.acting.getLsbD l = true → (s.ctxWave c).readsCount l e (if e.fn.toNat = 7 then 2 else 1) (n l)) →
        ∃ t, ∃ x : Nat → List Word, exec (.brev e) s = .next t ∧ WroteLanes s t c e (fun l => { words := clean (x l) }) ∧
          ∀ l, c.acting.getLsbD l = true → 32 * (x l).length = width ∧
            ∀ j, j < width → (wordsNat (x l)).testBit j = (n l).testBit (width - 1 - j))) ∧
  (∀ (s : State) (e : Enc) (c : Ctx) (a b d : Nat → Word),
      let src (l : Nat) : Except Cause PWord :=
        if e.mod.getLsbD 0 then .ok ⟨e.imm16.setWidth 32, false⟩ else (s.ctxWave c).src1 l e
      let p (l : Nat) : Nat := (b l).toNat % 256
      let n (l : Nat) : Nat := (b l).toNat / 256 % 256
      let top (l : Nat) : Nat := min (p l + n l) 32
      let empty (l : Nat) : Prop := n l = 0 ∨ 32 ≤ p l
      (Ready s (.bfe e) e c → CanRead s (.bfe e) c e →
        (∀ l, c.acting.getLsbD l = true → (s.ctxWave c).Reads1 l e (a l) ∧ src l = .ok ⟨b l, false⟩) →
        ∃ t, ∃ x : Nat → Word, exec (.bfe e) s = .next t ∧ WroteLanes s t c e (fun l => word1 (x l)) ∧
          ∀ l, c.acting.getLsbD l = true →
            (empty l → x l = 0) ∧
            (¬ empty l → ∀ j, j < 32 → (x l).getLsbD j =
              if p l + j < top l then (a l).getLsbD (p l + j) else e.fn == 0 && (a l).getLsbD (top l - 1))) ∧
      (Ready s (.bfi e) e c → CanRead s (.bfi e) c e →
        (∀ l, c.acting.getLsbD l = true → (s.ctxWave c).Reads1 l e (a l) ∧ src l = .ok ⟨b l, false⟩ ∧
          (s.ctxWave c).src2 l e = .ok ⟨d l, false⟩) →
        ∃ t, ∃ x : Nat → Word, exec (.bfi e) s = .next t ∧ WroteLanes s t c e (fun l => word1 (x l)) ∧
          ∀ l, c.acting.getLsbD l = true →
            (empty l → x l = d l) ∧
            (¬ empty l → ∀ j, j < 32 → (x l).getLsbD j =
              if p l ≤ j ∧ j < top l then (a l).getLsbD (j - p l) else (d l).getLsbD j)))

/-- R156, R171: SEL, MOV and MOVI complete, set no flag, and move the value with its poison: SEL the one its predicate selects (the other
may be poisoned), MOV its source or pair, MOVI its immediate. -/
def Obligations.Moves : Prop :=
  ∀ (s : State) (e : Enc) (c : Ctx) (x y : Nat → PWord),
    (Ready s (.sel e) e c → CanRead s (.sel e) c e → (∀ l, c.acting.getLsbD l = true →
        (if ((s.ctxWave c).lane l).q (e.mod.toNat % 32) != e.mod.getLsbD 5 then (s.ctxWave c).src0 l e else (s.ctxWave c).src1 l e) = .ok (x l) ∧
        (s.ctxWave c).dstOk l e 1 = true) →
      ∃ t, exec (.sel e) s = .next t ∧ WroteLanes s t c e (fun l => { words := [x l] })) ∧
    (Ready s (.mov e) e c → CanRead s (.mov e) c e → e.fn = 0 →
      (∀ l, c.acting.getLsbD l = true → (s.ctxWave c).src0 l e = .ok (x l) ∧ (s.ctxWave c).dstOk l e 1 = true) →
      ∃ t, exec (.mov e) s = .next t ∧ WroteLanes s t c e (fun l => { words := [x l] })) ∧
    (Ready s (.mov e) e c → CanRead s (.mov e) c e → e.fn = 1 →
      (∀ l, c.acting.getLsbD l = true → (s.ctxWave c).readSrc l false e.src0 = .ok (x l) ∧
        (s.ctxWave c).readSrc l false (e.src0 + 1) = .ok (y l) ∧ (s.ctxWave c).dstOk l e 2 = true) →
      ∃ t, exec (.mov e) s = .next t ∧ WroteLanes s t c e (fun l => { words := [x l, y l] })) ∧
    (Ready s (.movi e) e c → CanRead s (.movi e) c e → (∀ l, c.acting.getLsbD l = true → (s.ctxWave c).dstOk l e 1 = true) →
      ∃ t, exec (.movi e) s = .next t ∧
        WroteLanes s t c e (fun _ => word1 (if e.len = .l128 then e.imm32 else e.imm16.signExtend 32)))

/-- R157, R158: FADD, FSUB, FMUL, FFMA, FMIN and FMAX complete on the operands after their sign flips, in the mode of MOD[2:0], and set
the flags of the one rounding; F16 and BF16 take the low half of each operand. R159 to R161: the float instructions of one operand
complete; FABS and FNEG change the sign bit only and set no flag. -/
def Obligations.FloatArithmetic : Prop :=
  (∀ (s : State) (e : Enc) (c : Ctx) (a b d : Nat → Word),
      let f := fmtOf e.fn.toNat
      let rm := rmOf (s.ctxWave c) e
      let pat (n : Bool) (x : Word) : Nat := f.flip n (f.low x)
      let v (n : Bool) (x : Word) : FVal := f.unpack (pat n x)
      (∀ p ∈ [(Instr.fadd e, fun x y => f.addV rm x y), (.fsub e, fun x y => f.addV rm x (y.flip true)), (.fmul e, fun x y => f.mulV rm x y)],
        Ready s p.1 e c → CanRead s p.1 c e →
        (∀ l, c.acting.getLsbD l = true → (s.ctxWave c).Reads1 l e (a l) ∧ (s.ctxWave c).srcB l e (floatImm e.fn.toNat) = .ok ⟨b l, false⟩) →
        ∃ t, exec p.1 s = .next t ∧ WroteLanes s t c e (fun l => fltRes (p.2 (v (negA e) (a l)) (v (negB e) (b l))))) ∧
      (Ready s (.ffma e) e c → CanRead s (.ffma e) c e → (∀ l, c.acting.getLsbD l = true → (s.ctxWave c).Reads3B l e (a l) (b l) (d l)) →
        ∃ t, exec (.ffma e) s = .next t ∧
          WroteLanes s t c e (fun l => fltRes (f.fmaV rm (v (negA e) (a l)) (v (negB e) (b l)) (v (negC e) (d l))))) ∧
      (∀ p ∈ [(Instr.fmin e, false), (.fmax e, true)],
        Ready s p.1 e c → CanRead s p.1 c e → (∀ l, c.acting.getLsbD l = true → (s.ctxWave c).Reads2 l e (a l) (b l)) →
        ∃ t, exec p.1 s = .next t ∧ WroteLanes s t c e (fun l => fltRes (f.minMax p.2 (pat (negA e) (a l)) (pat (negB e) (b l)))))) ∧
  (∀ (s : State) (e : Enc) (c : Ctx) (a : Nat → Word),
      let f := fmtOf e.fn.toNat
      let rm := rmOf (s.ctxWave c) e
      ∀ p ∈ [(Instr.fabs e, fun x : Nat => (x % f.signBit, Flags.none)), (.fneg e, fun x => (x ^^^ f.signBit, Flags.none)),
          (.frnd e, f.roundInt rm), (.fcls e, fun x => (2 ^ f.classBit x, Flags.none)), (.frcp e, f.recip rm), (.frsq e, f.rsqrt rm),
          (.fsqrt e, f.sqrt rm), (.fex2 e, exp2 rm), (.flg2 e, log2 rm), (.fsin e, fsin rm), (.fcos e, fcos rm)],
        Ready s p.1 e c → CanRead s p.1 c e → (∀ l, c.acting.getLsbD l = true → (s.ctxWave c).Reads1 l e (a l)) →
        ∃ t, exec p.1 s = .next t ∧ WroteLanes s t c e (fun l => fltRes (p.2 (f.low (a l)))))

/-- R144: a result that does not overflow is the exact value rounded once: with the exact magnitude m × 2^k and the result ± n × 2^q,
both in units of 2^d, the result is a value of the format, it lies on the side the directed modes ask for and less than one unit in
the last place away, and RNE's result is at most half a unit away, the one with n even where two are equally near. -/
def Obligations.RoundsOnce : Prop :=
  ∀ (f : Fmt) (rm : Rm) (neg : Bool) (m : Nat) (k : Int),
    f ∈ [F32, F16, BF16] → 0 < m → (f.roundTo rm neg m k false).2.overflow = false →
    ∃ (n : Nat) (q : Int), f.unpack (f.roundTo rm neg m k false).1 = .fin neg n q ∧
      let d := min k q
      let x := m * 2 ^ (k - d).toNat
      let y := n * 2 ^ (q - d).toNat
      let u := 2 ^ (q - d).toNat
      let up := rm = .rup ∧ neg = false ∨ rm = .rdn ∧ neg = true
      (if rm = .rne then 2 * y ≤ 2 * x + u ∧ 2 * x ≤ 2 * y + u ∧ (2 * y = 2 * x + u ∨ 2 * x = 2 * y + u → n % 2 = 0)
        else if up then x ≤ y ∧ y < x + u else y ≤ x ∧ x < y + u) ∧
      ((f.roundTo rm neg m k false).2.inexact = decide (x ≠ y))

/-- R162 to R164: the packed float instructions compute each half by its own rule, their flags ORed; BPERM builds each byte from the pool
byte its selector names; NLUT looks each nibble up in the table. -/
def Obligations.PackedLanes : Prop :=
  ∀ (s : State) (e : Enc) (c : Ctx) (a b d : Nat → Word),
    let f := fmtOf e.fn.toNat
    let rm := rmOf (s.ctxWave c) e
    let pat (n : Bool) (x : Word) (k : Nat) : Nat := f.flip n (x.toNat / 2 ^ (16 * k) % 2 ^ 16)
    let v (n : Bool) (x : Word) (k : Nat) : FVal := f.unpack (pat n x k)
    let both (g : Nat → Nat × Flags) : LaneRes := { words := [⟨BitVec.ofNat 32 ((g 0).1 + (g 1).1 * 65536), false⟩], flags := ((g 0).2.or (g 1).2).bits }
    (∀ p ∈ [(Instr.hadd2 e, fun x y k => f.addV rm (v (negA e) x k) (v (negB e) y k)),
        (.hmul2 e, fun x y k => f.mulV rm (v (negA e) x k) (v (negB e) y k)),
        (.hmin2 e, fun x y k => f.minMax false (pat (negA e) x k) (pat (negB e) y k)),
        (.hmax2 e, fun x y k => f.minMax true (pat (negA e) x k) (pat (negB e) y k))],
      Ready s p.1 e c → CanRead s p.1 c e → (∀ l, c.acting.getLsbD l = true → (s.ctxWave c).Reads2 l e (a l) (b l)) →
      ∃ t, exec p.1 s = .next t ∧ WroteLanes s t c e (fun l => both (p.2 (a l) (b l)))) ∧
    (Ready s (.hfma2 e) e c → CanRead s (.hfma2 e) c e → (∀ l, c.acting.getLsbD l = true → (s.ctxWave c).Reads3 l e (a l) (b l) (d l)) →
      ∃ t, exec (.hfma2 e) s = .next t ∧
        WroteLanes s t c e (fun l => both (fun k => f.fmaV rm (v (negA e) (a l) k) (v (negB e) (b l) k) (v (negC e) (d l) k)))) ∧
    (Ready s (.bperm e) e c → CanRead s (.bperm e) c e → ∀ pool : Nat → DWord, (∀ l, c.acting.getLsbD l = true →
        (s.ctxWave c).readPair l e.src0 = .ok (pool l, false) ∧ (s.ctxWave c).src1 l e = .ok ⟨b l, false⟩ ∧ (s.ctxWave c).dstOk l e 1 = true) →
      ∃ t, ∃ x : Nat → Word, exec (.bperm e) s = .next t ∧ WroteLanes s t c e (fun l => word1 (x l)) ∧
        ∀ l, c.acting.getLsbD l = true → ∀ k, k < 4 → (x l).extractLsb' (8 * k) 8 =
          let sel := (b l).extractLsb' (8 * k) 8
          let y := (pool l).extractLsb' (8 * (sel.toNat % 8)) 8
          if sel.getLsbD 7 then 0 else if sel.getLsbD 6 then (if y.getLsbD 7 then 0xFF else 0) else y) ∧
    (Ready s (.nlut e) e c → CanRead s (.nlut e) c e → ∀ tab : Nat → Nat → Word, (∀ l, c.acting.getLsbD l = true →
        (s.ctxWave c).Reads1 l e (a l) ∧ ∀ r, r < 4 → (s.ctxWave c).readSrc l false (BitVec.ofNat 8 (e.src1.toNat + r)) = .ok ⟨tab l r, false⟩) →
      ∃ t, ∃ x : Nat → Word, exec (.nlut e) s = .next t ∧ WroteLanes s t c e (fun l => word1 (x l)) ∧
        ∀ l, c.acting.getLsbD l = true → ∀ k, k < 4 → (x l).extractLsb' (8 * k) 8 =
          let n := ((a l).extractLsb' (if e.fn = 0 then 8 * k else 8 * k + 4) 4).toNat
          (tab l (n / 4)).extractLsb' (8 * (n % 4)) 8)

/-- R165 to R167: SHFL gives each acting fibre the value of its register in the lane the form names, whatever that lane is doing, and moves
its poison; LSCAN and LRED combine the acting fibres' values by the fixed trees of R167, and LRED.ADD.I32 gives every participant the
sum of all of them. -/
def Obligations.CrossLane : Prop :=
  ∀ (s : State) (e : Enc) (c : Ctx) (a b : Nat → Word),
    let w := s.ctxWave c
    let vals : List (Option Word) := (List.range 32).map (fun l => if c.acting.getLsbD l then some (a l) else none)
    let op := e.fn.toNat % 8
    (Ready s (.shfl e) e c → CanRead s (.shfl e) c e → (∀ x ∈ w.acc, x.dst.regs = none) → (∀ l, c.acting.getLsbD l = true →
        w.srcB l e .zero = .ok ⟨b l, false⟩ ∧ (w.lane l).base + e.src0.toNat < w.limit ∧ w.dstOk l e 1 = true) →
      ∃ t, exec (.shfl e) s = .next t ∧ WroteLanes s t c e (fun l =>
        let width := 32 / 2 ^ (e.mod.toNat % 8)
        let base := l / width * width
        let n := (b l).toNat
        let j := match e.fn.toNat with
          | 0 => base + n % width
          | 1 => if n < width ∧ base + n ≤ l then l - n else l
          | 2 => if n < width ∧ l + n < base + width then l + n else l
          | _ => l ^^^ (n % width)
        { words := [w.vAt ((w.lane l).base + e.src0.toNat) j] })) ∧
    (Ready s (.lred e) e c → CanRead s (.lred e) c e → (∀ l, c.acting.getLsbD l = true → w.Reads1 l e (a l)) →
      ∃ t, exec (.lred e) s = .next t ∧ WroteLanes s t c e (fun _ =>
        { words := [⟨((redTree w op vals).1).getD (combineEmpty op), false⟩], flags := (redTree w op vals).2.bits }) ∧
      (op = 0 → (redTree w op vals).1 = some (((lanesOf c.acting).map a).foldr (fun x y => x + y) 0))) ∧
    (Ready s (.lscan e) e c → CanRead s (.lscan e) c e → (∀ l, c.acting.getLsbD l = true → w.Reads1 l e (a l)) →
      ∃ t, exec (.lscan e) s = .next t ∧ WroteLanes s t c e (fun l =>
        let y := (scanTree w op vals).1
        let r := if e.fn.getLsbD 3 then (if l = 0 then none else y.getD (l - 1) none) else y.getD l none
        { words := [⟨r.getD (combineEmpty op), false⟩], flags := (scanTree w op vals).2.bits }))

/-- R94 to R99: the predicate instructions complete and write one predicate (PMOV.WR: q0 to q30) in every acting lane, VOTE.MASK one s
register; the relations are those of R62 on the exact values, a NaN makes only NE and UN true; PMOV.RD reads bit 31 as 1. -/
def Obligations.Predicates : Prop :=
  ∀ (s : State) (e : Enc) (c : Ctx),
    let w := s.ctxWave c
    let rel (n : Nat) (lt eq : Bool) : Bool :=
      match n with
      | 0 => eq | 1 => !eq | 2 => lt | 3 => lt || eq | 4 => !lt && !eq | 5 => !lt | _ => false
    let x (l : Nat) : Bool := (w.lane l).q e.src0.toNat != e.mod.getLsbD 0
    let y (l : Nat) : Bool := (w.lane l).q e.src1.toNat != e.mod.getLsbD 1
    let set (b : Nat → Bool) (i : Instr) : Prop :=
      Ready s i e c → CanRead s i c e → ∃ t, exec i s = .next t ∧ WroteLanes s t c e (fun l => { preds := [(e.dst.toNat, b l)] })
    (∀ a b : Nat → Word, e.cmpType ≤ 1 → (∀ l, c.acting.getLsbD l = true →
        w.src0 l e = .ok ⟨a l, false⟩ ∧ w.srcB l e (if e.cmpType = 0 then .sign else .zero) = .ok ⟨b l, false⟩) →
      set (fun l => rel e.cmpRel (if e.cmpType = 0 then (a l).slt (b l) else (a l).ult (b l)) (a l == b l)) (.pcmp e)) ∧
    (∀ a b : Nat → DWord, e.cmpType = 5 ∨ e.cmpType = 6 → (∀ l, c.acting.getLsbD l = true →
        w.readPair l e.src0 = .ok (a l, false) ∧ w.srcBD l e (e.cmpType == 5) = .ok (b l, false)) →
      set (fun l => rel e.cmpRel (if e.cmpType = 5 then (a l).slt (b l) else (a l).ult (b l)) (a l == b l)) (.pcmp e)) ∧
    (∀ a b : Nat → Word, 2 ≤ e.cmpType ∧ e.cmpType ≤ 4 → Ready s (.pcmp e) e c → CanRead s (.pcmp e) c e →
      (∀ l, c.acting.getLsbD l = true →
        w.src0 l e = .ok ⟨a l, false⟩ ∧ w.srcB l e (if e.cmpType = 2 then .high else .zero) = .ok ⟨b l, false⟩) →
      ∃ t, exec (.pcmp e) s = .next t ∧ WroteLanes s t c e (fun l =>
        let f := fmtOf (e.cmpType - 2)
        let p := f.unpack (f.low (a l))
        let q := f.unpack (f.low (b l))
        if p.isNan || q.isNan then
          { preds := [(e.dst.toNat, e.cmpRel == 1 || e.cmpRel == 6)]
            flags := if p.isSnan || q.isSnan || (decide (2 ≤ e.cmpRel) && decide (e.cmpRel ≤ 5)) then 1 else 0 }
        else { preds := [(e.dst.toNat, rel e.cmpRel (p.lt q) (p.eq q))] })) ∧
    (e.fn.toNat < 4 → set (fun l =>
      match e.fn.toNat with | 0 => x l && y l | 1 => x l || y l | 2 => x l != y l | _ => x l && !y l) (.plog e)) ∧
    set x (.pmov e) ∧
    (Ready s (.pmovRd e) e c → CanRead s (.pmovRd e) c e → (∀ l, c.acting.getLsbD l = true → w.dstOk l e 1 = true) →
      ∃ t, exec (.pmovRd e) s = .next t ∧ WroteLanes s t c e (fun l => word1 ((w.lane l).pred ||| 0x80000000))) ∧
    (∀ a : Nat → Word, Ready s (.pmovWr e) e c → CanRead s (.pmovWr e) c e → (∀ l, c.acting.getLsbD l = true → w.src0 l e = .ok ⟨a l, false⟩) →
      ∃ t, exec (.pmovWr e) s = .next t ∧
        WroteLanes s t c e (fun l => { preds := (List.range 31).map (fun n => (n, (a l).getLsbD n)) })) ∧
    (∀ m : Word, w.sCode e.src0 = ⟨m, false⟩ → set (fun l => m.getLsbD l) (.pldm e)) ∧
    set (fun _ => (lanesOf c.acting).any x) (.voteSome e) ∧
    set (fun _ => (lanesOf c.acting).all x) (.voteEvery e) ∧
    set (fun _ => (lanesOf c.acting).all x || (lanesOf c.acting).all (fun l => !x l)) (.voteSame e) ∧
    (Ready s (.voteMask e) e c → CanRead s (.voteMask e) c e →
      ∃ t m, exec (.voteMask e) s = .next t ∧ WroteUniform s t c e [⟨m, false⟩] ∧
        ∀ l, l < 32 → (m : Word).getLsbD l = (c.acting.getLsbD l && x l))

/-- R83, R100: GETS completes, and gives the special register its code names, per fibre to a v register, the leader's to an s register;
%tstamp, %frontier and %clock are 64 bits wide and take two registers. R3, R101: SETS completes; it writes %fpctl or %joinlost of the
wave from an s register or IMM32, or %fpstat of each acting fibre; the reserved bits read 0 afterwards, and a write that sets some of
them counts once in the function's RSVWRITE, which saturates. -/
def Obligations.SpecialRegisters : Prop :=
  (∀ (s : State) (e : Enc) (c : Ctx),
      Ready s (.gets e) e c → CanRead s (.gets e) c e →
      let w := s.ctxWave c
      let b := s.block c.blk
      let code := e.src0.toNat
      let wide := code = 8 ∨ code = 9 ∨ code = 12
      let value (l : Nat) : DWord :=
        match code with
        | 0 => BitVec.ofNat 64 l
        | 1 => BitVec.ofNat 64 w.idx
        | 2 => BitVec.ofNat 64 b.x
        | 3 => BitVec.ofNat 64 b.y
        | 4 => BitVec.ofNat 64 b.z
        | 5 => BitVec.ofNat 64 b.nblk
        | 6 => BitVec.ofNat 64 w.stage
        | 7 => (w.lane l).fibid.setWidth 64
        | 8 => w.tstamp
        | 9 => s.frontierOf b
        | 10 => match w.spec.sid with | some k => BitVec.ofNat 64 k | none => 0xFFFFFFFF
        | 11 => (s.fn b.fn).ownVdn.setWidth 64
        | 12 => BitVec.ofNat 64 (s.clock - (s.fn b.fn).readyAt + (s.fn b.fn).clockAdd)
        | 13 => BitVec.ofNat 64 w.emdepth
        | 14 => w.fpctl.setWidth 64
        | 15 => (w.lane l).fpstat.setWidth 64
        | 16 => w.joinlost.setWidth 64
        | k => (w.ow.get 0 (k - 24)).setWidth 64
      let words (x : DWord) : List PWord := if wide then clean [x.setWidth 32, (x >>> 32).setWidth 32] else clean [x.setWidth 32]
      (e.dst.toNat < 192 → (∀ l, c.acting.getLsbD l = true → w.dstOk l e (if wide then 2 else 1) = true) →
        ∃ t, exec (.gets e) s = .next t ∧ WroteLanes s t c e (fun l => { words := words (value l) })) ∧
      (192 ≤ e.dst.toNat → ∃ t, exec (.gets e) s = .next t ∧ WroteUniform s t c e (words (value c.leader)))) ∧
  (∀ (s : State) (e : Enc) (c : Ctx) (a : Nat → Word),
      Ready s (.sets e) e c → CanRead s (.sets e) c e →
      let w := s.ctxWave c
      let counted (t : State) (rsv : Prop) : Prop :=
        (rsv → (s.fn (s.ctxFn c)).rsvwrite ≠ 0xFFFFFFFF → (t.fn (s.ctxFn c)).rsvwrite = (s.fn (s.ctxFn c)).rsvwrite + 1) ∧
        (¬ rsv ∨ (s.fn (s.ctxFn c)).rsvwrite = 0xFFFFFFFF → (t.fn (s.ctxFn c)).rsvwrite = (s.fn (s.ctxFn c)).rsvwrite) ∧
        t.mem = s.mem ∧ (∀ f, f ≠ s.ctxFn c → t.fn f = s.fn f) ∧ ∀ b, b ≠ c.blk → t.block b = s.block b
      let uniform (x : Word) : Prop := (if e.len = .l128 then ⟨e.imm32, false⟩ else w.sCode e.src0) = (⟨x, false⟩ : PWord)
      (∀ x, e.dst = 14 → uniform x →
        ∃ t, exec (.sets e) s = .next t ∧ (t.ctxWave c).fpctl = x &&& 3 ∧ (t.ctxWave c).s = w.s ∧ (t.ctxWave c).v = w.v ∧
          counted t (x &&& 0xFFFFFFFC ≠ 0)) ∧
      (∀ x, e.dst = 16 → uniform x →
        ∃ t, exec (.sets e) s = .next t ∧ (t.ctxWave c).joinlost = x ∧ (t.ctxWave c).s = w.s ∧ (t.ctxWave c).v = w.v ∧ counted t False) ∧
      (e.dst = 15 → (∀ l, c.acting.getLsbD l = true →
          (if e.len = .l128 then .ok ⟨e.imm32, false⟩ else w.src0 l e) = .ok (⟨a l, false⟩ : PWord)) →
        ∃ t, exec (.sets e) s = .next t ∧ (t.ctxWave c).s = w.s ∧ (t.ctxWave c).v = w.v ∧
          (∀ l, c.acting.getLsbD l = true → ((t.ctxWave c).lane l).fpstat = a l &&& 0x1F) ∧
          (∀ l, c.acting.getLsbD l = false → ((t.ctxWave c).lane l).fpstat = (w.lane l).fpstat) ∧
          counted t (∃ l, c.acting.getLsbD l = true ∧ a l &&& 0xFFFFFFE0 ≠ 0)))

/-- R102 to R104: the uniform instructions complete and write their s register, SCMP the predicate of every acting fibre; SMOV moves a
value with its poison, from the leader's window where the source is a v register. -/
def Obligations.UniformArithmetic : Prop :=
  ∀ (s : State) (e : Enc) (c : Ctx) (a b : Word),
    let w := s.ctxWave c
    let first := w.sCode e.src0 = ⟨a, false⟩
    let second (x : Ext16) : Prop :=
      (match e.len with | .l64 => w.sCode e.src1 | .l96 => ⟨imm16As x e.imm16, false⟩ | .l128 => ⟨e.imm32, false⟩) = (⟨b, false⟩ : PWord)
    (∀ p ∈ [(Instr.sadd e, a + b), (.ssub e, a - b), (.smul e, a * b),
        (.slog e, match e.fn.toNat with | 0 => a &&& b | 1 => a ||| b | 2 => a ^^^ b | _ => a &&& ~~~b)],
      Ready s p.1 e c → CanRead s p.1 c e → first → second .sign →
      ∃ t, exec p.1 s = .next t ∧ WroteUniform s t c e [⟨p.2, false⟩]) ∧
    (Ready s (.ssh e) e c → CanRead s (.ssh e) c e → first →
      (if e.len = .l64 then w.sCode e.src1 else ⟨e.imm16.setWidth 32, false⟩) = (⟨b, false⟩ : PWord) →
      ∃ t, exec (.ssh e) s = .next t ∧ WroteUniform s t c e [⟨
        let n := b.toNat % 64
        match e.fn.toNat with | 0 => a <<< n | 1 => a >>> n | 2 => a.sshiftRight n | _ => a.rotateLeft (n % 32), false⟩]) ∧
    (Ready s (.scmp e) e c → CanRead s (.scmp e) c e → first → second (if e.cmpType = 0 then .sign else .zero) →
      ∃ t, exec (.scmp e) s = .next t ∧ WroteLanes s t c e (fun _ =>
        let lt := if e.cmpType = 0 then a.slt b else a.ult b
        { preds := [(e.dst.toNat, match e.cmpRel with
            | 0 => a == b | 1 => a != b | 2 => lt | 3 => lt || a == b | 4 => !lt && a != b | 5 => !lt | _ => false)] })) ∧
    (∀ x : PWord, Ready s (.smov e) e c → CanRead s (.smov e) c e → w.readSrc c.leader false e.src0 = .ok x →
      ∃ t, exec (.smov e) s = .next t ∧ WroteUniform s t c e [x]) ∧
    (Ready s (.sli e) e c → CanRead s (.sli e) c e → ∃ t, exec (.sli e) s = .next t ∧ WroteUniform s t c e [⟨e.imm32, false⟩])

/-- R75, R86: BRA, BRX, CALL and RET complete where every target is a legal PC: each fibre whose guard holds goes to its target, the
others to the next sequential PC; CALL advances the window and writes the link words into its registers 0 and 1, RET takes them from
there and moves the window back; the members part by PC and base. R85, R90, R92, R93: NOP and YIELD only go on; SPLIT sets its mask to
the acting fibres and DROP takes them out of it, and where the mask does not become complete nothing else changes. -/
def Obligations.ControlTransfer : Prop :=
  (∀ (s : State) (e : Enc) (c : Ctx) (a : Nat → DWord),
      let w := s.ctxWave c
      let go (l : Nat) (x : Lane) : Lane := if c.acting.getLsbD l then x else { w.lane l with pc := c.nextPc }
      let rel : DWord := c.pc + 4 * (if e.len = .l128 then e.imm32.signExtend 64 else e.imm16.signExtend 64)
      let legal (t : DWord) : Prop := t.toNat < 2 ^ 55 ∧ t.toNat % 4 = 0 ∧ t.toNat % 32 ≠ 28
      (Ready s (.bra e) e c → legal rel →
        ∃ t gs, exec (.bra e) s = .next t ∧ (t.ctxWave c).v = w.v ∧
          Regrouped s t c (fun l => go l { w.lane l with pc := rel }) gs) ∧
      (Ready s (.brx e) e c → CanRead s (.brx e) c e →
        (∀ l, c.acting.getLsbD l = true → w.readPair l e.src0 = .ok (a l, false) ∧ legal (a l)) →
        ∃ t gs, exec (.brx e) s = .next t ∧ (t.ctxWave c).v = w.v ∧
          Regrouped s t c (fun l => go l { w.lane l with pc := a l }) gs) ∧
      (Ready s (.call e) e c → (∀ x ∈ w.acc, x.dst.regs = none) → legal rel →
        (∀ l, c.acting.getLsbD l = true → (w.lane l).base + e.dst.toNat + 2 ≤ w.limit) →
        ∃ t gs, exec (.call e) s = .next t ∧
          Regrouped s t c (fun l => go l { (w.lane l).loseLatches with pc := rel, base := (w.lane l).base + e.dst.toNat }) gs ∧
          ∀ l, l < 32 → ∀ q, (t.ctxWave c).vAt q l =
            if c.acting.getLsbD l = true ∧ q = (w.lane l).base + e.dst.toNat then ⟨c.nextPc.setWidth 32, false⟩
            else if c.acting.getLsbD l = true ∧ q = (w.lane l).base + e.dst.toNat + 1 then
              ⟨e.dst.setWidth 32 <<< 24 ||| (c.nextPc >>> 32).setWidth 32 &&& 0x7FFFFF, false⟩
            else w.vAt q l) ∧
      (Ready s (.ret e) e c → (∀ x ∈ w.acc, x.dst.regs = none) →
        (∀ l, c.acting.getLsbD l = true → ∃ lo hi : Word, w.readV l 0 = .ok ⟨lo, false⟩ ∧ w.readV l 1 = .ok ⟨hi, false⟩ ∧
          hi.getLsbD 23 = false ∧ (hi >>> 24).toNat % 2 = 0 ∧ (hi >>> 24).toNat ≤ (w.lane l).base ∧
          a l = (hi &&& 0x7FFFFF) ++ lo ∧ legal (a l)) →
        ∃ t gs, exec (.ret e) s = .next t ∧ (t.ctxWave c).v = w.v ∧
          Regrouped s t c (fun l => go l { (w.lane l).loseLatches with
            pc := a l, base := (w.lane l).base - ((w.vAt ((w.lane l).base + 1) l).val >>> 24).toNat }) gs)) ∧
  (∀ (s : State) (e : Enc) (c : Ctx),
      let w := s.ctxWave c
      let after (t : State) (n : Nat) (m : BitVec 32) : Prop :=
        OnlyWave s t c ∧ (∀ k, (t.ctxWave c).masks.get 0 k = if k = n then m else w.masks.get 0 k) ∧
        WentOn { w with masks := (t.ctxWave c).masks } (t.ctxWave c) c ∧ (t.ctxWave c).v = w.v ∧ (t.ctxWave c).s = w.s ∧
        ∀ l, c.members.getLsbD l = true → (t.ctxWave c).lane l = { w.lane l with pc := c.nextPc }
      (Ready s (.nop e) e c → ∃ t, exec (.nop e) s = .next t ∧ WroteUniform s t c e []) ∧
      (Ready s (.yield e) e c → ∃ t, exec (.yield e) s = .next t ∧ WroteUniform s t c e []) ∧
      (Ready s (.split e) e c →
        let n := e.dst.toNat % 8
        (w.arrived.get 0 n = 0 ∨ c.acting &&& ~~~(w.arrived.get 0 n) ≠ 0) →
        ∃ t, exec (.split e) s = .next t ∧ after t n c.acting) ∧
      (Ready s (.drop e) e c →
        let n := e.src0.toNat % 8
        let m := w.masks.get 0 n &&& ~~~c.acting
        (w.arrived.get 0 n = 0 ∨ m &&& ~~~(w.arrived.get 0 n) ≠ 0) →
        ∃ t, exec (.drop e) s = .next t ∧ after t n m))

/-- R88: FORK completes: it makes runnable the first idle lanes, as many as wanted and there are, with the leader's window base and
predicates, rising %fibid and empty latches, and writes their number; in the 64-bit form they join the batch, which then loses its
latches, in the 96-bit form they are a batch of their own at the target. -/
def Obligations.ForkCreates : Prop :=
  ∀ (s : State) (e : Enc) (c : Ctx) (want : Word),
    let w := s.ctxWave c
    let target : DWord := if e.len = .l64 then c.nextPc else c.pc + 4 * e.imm16.signExtend 64
    let new := ((List.range 32).filter (fun l => (w.lane l).cond == .idle)).take want.toNat
    let leader := w.lane c.leader
    let joins := e.len = .l64 ∧ new ≠ []
    Ready s (.fork e) e c → inRegion s c = none → e.len ≠ .l128 → w.sCode e.src0 = ⟨want, false⟩ →
    (e.len = .l96 → target.toNat % 32 ≠ 28) →
    ∃ t, exec (.fork e) s = .next t ∧ OnlyWave s t c ∧
      (t.ctxWave c).forkSerial = w.forkSerial + BitVec.ofNat 32 new.length ∧
      (∀ q, (t.ctxWave c).sAt q = if q = e.dst.toNat - 192 then ⟨BitVec.ofNat 32 new.length, false⟩ else w.sAt q) ∧
      (t.ctxWave c).v = w.v ∧ (t.ctxWave c).masks = w.masks ∧ (t.ctxWave c).arrived = w.arrived ∧
      (∀ k l, new[k]? = some l → (t.ctxWave c).lane l = { w.lane l with
        cond := .runnable, pc := target, base := leader.base, pred := leader.pred
        fibid := w.forkSerial + BitVec.ofNat 32 k, latches := [] }) ∧
      (∀ l, c.members.getLsbD l = true → (t.ctxWave c).lane l =
        { (if joins then (w.lane l).loseLatches else w.lane l) with pc := c.nextPc }) ∧
      (∀ l, c.members.getLsbD l = false → l ∉ new → (t.ctxWave c).lane l = w.lane l) ∧
      (t.ctxWave c).batches = w.batches.filter (fun b => b.mask &&& c.members == 0) ++
        (if e.len = .l64 then [⟨c.members ||| maskOf new⟩]
          else (if new = [] then [] else [⟨maskOf new⟩]) ++ [⟨c.members⟩])

/-- R89: QUIT ends the acting fibres: their lanes become idle and leave every mask and arrival set, their loads are discarded, and the
members that stay lose their latches; here no mask becomes complete and some member stays. R87, R331: EXIT of a wave that no speculative
unit runs ends the wave: every fibre of every batch ends, masks, arrivals and waits are gone, loads are discarded and the serial token
is given back. Outside a serial region stores go on. -/
def Obligations.FibresEnd : Prop :=
  (∀ (s : State) (e : Enc) (c : Ctx),
      let w := s.ctxWave c
      let stay := c.members &&& ~~~c.acting
      Ready s (.quit e) e c → inRegion s c = none → stay ≠ 0 →
      (∀ n, n < 8 → w.arrived.get 0 n &&& ~~~c.acting = 0 ∨
        w.masks.get 0 n &&& ~~~c.acting &&& ~~~(w.arrived.get 0 n) ≠ 0) →
      ∃ t, exec (.quit e) s = .next t ∧ OnlyWave s t c ∧
        (∀ n, (t.ctxWave c).masks.get 0 n = w.masks.get 0 n &&& ~~~c.acting ∧
          (t.ctxWave c).arrived.get 0 n = w.arrived.get 0 n &&& ~~~c.acting) ∧
        (∀ l, c.acting.getLsbD l = true → ((t.ctxWave c).lane l).cond = .idle) ∧
        (∀ l, stay.getLsbD l = true → (t.ctxWave c).lane l = { (w.lane l).loseLatches with pc := c.nextPc }) ∧
        (∀ l, c.members.getLsbD l = false → (t.ctxWave c).lane l = w.lane l) ∧
        (∀ a ∈ (t.ctxWave c).acc, c.acting.getLsbD a.lane = true → a.kind.readsOnly = false ∧ a.dst = .none) ∧
        (∀ a, c.acting.getLsbD a.lane = false → (a ∈ (t.ctxWave c).acc ↔ a ∈ w.acc)) ∧
        (t.ctxWave c).v = w.v ∧ (t.ctxWave c).s = w.s ∧
        (⟨stay⟩ : Batch) ∈ (t.ctxWave c).batches) ∧
  (∀ (s : State) (e : Enc) (c : Ctx),
      let w := s.ctxWave c
      Ready s (.exit e) e c → w.spec.sid = none → (∀ k, (s.block c.blk).task = some k → k.ord = none) →
      ∃ t, exec (.exit e) s = .next t ∧ (t.ctxWave c).ended = true ∧
        (∀ l, ((t.ctxWave c).lane l).cond = .idle) ∧ (t.ctxWave c).batches = [] ∧ (t.ctxWave c).waits = [] ∧
        (∀ n, (t.ctxWave c).masks.get 0 n = 0 ∧ (t.ctxWave c).arrived.get 0 n = 0) ∧
        (∀ a ∈ (t.ctxWave c).acc, a.kind.readsOnly = false ∧ a.dst = .none) ∧
        (t.fn (s.ctxFn c)).token ≠ some (c.blk, c.wave) ∧ (t.ctxWave c).spec.serial = false ∧
        (w.spec.serial = false → t.mem = s.mem ∧ (t.ctxWave c).v = w.v ∧ (t.ctxWave c).s = w.s ∧
          ∀ a ∈ w.acc, a.kind.readsOnly = false → { a with dst := .none } ∈ (t.ctxWave c).acc))

/-- R79, R91: JOIN joins the acting fibres to the mask's arrival set at the next PC.  While a named fibre is missing, and some fibre of
the context waits at no join, they stay joined; when the last one arrives all that arrived are released in the same step, in one
batch for each PC and base, without their latches. -/
def Obligations.JoinMeets : Prop :=
  ∀ (s : State) (e : Enc) (c : Ctx),
    let w := s.ctxWave c
    let n := e.src0.toNat % 8
    let all := w.arrived.get 0 n ||| c.acting
    let stay := c.members &&& ~~~c.acting
    Ready s (.join e) e c → (∀ l, c.members.getLsbD l = true → (w.arrived.get 0 n).getLsbD l = false) →
    ((w.masks.get 0 n &&& ~~~all ≠ 0 ∧
        (stay ≠ 0 ∨ ∃ l, l < 32 ∧ c.members.getLsbD l = false ∧ ((w.lane l).cond = .runnable ∨ ∃ k, (w.lane l).cond = .blocked k)) →
      ∃ t, exec (.join e) s = .next t ∧ OnlyWave s t c ∧
        (∀ k, (t.ctxWave c).arrived.get 0 k = if k = n then all else w.arrived.get 0 k) ∧
        (∀ l, c.acting.getLsbD l = true →
          ((t.ctxWave c).lane l).cond = .joined n ∧ ((t.ctxWave c).lane l).pc = c.nextPc) ∧
        (∀ l, stay.getLsbD l = true → (t.ctxWave c).lane l = { (w.lane l).loseLatches with pc := c.nextPc }) ∧
        (∀ l, c.members.getLsbD l = false → (t.ctxWave c).lane l = w.lane l) ∧
        (t.ctxWave c).batches = w.batches.filter (fun b => b.mask &&& c.members == 0) ++ (if stay = 0 then [] else [⟨stay⟩]) ∧
        (t.ctxWave c).masks = w.masks ∧ (t.ctxWave c).v = w.v ∧ (t.ctxWave c).s = w.s) ∧
     (w.masks.get 0 n &&& ~~~all = 0 →
      ∃ t gs, exec (.join e) s = .next t ∧ OnlyWave s t c ∧
        (∀ k, (t.ctxWave c).arrived.get 0 k = if k = n then 0 else w.arrived.get 0 k) ∧
        (∀ l, all.getLsbD l = true → ((t.ctxWave c).lane l).cond = .runnable ∧
          ((t.ctxWave c).lane l).pc = (if c.acting.getLsbD l then c.nextPc else (w.lane l).pc) ∧
          ((t.ctxWave c).lane l).base = (w.lane l).base ∧
          ∀ k x, ((t.ctxWave c).lane l).latches.get? k = some x → x.valid = false) ∧
        (t.ctxWave c).batches = w.batches.filter (fun b => b.mask &&& c.members == 0) ++ (if stay = 0 then [] else [⟨stay⟩]) ++
          (gs : List (BitVec 32)).map (fun g => ⟨g⟩) ∧
        (∀ l, all.getLsbD l = true ↔ ∃ g ∈ gs, g.getLsbD l = true) ∧
        (∀ g ∈ gs, ∀ h ∈ gs, ∀ k l, g.getLsbD k = true → h.getLsbD l = true →
          (g = h ↔ ((t.ctxWave c).lane k).pc = ((t.ctxWave c).lane l).pc ∧
            ((t.ctxWave c).lane k).base = ((t.ctxWave c).lane l).base)) ∧
        (t.ctxWave c).masks = w.masks ∧ (t.ctxWave c).v = w.v ∧ (t.ctxWave c).s = w.s))

/-- R357, R358, R361, R365: an encoding to emulate starts the handler one depth up, whatever its guard: the batch's members go to the
entry in the depth's window with their guard in q0 and no latch valid, other live fibres are held, s registers and masks read 0, the
operand words describe the instruction, and the frame keeps what was; so do EMRD, EMWR, EMRET and EMSKIP outside emulation mode. -/
def Obligations.EmulationEntry : Prop :=
  ∀ (s : State) (e : Enc) (c : Ctx),
    let w := s.ctxWave c
    let d := w.emdepth
    ∀ p ∈ [(Instr.dadd e, 0x58), (.dmul e, 0x59), (.dfma e, 0x5A), (.ddiv e, 0x5B), (.dcvt e, 0x5C), (.xop e, 0xFF),
        (.emrd e, 0xE1), (.emwr e, 0xE2), (.emret e, 0xE3), (.emskip e, 0xE4)],
      s.ctx e = some c → (d = 0 ∨ d = 1 ∧ w.wdCount < 65536) → (0xE1 ≤ p.2 ∧ p.2 ≤ 0xE4 → d = 0) → w.emWindow ≠ 0 →
      (∀ x ∈ w.acc, x.dst.regs = none) →
      ∃ t f, exec p.1 s = .next t ∧ OnlyWave s t c ∧
        let u := t.ctxWave c
        u.emdepth = d + 1 ∧ u.frames = f :: w.frames ∧ u.wdCount = 0 ∧ u.batches = [⟨c.members⟩] ∧ u.v = w.v ∧ u.fpctl = w.fpctl ∧
        u.joinlost = 0 ∧ (∀ q, u.sAt q = {}) ∧ (∀ n, u.masks.get 0 n = 0 ∧ u.arrived.get 0 n = 0) ∧
        (∀ l, l < 32 → u.lane l =
          if c.members.getLsbD l then
            { w.lane l with
              cond := .runnable, pc := (s.fn (s.ctxFn c)).embase &&& 0x007FFFFFFFFFFFFC, base := w.window + d * w.emWindow
              pred := 0x80000000 ||| (if c.acting.getLsbD l then 1 else 0), latches := [], fpstat := 0 }
          else if (w.lane l).cond = .idle then w.lane l else { w.lane l with cond := .stacked }) ∧
        (∀ l, l < 32 → f.lanes.get {} l = ⟨(w.lane l).cond, (w.lane l).pc, (w.lane l).base, (w.lane l).pred, (w.lane l).fpstat,
          (w.lane l).latches⟩) ∧
        f.batches = w.batches ∧ f.sregs = w.s ∧ f.masks = w.masks ∧ f.arrived = w.arrived ∧ f.fpctl = w.fpctl ∧
        f.joinlost = w.joinlost ∧ f.ow = w.ow ∧ f.members = c.members ∧ f.nextPc = c.nextPc ∧ f.pending = [] ∧ f.stream = false ∧
        (let o0 := u.ow.get 0 0
         o0.extractLsb' 0 8 = BitVec.ofNat 8 p.2 ∧ o0.extractLsb' 8 6 = e.fn ∧ o0.extractLsb' 14 2 = e.ver ∧
         o0.extractLsb' 16 2 = (match e.len with | .l64 => 0 | .l96 => 1 | .l128 => 2) ∧ o0.extractLsb' 18 2 = e.dlt ∧
         o0.getLsbD 20 = e.nwb ∧ o0.getLsbD 21 = e.pneg ∧ o0.extractLsb' 22 5 = e.prd ∧ o0.extractLsb' 27 5 = 0) ∧
        u.ow.get 0 1 = ((e.src2 ++ e.src1) ++ (e.src0 ++ e.dst)) ∧
        (let o2 := u.ow.get 0 2
         o2.getLsbD 0 = e.sl0 ∧ o2.getLsbD 1 = e.sl1 ∧ o2.getLsbD 2 = e.sl2 ∧ o2.extractLsb' 3 6 = e.mod ∧ o2.extractLsb' 9 23 = e.ext) ∧
        u.ow.get 0 5 = c.members ∧ u.ow.get 0 6 = c.acting ∧ u.ow.get 0 7 = c.pc.setWidth 32

/-- R360: EMSKIP gives the context back as the frame holds it, at the next sequential PC of the emulated instruction; EMRET applies the
pending writes to v and s registers, predicates, %fpstat and %fpctl first and sends each member to its written PC or the next sequential
one. R359, R367: EMRD reads the state of the faulting context that its selector names, where no write to it is pending; EMWR of a v
register changes no register but holds a pending write for each acting fibre, which replaces an earlier one to the same register and
lane. -/
def Obligations.EmulationState : Prop :=
  (∀ (s : State) (e : Enc) (c : Ctx) (f : Frame) (rest : List Frame),
      let w := s.ctxWave c
      let legal (t : DWord) : Prop := t.toNat < 2 ^ 55 ∧ t.toNat % 4 = 0 ∧ t.toNat % 32 ≠ 28
      let written (x : EmTarget) (l : Nat) : Option PWord := (f.pending.find? (fun p => p.target == x && p.lane == l)).map (·.val)
      let fl (l : Nat) : FrameLane := f.lanes.get {} l
      let back (u : Wave) : Prop :=
        u.emdepth = w.emdepth - 1 ∧ u.frames = rest ∧ u.masks = f.masks ∧ u.arrived = f.arrived ∧ u.joinlost = f.joinlost ∧ u.ow = f.ow ∧
        u.wdCount = f.count
      (w.emdepth = 1 ∨ w.emdepth = 2) → w.frames = f :: rest → f.stream = false → (∀ x ∈ w.acc, x.dst.regs = none) →
      (Ready s (.emskip e) e c → legal f.nextPc → f.members ≠ 0 →
        (∃ b, ∀ l, f.members.getLsbD l = true → (fl l).cond = .runnable ∧ (fl l).base = b) →
        ∃ t, exec (.emskip e) s = .next t ∧ OnlyWave s t c ∧ back (t.ctxWave c) ∧ (t.ctxWave c).v = w.v ∧ (t.ctxWave c).s = f.sregs ∧
          (t.ctxWave c).fpctl = f.fpctl ∧
          (t.ctxWave c).batches = f.batches.filter (fun b => b.mask &&& f.members == 0) ++ [⟨f.members⟩] ∧
          ∀ l, l < 32 → (t.ctxWave c).lane l = { w.lane l with
            cond := (fl l).cond, pc := if f.members.getLsbD l then f.nextPc else (fl l).pc, base := (fl l).base
            pred := (fl l).pred, fpstat := (fl l).fpstat, latches := (fl l).latches }) ∧
      (Ready s (.emret e) e c →
        f.pending.Pairwise (fun p q => ¬(p.target = q.target ∧ p.lane = q.lane)) →
        (∀ p ∈ f.pending, p.lane < 32 ∧ ((∃ r, p.target = .s r) ∨ p.target = .fpctl → p.lane = 0)) →
        let target (l : Nat) : DWord :=
          if (written .pcLo l).isSome ∨ (written .pcHi l).isSome then
            (match written .pcHi l with | some x => x.val | none => ((fl l).pc >>> 32).setWidth 32) ++
              (match written .pcLo l with | some x => x.val | none => (fl l).pc.setWidth 32)
          else f.nextPc
        (∀ l, f.members.getLsbD l = true → legal (target l)) →
        ∃ t, exec (.emret e) s = .next t ∧ OnlyWave s t c ∧ back (t.ctxWave c) ∧
          (∀ r l, l < 32 → (t.ctxWave c).vAt r l = (written (.v r) l).getD (w.vAt r l)) ∧
          (∀ r, (t.ctxWave c).sAt r = (written (.s r) 0).getD (f.sregs.get {} r)) ∧
          (t.ctxWave c).fpctl = (match written .fpctl 0 with | some x => x.val &&& 3 | none => f.fpctl) ∧
          ∀ l, l < 32 → ((t.ctxWave c).lane l).cond = (fl l).cond ∧ ((t.ctxWave c).lane l).base = (fl l).base ∧
            ((t.ctxWave c).lane l).pc = (if f.members.getLsbD l then target l else (fl l).pc) ∧
            ((t.ctxWave c).lane l).pred = (match written .pred l with | some x => x.val ||| 0x80000000 | none => (fl l).pred) ∧
            ((t.ctxWave c).lane l).fpstat = (match written .fpstat l with | some x => x.val &&& 0x1F | none => (fl l).fpstat))) ∧
  (∀ (s : State) (e : Enc) (c : Ctx) (f : Frame) (rest : List Frame) (x : Word),
      let w := s.ctxWave c
      let fl (l : Nat) : FrameLane := f.lanes.get {} l
      let limit := w.window + (w.emdepth - 1) * w.emWindow
      let i := x.toNat % 256
      let latch (l : Nat) : LatchLane := (fl l).latches.get {} i
      (w.emdepth = 1 ∨ w.emdepth = 2) → w.frames = f :: rest → f.stream = false → (∀ a ∈ w.acc, a.dst.regs = none) →
      w.sCode e.src0 = ⟨x, false⟩ →
      (Ready s (.emrd e) e c → f.pending = [] → x.toNat < 0x500 →
        (∀ l, c.acting.getLsbD l = true → w.dstOk l e 1 = true ∧
          match x.toNat / 256 with
          | 0 => i < 192 → (fl l).base + i < limit
          | 1 => i < 4 ∧ ((latch l).valid = true ∨ (latch l).nwb = false ∧ (fl l).base + (latch l).tag.toNat < limit)
          | 2 => i < 4
          | 3 => i = 0
          | _ => i < 7) →
        ∃ t, exec (.emrd e) s = .next t ∧ WroteLanes s t c e (fun l => { words := [
          let plain (y : Word) : PWord := ⟨y, false⟩
          match x.toNat / 256 with
          | 0 => if i < 192 then w.vAt ((fl l).base + i) l else f.sregs.get {} (i - 192)
          | 1 => if (latch l).valid then (latch l).val else w.vAt ((fl l).base + (latch l).tag.toNat) l
          | 2 => plain (BitVec.ofNat 32 ((latch l).tag.toNat + (latch l).nwb.toNat * 256 + (latch l).valid.toNat * 512))
          | 3 => plain ((fl l).pred ||| 0x80000000)
          | _ => plain (match i with
            | 0 => (fl l).fpstat &&& 0x1F
            | 1 => f.fpctl &&& 3
            | 2 => (fl l).pc.setWidth 32
            | 3 => ((fl l).pc >>> 32).setWidth 32 &&& 0x7FFFFF
            | 4 => f.doneMask
            | 5 => BitVec.ofNat 32 (fl l).base
            | _ => (w.lane l).fibid)] })) ∧
      (∀ y : Nat → PWord, Ready s (.emwr e) e c → x.toNat < 192 →
        (∀ l, c.acting.getLsbD l = true → (fl l).base + i < limit ∧ w.readSrc l e.sl1 e.src1 = .ok (y l)) →
        let pending := f.pending.filter (fun p => !(c.acting.getLsbD p.lane && p.target == .v ((fl p.lane).base + i))) ++
          (lanesOf c.acting).map (fun l => (⟨.v ((fl l).base + i), l, y l⟩ : EmWrite))
        pending.length ≤ 96 →
        ∃ t, exec (.emwr e) s = .next t ∧ OnlyWave s t c ∧ (t.ctxWave c).frames = { f with pending := pending } :: rest ∧
          WentOn { w with frames := (t.ctxWave c).frames } (t.ctxWave c) c ∧ (t.ctxWave c).v = w.v ∧ (t.ctxWave c).s = w.s ∧
          ∀ l, c.members.getLsbD l = true → (t.ctxWave c).lane l = { w.lane l with pc := c.nextPc }))

/-- R350, R355, R366, R368: TRAP has completed when it stops the wave on a TRAP_USER record with its code; HOSTCALL posts a KIND 5 record
without an answer and waits for its production; HOSTCALL.WAIT stops the wave on one. -/
def Obligations.TrapsAndHostcalls : Prop :=
  ∀ (s : State) (e : Enc) (c : Ctx) (code : Word) (arg : DWord),
    let w := s.ctxWave c
    let reads (r : BitVec 8) : Prop := (if e.len = .l64 then w.sCode r else ⟨e.imm16.setWidth 32, false⟩) = (⟨code, false⟩ : PWord)
    let argument : Prop := w.sPair e.src0 = (arg, false)
    let on (t : State) : Prop := ∀ l, c.members.getLsbD l = true → (t.ctxWave c).lane l = { w.lane l with pc := c.nextPc }
    w.spec.sid = none → w.acc = [] →
    (Ready s (.trap e) e c → reads e.src0 →
      ∃ t r, exec (.trap e) s = .next t ∧ StoppedOn s t c r ∧ r.cause = .trapUser ∧ r.kind = 0 ∧ r.aux2 = code &&& 0xFFFF ∧ r.aux = 0 ∧
        r.fmask = 0 ∧ on t) ∧
    (Ready s (.hostcall e) e c → reads e.src1 → argument →
      ∃ t r, exec (.hostcall e) s = .next t ∧ (t.fn (s.ctxFn c)).recs = (s.fn (s.ctxFn c)).recs ++ [r] ∧ r.kind = 5 ∧
        r.cause = .none ∧ r.ans = false ∧ r.aux = arg ∧ r.aux2 = code ∧ r.pc = c.pc ∧ t.mem = s.mem ∧ (t.ctxWave c).v = w.v ∧
        (t.ctxWave c).s = w.s ∧ (t.ctxWave c).stopped = none ∧
        (∀ l, c.members.getLsbD l = true → ((t.ctxWave c).lane l).cond = .blocked w.nextWait) ∧
        ∃ p, (t.ctxWave c).waits.get? w.nextWait = some p ∧ p.lanes = c.members ∧ p.why = .record r.id r.stalled ∧ p.nextPc = c.nextPc) ∧
    (Ready s (.hostcallWait e) e c → reads e.src1 → argument →
      ∃ t r, exec (.hostcallWait e) s = .next t ∧ StoppedOn s t c r ∧ r.cause = .none ∧ r.kind = 5 ∧ r.aux = arg ∧ r.aux2 = code ∧
        r.resume = .hostcall (e.dst.toNat - 192) ∧ on t)

/-- R39, R350, R355: a per-fibre instruction that meets a poisoned operand has no effect and stops its wave on a POISON record with all
the lanes that met one and the lowest of them. R107, R350: a load or store of a misaligned address has no effect in any lane and stops
its wave on an ALIGN record with every such lane and the lowest lane's address. -/
def Obligations.OperandFaultsStop : Prop :=
  (∀ (s : State) (e : Enc) (c : Ctx) (bad : BitVec 32) (a b : Nat → Word),
      let w := s.ctxWave c
      ∀ i ∈ [Instr.iadd e, .isub e, .imul e, .imin e, .imax e],
        Ready s i e c → CanRead s i c e → w.spec.sid = none → itBits e.fn.toNat ≠ 64 → bad ≠ 0 → bad &&& ~~~c.acting = 0 →
        (∀ l, c.acting.getLsbD l = true → w.src0 l e = .ok ⟨a l, bad.getLsbD l⟩ ∧
          w.srcB l e (itImm e.fn.toNat) = .ok ⟨b l, false⟩ ∧ w.dstOk l e 1 = true) →
        ∃ t r, exec i s = .next t ∧ StoppedOn s t c r ∧ r.cause = .poison ∧ r.kind = 0 ∧ r.fmask = bad ∧ r.lane = lowLane bad ∧
          t.ctxWave c = { w with stopped := some r }) ∧
  (∀ (s : State) (e : Enc) (c : Ctx) (ea : Nat → DWord) (bad : BitVec 32),
      let w := s.ctxWave c
      let n := 2 ^ (e.fn.toNat % 8)
      ∀ i ∈ [Instr.ld e, .st e],
        Ready s i e c → w.spec.sid = none → w.doneMask = 0 → e.mod.getLsbD 0 = false → e.mod.getLsbD 5 = false → e.len = .l64 →
        e.fn.toNat % 8 ≤ 2 → e.fn.getLsbD 4 = false → bad ≠ 0 → bad &&& ~~~c.acting = 0 →
        (∀ l, c.acting.getLsbD l = true → w.readPair l e.src0 = .ok (ea l, false) ∧ (∃ y, w.src1 l e = .ok y) ∧
          w.dstOk l e 1 = true ∧ (bad.getLsbD l = true ↔ (ea l).toNat % n ≠ 0)) →
        ∃ t r, exec i s = .next t ∧ StoppedOn s t c r ∧ r.cause = .align ∧ r.kind = 0 ∧ r.fmask = bad ∧ r.lane = lowLane bad ∧
          r.fva = ea (lowLane bad) ∧ r.resume = .reissue ∧ t.ctxWave c = { w with stopped := some r })

/-- R106, R110, R112: a load of HBM by one fibre completes its issue: the address is base, shifted index and offset (LDB: lane 0's address
plus the lane's element), each word of it goes into flight with its destination register, and no register and no memory changes yet;
a `.ST` form sets its status predicate. -/
def Obligations.LoadsIssue : Prop :=
  ∀ (s : State) (e : Enc) (c : Ctx) (l : Nat) (base : DWord) (index : Word) (x : Xlat) (a : Nat),
    let w := s.ctxWave c
    let n := 2 ^ (e.fn.toNat % 8)
    let offset : DWord := match e.len with | .l64 => 0 | .l96 => e.imm16.signExtend 64 | .l128 => e.imm32.signExtend 64
    let indexed : DWord := if e.mod.getLsbD 0 then
      (if e.mod.getLsbD 3 then index.signExtend 64 else index.setWidth 64) <<< (e.mod.toNat / 2 % 4) else 0
    ∀ p ∈ [(Instr.ld e, l, (0 : DWord), e.fn.getLsbD 3, AccDst.v ((w.lane l).base + e.dst.toNat) ((n + 3) / 4) e.dlt.toNat e.nwb e.dst),
        (.ldb e, 0, BitVec.ofNat 64 (l * n), false, .v ((w.lane l).base + e.dst.toNat) ((n + 3) / 4) e.dlt.toNat e.nwb e.dst),
        (.ldu e, l, 0, false, .s (e.dst.toNat - 192) ((n + 3) / 4))],
      let ea := base + indexed + offset + p.2.2.1
      OneFibre s p.1 e c l → e.mod.getLsbD 4 = false → e.fn.toNat % 8 ≤ 4 →
      w.readPair p.2.1 e.src0 = .ok (base, false) → (e.mod.getLsbD 0 = true → w.src1 p.2.1 e = .ok ⟨index, false⟩) →
      (p.1 ≠ .ldu e → w.dstOk l e ((n + 3) / 4) = true) → ea.toNat % n = 0 → s.mapsTo c ea .read x → x.place = .hbm a → a < sliceBase → x.sc = false →
      ∃ t, exec p.1 s = .next t ∧ KeptRegisters s t c ∧
        (t.ctxWave c).flight = (List.range ((n + 3) / 4)).map (fun k =>
          (l, a + 4 * k, .load (min n 4) p.2.2.2.1, p.2.2.2.2.shift k)) ∧
        (e.fn.getLsbD 4 = true → ((t.ctxWave c).lane l).q (e.ext.toNat % 32) = true)

/-- R112, R114, R116: a store, an atomic or a reduction on HBM by one fibre completes its issue: its bytes, little-endian, or its operation
go into flight word by word, and no register and no memory changes yet. -/
def Obligations.StoresIssue : Prop :=
  ∀ (s : State) (e : Enc) (c : Ctx) (l : Nat) (base : DWord) (x : Xlat) (a : Nat),
    let w := s.ctxWave c
    let offset : DWord := match e.len with | .l64 => 0 | .l96 => e.imm16.signExtend 64 | .l128 => e.imm32.signExtend 64
    let placed (ea : DWord) (acc : Acc) : Prop :=
      s.mapsTo c ea acc x ∧ x.place = .hbm a ∧ a < sliceBase ∧ x.sc = false ∧ a % 16 = ea.toNat % 16
    e.mod.getLsbD 4 = false → e.mod.getLsbD 5 = false →
    (∀ p ∈ [(Instr.st e, l, (0 : DWord)), (.stb e, 0, BitVec.ofNat 64 (l * 2 ^ (e.fn.toNat % 8)))], ∀ xs : List Word,
      let n := 2 ^ (e.fn.toNat % 8)
      let ea := base + offset + p.2.2
      OneFibre s p.1 e c l → e.fn.toNat % 8 ≤ 4 → e.fn.getLsbD 4 = false → w.readPair p.2.1 e.src0 = .ok (base, false) →
      (if e.fn.toNat % 8 ≤ 2 then (w.src1 l e).map (fun y => [y]) else w.readGroup l e.src1.toNat (n / 4)) = .ok (clean xs) →
      ea.toNat % n = 0 → placed ea .write →
      ∃ t, exec p.1 s = .next t ∧ KeptRegisters s t c ∧
        (t.ctxWave c).flight = (List.range ((n + 3) / 4)).map (fun k =>
          (l, a + 4 * k, .store ((bytesOfNat n (wordsNat xs)).drop (4 * k) |>.take 4) false, .none))) ∧
    (∀ p ∈ [(Instr.atom e, AccDst.v ((w.lane l).base + e.dst.toNat) (if e.fn.getLsbD 4 then 2 else 1) e.dlt.toNat e.nwb e.dst),
        (.red e, .none)], ∀ op op2 : DWord,
      let n := if e.fn.getLsbD 4 then 8 else 4
      let ea := base + offset
      let value (code : BitVec 8) (latch : Bool) (v : DWord) : Prop :=
        if n = 8 then w.readPair l code = .ok (v, false) else ∃ y : Word, w.readSrc l latch code = .ok ⟨y, false⟩ ∧ v = y.setWidth 64
      OneFibre s p.1 e c l → e.fn.getLsbD 5 = false → w.readPair l e.src0 = .ok (base, false) → w.dstOk l e (n / 4) = true →
      value e.src1 e.sl1 op → (if e.fn.toNat % 16 = 9 then value e.src2 e.sl2 op2 else op2 = 0) →
      ea.toNat % n = 0 → placed ea .readWrite →
      ∃ t, exec p.1 s = .next t ∧ KeptRegisters s t c ∧
        (t.ctxWave c).flight = [(l, a, .atom (e.fn.toNat % 16) n op op2 false false, p.2)])

/-- R117, R119, R123: LR reads at the home at once and reserves the line; SC writes where the reservation names its address and size,
and answers 0 or 1; WAITW completes with the word where it differs from the comparand, and waits where it does not. R120 to R122, R124,
R129: with nothing of the wave in flight REL only goes on, and ACQ and FENCE discard the core's copies that it does not own. PREF
completes whatever its addresses are: it faults never, and changes no register; where a fibre's address maps to HBM it fills the core's
L1 with the line, but for words to which the core has a store under way. -/
def Obligations.ReservationsAndOrdering : Prop :=
  (∀ (s : State) (e : Enc) (c : Ctx) (l : Nat) (base : DWord) (x : Xlat) (a : Nat),
      let w := s.ctxWave c
      let n := 2 ^ (e.fn.toNat % 8)
      let ea : DWord := base + (match e.len with | .l64 => 0 | .l96 => e.imm16.signExtend 64 | .l128 => e.imm32.signExtend 64)
      let words (v : Nat) : List PWord := clean ((List.range (n / 4)).map (fun k => BitVec.ofNat 32 (v / 2 ^ (32 * k))))
      let placed (acc : Acc) : Prop := s.mapsTo c ea acc x ∧ x.place = .hbm a ∧ a < sliceBase
      e.mod.getLsbD 4 = false → e.mod.getLsbD 5 = false → e.fn.getLsbD 4 = false → (e.fn.toNat % 8 = 2 ∨ e.fn.toNat % 8 = 3) →
      w.readPair l e.src0 = .ok (base, false) → ea.toNat % n = 0 → s.faulty = [] →
      (OneFibre s (.lr e) e c l → placed .read → s.poisonAt a n = false →
        ∃ t, exec (.lr e) s = .next t ∧ t.mem = s.mem ∧ (t.ctxWave c).v = w.v ∧ (t.ctxWave c).acc = [] ∧
          (t.ctxWave c).resv = some ⟨a / 128 * 128, ea.toNat, n⟩ ∧
          (∀ q, (t.ctxWave c).sAt q = if e.dst.toNat - 192 ≤ q ∧ q < e.dst.toNat - 192 + n / 4
            then (words (s.natAt a n)).getD (q - (e.dst.toNat - 192)) {} else w.sAt q) ∧
          ∀ k, c.members.getLsbD k = true → ((t.ctxWave c).lane k).pc = c.nextPc) ∧
      (∀ xs : List Word, OneFibre s (.sc e) e c l → CanRead s (.sc e) c e → placed .readWrite → s.memOk →
        (if e.fn.toNat % 8 ≤ 2 then (w.src1 l e).map (fun y => [y]) else w.readGroup l e.src1.toNat (n / 4)) = .ok (clean xs) →
        s.units = [] → s.dbmap.getLsbD 0 = false → xs.length = n / 4 →
        let holds := w.resv.map (fun r => (r.addr, r.size)) = some (ea.toNat, n)
        ∃ t, exec (.sc e) s = .next t ∧ (t.ctxWave c).v = w.v ∧ (t.ctxWave c).resv = none ∧
          (∀ q, (t.ctxWave c).sAt q = if q = e.dst.toNat - 192 then ⟨if holds then 0 else 1, false⟩ else w.sAt q) ∧
          (∀ y, t.byteAt y = if holds ∧ a ≤ y ∧ y < a + n then BitVec.ofNat 8 (wordsNat xs / 256 ^ (y - a)) else s.byteAt y) ∧
          ∀ k, c.members.getLsbD k = true → ((t.ctxWave c).lane k).pc = c.nextPc) ∧
      (∀ cmp : DWord, OneFibre s (.waitw e) e c l → placed .read → s.poisonAt a n = false → w.dstOk l e (n / 4) = true →
        (if n = 8 then w.readPair l e.src1 = .ok (cmp, false) else ∃ y : Word, w.src1 l e = .ok ⟨y, false⟩ ∧ cmp = y.setWidth 64) →
        (s.natAt a n ≠ cmp.toNat →
          ∃ t, exec (.waitw e) s = .next t ∧ t.mem = s.mem ∧ (t.ctxWave c).s = w.s ∧ (t.ctxWave c).waits = w.waits ∧
            (∀ k, c.members.getLsbD k = true → ((t.ctxWave c).lane k).pc = c.nextPc) ∧
            (e.nwb = false → ∀ k, k < n / 4 → (t.ctxWave c).vAt ((w.lane l).base + e.dst.toNat + k) l = (words (s.natAt a n)).getD k {})) ∧
        (s.natAt a n = cmp.toNat →
          ∃ t, exec (.waitw e) s = .next t ∧ t.mem = s.mem ∧ (t.ctxWave c).v = w.v ∧ (t.ctxWave c).s = w.s ∧
            ((t.ctxWave c).lane l).cond = .blocked w.nextWait ∧ ((t.ctxWave c).lane l).pc = c.pc ∧
            (∃ p, (t.ctxWave c).waits.get? w.nextWait = some p ∧ p.lanes = c.acting ∧ p.why = .waitw c.acting 0) ∧
            (t.ctxWave c).flight = [(l, a, .waitw n cmp false,
              .v ((w.lane l).base + e.dst.toNat) (n / 4) e.dlt.toNat e.nwb e.dst)]))) ∧
  (∀ (s : State) (e : Enc) (c : Ctx),
      let w := s.ctxWave c
      let dropped : State :=
        let k := s.core (s.coreOf c.blk)
        s.setCore (s.coreOf c.blk) { k with l1 := k.l1.filter (fun p => p.2.owned) }
      (w.acc = [] → w.spec.sid = none →
        (Ready s (.rel e) e c → ∃ t, exec (.rel e) s = .next t ∧ KeptRegisters s t c ∧ t.cores = s.cores) ∧
        (Ready s (.acq e) e c → ∃ t, exec (.acq e) s = .next t ∧ KeptRegisters s t c ∧ t.cores = dropped.cores) ∧
        (Ready s (.fence e) e c → ∃ t, exec (.fence e) s = .next t ∧ KeptRegisters s t c ∧ t.cores = dropped.cores)) ∧
      (Ready s (.pref e) e c → ∃ t, exec (.pref e) s = .next t ∧ (t.ctxWave c).v = w.v ∧ (t.ctxWave c).s = w.s ∧
        (∀ l, c.members.getLsbD l = true → ((t.ctxWave c).lane l).cond = .runnable ∧ ((t.ctxWave c).lane l).pc = c.nextPc) ∧
        ∀ l, c.members.getLsbD l = false → (t.ctxWave c).lane l = w.lane l) ∧
      (∀ (l : Nat) (base : DWord) (index : Word) (x : Xlat) (a : Nat),
        let offset : DWord := match e.len with | .l64 => 0 | .l96 => e.imm16.signExtend 64 | .l128 => e.imm32.signExtend 64
        let indexed : DWord := if e.mod.getLsbD 0 then
          (if e.mod.getLsbD 3 then index.signExtend 64 else index.setWidth 64) <<< (e.mod.toNat / 2 % 4) else 0
        OneFibre s (.pref e) e c l → e.fn = 0 → w.readPair l e.src0 = .ok (base, false) →
        (e.mod.getLsbD 0 = true → w.src1 l e = .ok ⟨index, false⟩) →
        s.mapsTo c (base + indexed + offset) .read x → x.place = .hbm a → x.sc = false →
        ∃ t, exec (.pref e) s = .next t ∧ KeptRegisters s t c ∧
          ∀ k, (t.core (s.coreOf c.blk)).l1.get? k =
            if a / 128 = k / 32 ∧ s.pendingStore (s.coreOf c.blk) (4 * k) 4 = false
              then some { val := ⟨s.wordAt (4 * k), s.poisonAt (4 * k) 4⟩, owned := false }
              else (s.core (s.coreOf c.blk)).l1.get? k))

/-- R35, R128 to R130: a load in flight takes its value at the home where its core holds no copy, and writes its destination and nothing in
memory; a store in flight is performed at its home: its bytes are written and no others. -/
def Obligations.AccessesHappen : Prop :=
  ∀ (s : State) (b k id : Nat) (x : Access),
    let w := s.wave b k
    s.args = [b, k, id] → s.accOf b k id = some x → x.id = id → x.remote = none → w.acc = [x] → w.late = [] → s.faulty = [] →
    s.units = [] → s.dbmap.getLsbD 0 = false → s.memOk →
    (∀ n sx reg, n = 1 ∨ n = 2 ∨ n = 4 → x.kind = .load n sx → x.dst = .v reg 1 4 false 0 → (w.lane x.lane).cond ≠ .stacked → x.lane < 32 →
      (s.core x.core).l1.get? (x.addr / 4) = none →
      s.blocks.flatMap (fun (_, bk) => bk.waves.flatMap (fun (_, v) => v.acc.filter (fun y => y.core == x.core && y.isWrite && y.sameWord x))) = [] →
      ∃ t, exec .loadValueReturn s = .next t ∧ t.mem = s.mem ∧ (t.wave b k).acc = [] ∧ (t.wave b k).s = w.s ∧
        ∀ q l, l < 32 → (t.wave b k).vAt q l = if q = reg ∧ l = x.lane then
          ⟨BitVec.ofNat 32 (let v := s.natAt x.addr n
             if sx ∧ n < 4 ∧ 2 ^ (8 * n - 1) ≤ v then v + (2 ^ 32 - 2 ^ (8 * n)) else v), s.poisonAt x.addr n⟩
          else w.vAt q l) ∧
    (∀ bs p, x.kind = .store bs p →
      ∃ t, exec .homeWritePerformed s = .next t ∧ (t.wave b k).acc = [] ∧ (t.wave b k).v = w.v ∧ (t.wave b k).s = w.s ∧
        ∀ y, t.byteAt y = if x.addr ≤ y ∧ y < x.addr + bs.length then bs.getD (y - x.addr) 0 else s.byteAt y)

/-- R182 to R187, R190 to R193, R196: CVT and PCVT complete and write the codes that encoding or decoding each element gives under the
selected rounding, with one generator step for each element under RND 5; SCALEQ writes the block's scale, TQUANT replaces one byte by
four ternary codes, SRSEED seeds the generator. -/
def Obligations.Conversions : Prop :=
  ∀ (s : State) (e : Enc) (c : Ctx) (a b d : Nat → Word),
    let w := s.ctxWave c
    let gen (l : Nat) : Word := (w.lane l).sr.getD (srSeed 0 l)
    let stepped (l k : Nat) : Word := Nat.repeat srStep k (gen l)
    let rnd (sel l k : Nat) : Rnd :=
      if sel = 5 then .sr (srDraw (stepped l (k + 1))) else .mode (Rm.ofCode (if sel = 0 then w.fpctl.toNat else sel - 1))
    let after (sel l k : Nat) : Option Word := if sel = 5 then some (stepped l k) else none
    let mode := e.mod.toNat
    (Ready s (.cvt e) e c → CanRead s (.cvt e) c e →
      (∀ l, c.acting.getLsbD l = true → w.src0 l e = .ok ⟨a l, false⟩ ∧ w.dstOk l e 1 = true ∧
        (e.len ≠ .l64 → e.ext.getLsbD 8 = false → w.src1 l e = .ok ⟨b l, false⟩)) →
      ∃ t, exec (.cvt e) s = .next t ∧ WroteLanes s t c e (fun l =>
        let scale := if e.len = .l64 then 127 else if e.ext.getLsbD 8 then e.ext.toNat % 256 else (b l).toNat % 256
        let x := if mode % 4 = 3 then intElem (a l) else floatElem (fmtOf (mode % 4)) ((fmtOf (mode % 4)).low (a l))
        let r := encodeAny x.val x.nanNeg x.int e.fn.toNat scale (decide (e.len ≠ .l64)) (e.mod.getLsbD 5) (rnd (mode / 4 % 8) l 0)
        { words := [⟨BitVec.ofNat 32 r.1, false⟩], flags := r.2.bits, sr := after (mode / 4 % 8) l 1 })) ∧
    (let n := 2 ^ e.fn.toNat
     let f := e.ext.toNat % 16
     let wide := if e.ext.getLsbD 5 then BF16 else F32
     let inRegs := if e.ext.getLsbD 4 then e.pcvtPacked else e.pcvtWide
     let outRegs := if e.ext.getLsbD 4 then e.pcvtWide else e.pcvtPacked
     ∀ x : Nat → List Word, Ready s (.pcvt e) e c → CanRead s (.pcvt e) c e → (Instr.pcvt e).wellFormed = true →
      (∀ l, c.acting.getLsbD l = true → w.src1 l e = .ok ⟨b l, false⟩ ∧ w.dstOk l e outRegs = true ∧
        (if inRegs = 1 then (w.src0 l e).map (fun y => [y]) else w.readGroup l e.src0.toNat inRegs) = .ok (clean (x l))) →
      ∃ t, ∃ y : Nat → List Word, ∃ fl : Nat → Word, exec (.pcvt e) s = .next t ∧
        WroteLanes s t c e (fun l => { words := clean (y l), flags := fl l, sr := after (mode % 8) l n }) ∧
        ∀ l, c.acting.getLsbD l = true → (y l).length = outRegs ∧ ∀ k, k < n →
          let scale := (b l).toNat % 256
          if e.ext.getLsbD 4 then
            elemAt wide.width (wordsNat (y l)) k =
              (match rnd (mode % 8) l k with
              | .sr r => decodeSr f (elemAt (elemBits f) (wordsNat (x l)) k) scale wide r
              | .mode rm => decodeFloat f (elemAt (elemBits f) (wordsNat (x l)) k) scale wide rm).1 % 2 ^ wide.width
          else
            let v := floatElem wide (elemAt wide.width (wordsNat (x l)) k)
            elemAt (elemBits f) (wordsNat (y l)) k =
              (encodeAny v.val v.nanNeg false f scale true (e.mod.getLsbD 3) (rnd (mode % 8) l k)).1 % 2 ^ elemBits f) ∧
    (Ready s (.scaleq e) e c → CanRead s (.scaleq e) c e → e.fn.toNat < 2 →
      (∀ l, c.acting.getLsbD l = true → w.src0 l e = .ok ⟨a l, false⟩ ∧ w.dstOk l e 1 = true) →
      ∃ t, exec (.scaleq e) s = .next t ∧ WroteLanes s t c e (fun l => word1 (BitVec.ofNat 32 (blockScale mode
        (((lanesOf c.acting).filter (fun k => e.fn != 0 || k / 16 == l / 16)).map a))))) ∧
    (∀ x : Nat → List Word, Ready s (.tquant e) e c → CanRead s (.tquant e) c e →
      (∀ l, c.acting.getLsbD l = true → w.readGroup l e.src0.toNat 4 = .ok (clean (x l)) ∧ w.src1 l e = .ok ⟨b l, false⟩ ∧
        w.src2 l e = .ok ⟨d l, false⟩ ∧ w.dstOk l e 1 = true) →
      ∃ t, ∃ y : Nat → Word, exec (.tquant e) s = .next t ∧ WroteLanes s t c e (fun l =>
        { words := [⟨y l, false⟩]
          flags := if (x l).any (fun v => (F32.unpack v.toNat).isNan || (F32.unpack ((b l).toNat % 2 ^ 31)).isNan) then 1 else 0 }) ∧
        ∀ l, c.acting.getLsbD l = true →
          let t := F32.unpack ((b l).toNat % 2 ^ 31)
          let byte := e.ext.toNat % 4
          (∀ j, j < 32 → j / 8 ≠ byte → (y l).getLsbD j = (d l).getLsbD j) ∧
          ∀ k, k < 4 → ∀ v, (x l)[k]? = some v → ((y l).extractLsb' (8 * byte + 2 * k) 2).toNat =
            if (F32.unpack v.toNat).isNan ∨ t.isNan then 0
            else if t.lt (F32.unpack v.toNat) then 1
            else if (F32.unpack v.toNat).lt (t.flip true) then 3 else 0) ∧
    (Ready s (.srseed e) e c → CanRead s (.srseed e) c e →
      (∀ l, c.acting.getLsbD l = true → w.src0 l e = .ok ⟨a l, false⟩) →
      ∃ t, exec (.srseed e) s = .next t ∧ WroteLanes s t c e (fun l =>
        let x := a l ^^^ BitVec.ofNat 32 (l * 0x01000193)
        { sr := some (if x = 0 then 1 else x) }))

/-- R183, R185: a narrow float code that is no NaN and no infinity is exact: encoding its value unscaled in any rounding, saturating or
not, gives the code back and sets no flag, and decoding it into F32 gives its value. -/
def Obligations.NarrowCodesExact : Prop :=
  ∀ (f code : Nat) (nsat : Bool) (rnd : Rnd), 10 ≤ f → f ≤ 14 → code < 2 ^ elemBits f →
    (f = 10 → code % 128 ≠ 127) → (f = 11 → code % 128 < 124) → (∀ r, rnd = .sr r → r < 65536) →
    encodeFloat (codeVal f code) false f 127 false nsat rnd = (code, Flags.none) ∧
    ∀ rm, ∃ p, decodeFloat f code 127 F32 rm = (p, Flags.none) ∧
      (F32.unpack p).lt (codeVal f code) = false ∧ (codeVal f code).lt (F32.unpack p) = false

/-- R177, R194: LDX of an unscaled group on an SC page by one fibre writes its four elements, decoded, to its registers; STX there writes
the four encoded elements to the group's bytes and no others. -/
def Obligations.GroupAccesses : Prop :=
  ∀ (s : State) (e : Enc) (c : Ctx) (l : Nat) (base : DWord) (index : Word) (x : Xlat) (a : Nat),
    let w := s.ctxWave c
    let offset : DWord := match e.len with | .l64 => 0 | .l96 => e.imm16.signExtend 64 | .l128 => e.imm32.signExtend 64
    let indexed : DWord := if e.mod.getLsbD 0 then
      (if e.mod.getLsbD 3 then index.signExtend 64 else index.setWidth 64) <<< (e.mod.toNat / 2 % 4) else 0
    let f := if e.fn.toNat % 16 ≠ 0 then e.fn.toNat % 16 else x.fmt
    let n := groupBytes f
    let regs := if e.dt = 0 ∨ e.dt = 3 then 4 else 2
    let fits (ea : DWord) : Prop := (e.fn.toNat % 16 = 0 ∨ x.fmt = 0 ∨ x.fmt = e.fn.toNat % 16) ∧ f ≠ 0 ∧ (e.dt = 3 ↔ f ≤ 6 ∨ f = 15) ∧
      ea.toNat % n = 0 ∧ n ≤ 65536 - ea.toNat % 65536
    let placed (ea : DWord) (acc : Acc) : Prop :=
      s.mapsTo c ea acc x ∧ x.place = .hbm a ∧ x.sc = true ∧ x.stk = false ∧ x.blk = 0 ∧ a + n ≤ sliceBase
    e.mod.getLsbD 4 = false → e.mod.getLsbD 5 = false → e.fn.getLsbD 4 = false → x.fmt < 16 →
    w.readPair l e.src0 = .ok (base, false) → s.units = [] → s.dbmap.getLsbD 0 = false → s.memOk → s.faulty = [] →
    (OneFibre s (.ldx e) e c l → (e.mod.getLsbD 0 = true → w.src1 l e = .ok ⟨index, false⟩) →
      fits (base + indexed + offset) → placed (base + indexed + offset) .read → s.poisonAt a n = false → w.dstOk l e regs = true →
      ∃ t, exec (.ldx e) s = .next t ∧ t.mem = s.mem ∧ (t.ctxWave c).s = w.s ∧
        (∀ k, c.members.getLsbD k = true → ((t.ctxWave c).lane k).pc = c.nextPc) ∧
        let r := decodeGroup f e.dt ⟨127, false⟩ (clean ((List.range ((n + 3) / 4)).map (fun i => BitVec.ofNat 32 (s.natAt a n / 2 ^ (32 * i)))))
        ((t.ctxWave c).lane l).fpstat = (w.lane l).fpstat ||| r.2 ∧
        ∀ k, k < regs → (t.ctxWave c).vAt ((w.lane l).base + e.dst.toNat + k) l = r.1.getD k {}) ∧
    (∀ xs : List Word, OneFibre s (.stx e) e c l → fits (base + offset) → placed (base + offset) .write → w.readGroup l e.src1.toNat regs = .ok (clean xs) →
      let codes := (convertElems w (e.mod.toNat % 8) ((w.lane l).gen l) (groupElems e.dt (wordsNat xs)) f 127 false (e.mod.getLsbD 3)).1
      ∃ t, exec (.stx e) s = .next t ∧ (t.ctxWave c).v = w.v ∧ (t.ctxWave c).s = w.s ∧
        (∀ k, c.members.getLsbD k = true → ((t.ctxWave c).lane k).pc = c.nextPc) ∧
        ∀ y, t.byteAt y = if a ≤ y ∧ y < a + n then BitVec.ofNat 8 (packCodes (elemBits f) codes / 256 ^ (y - a)) else s.byteAt y)

/-- R202, R204, R210 to R214: BARINIT sets a barrier up, ARRIVE and ARRIVEX send it a contribution, BARINV ends its use; TESTB and WAITB
judge its phase against P; WAITB of a phase that has not ended waits. R202, R203: the contributions of commands that reach a barrier in
one step are summed; the phase ends when all expected arrivals and bytes are there; bytes counted off beyond those expected poison the
barrier with BAR_UNDERFLOW. -/
def Obligations.Barriers : Prop :=
  (∀ (s : State) (e : Enc) (c : Ctx) (n : Word) (par : Bool),
      let w := s.ctxWave c
      let k := s.block c.blk
      let b := e.src0.toNat
      let x := k.bar b
      let operand : Prop := (if e.len = .l64 then w.sCode e.src1 else ⟨e.imm16.setWidth 32, false⟩) = (⟨n, false⟩ : PWord)
      let parity : Prop := if e.mod.getLsbD 1 then ∃ y : Word, w.sCode e.src1 = ⟨y, false⟩ ∧ par = y.getLsbD 0 else par = e.mod.getLsbD 0
      let site (i : Instr) : Site := { pc := c.pc, nextPc := c.nextPc, raw := rawOf i, lanes := c.members }
      b < k.nbar → w.spec.sid = none → w.acc = [] →
      (Ready s (.barinit e) e c → operand → 1 ≤ n.toNat → n.toNat ≤ 33 →
        (x.psn = true ∨ x.v = false ∨ x.arr = 0 ∧ x.bytes = 0 ∧ k.hasWaiter b = false) →
        ∃ t, exec (.barinit e) s = .next t ∧ SyncedOn s t c ∧ (t.ctxWave c).s = w.s ∧ (t.block c.blk).rings = k.rings ∧
          (t.block c.blk).bars = k.bars.set b
            { x with v := true, psn := false, ecause := .none, exp := n.toNat, arr := 0, bytes := 0 }) ∧
      (∀ i ∈ [Instr.arrive e, .arrivex e], Ready s i e c → x.v = true →
        (i = .arrive e ∧ e.len = .l64 → n = 1) → (¬(i = .arrive e ∧ e.len = .l64) → operand) →
        ∃ t, exec i s = .next t ∧ SyncedOn s t c ∧ (t.ctxWave c).s = w.s ∧ (t.block c.blk).rings = k.rings ∧
          (t.block c.blk).bars = k.bars.set b { x with pend := x.pend ++
            [if i = .arrive e then { arrivals := n.toNat, source := .arrive c.wave (site i) }
              else { arrivals := 1, add := n.toNat, source := .arrive c.wave (site i) }] }) ∧
      (Ready s (.barinv e) e c → k.hasWaiter b = false → x.v = true →
        ∃ t, exec (.barinv e) s = .next t ∧ SyncedOn s t c ∧ (t.ctxWave c).s = w.s ∧ ((t.block c.blk).bar b).v = false ∧
          ((t.block c.blk).bar b).psn = true ∧ (t.block c.blk).rings = k.rings.map (fun (q, r) => (q, r.filledBy b true))) ∧
      (Ready s (.testb e) e c → parity → x.v = true →
        let passes := x.psn || (x.phase != par)
        ∃ t, exec (.testb e) s = .next t ∧ SyncedOn s t c ∧ (t.block c.blk).bars = k.bars ∧ (t.ctxWave c).s = w.s ∧
          ∀ l, c.members.getLsbD l = true → (t.ctxWave c).lane l =
            { (if c.acting.getLsbD l then (w.lane l).setQ e.dst.toNat passes else w.lane l) with pc := c.nextPc }) ∧
      (Ready s (.waitb e) e c → parity → x.v = true →
        (x.psn = false → x.phase = par → ∃ t, exec (.waitb e) s = .next t ∧ t.mem = s.mem ∧ Waiting s t c c.acting (.waitb b par)) ∧
        (x.psn = false → x.phase ≠ par → ∃ t, exec (.waitb e) s = .next t ∧ SyncedOn s t c ∧ (t.ctxWave c).s = w.s ∧
          ∀ l, c.members.getLsbD l = true → (t.ctxWave c).lane l =
            { (if c.acting.getLsbD l ∧ e.fn = 1 then (w.lane l).setQ e.dst.toNat true else w.lane l) with pc := c.nextPc }) ∧
        (x.psn = true → e.fn = 1 → ∃ t, exec (.waitb e) s = .next t ∧ SyncedOn s t c ∧ (t.ctxWave c).s = w.s ∧
          ∀ l, c.members.getLsbD l = true → (t.ctxWave c).lane l =
            { (if c.acting.getLsbD l then (w.lane l).setQ e.dst.toNat false else w.lane l) with pc := c.nextPc }) ∧
        (x.psn = true → e.fn ≠ 1 → ∃ t r, exec (.waitb e) s = .next t ∧ StoppedOn s t c r ∧ r.cause = x.ecause ∧ r.fmask = c.acting ∧
          r.obj = BitVec.ofNat 8 (128 + b % 128)))) ∧
  (∀ (s : State) (blk b n add sub arr : Nat),
      let k := s.block blk
      let x := k.bar b
      s.args = [blk, b, n] → k.hasWaiter b = false → (∀ p ∈ x.pend.take n, p.source = .command) →
      add = ((x.pend.take n).map (·.add)).sum → sub = ((x.pend.take n).map (·.sub)).sum → arr = ((x.pend.take n).map (·.arrivals)).sum →
      x.bytes + add ≤ 2 ^ 32 - 1 + sub → x.arr + arr ≤ 63 → x.v = true → x.psn = false →
      ∃ t, exec .barrierStep s = .next t ∧ t.mem = s.mem ∧ (t.block blk).waves = k.waves ∧
        let y := (t.block blk).bar b
        y.pend = x.pend.drop n ∧ y.exp = x.exp ∧ y.v = true ∧
        (x.bytes + add < sub → y.psn = true ∧ y.ecause = .barUnderflow ∧ y.bytes = 0 ∧ y.arr = 0) ∧
        (sub ≤ x.bytes + add → y.psn = false ∧ y.bytes = x.bytes + add - sub ∧
          (if x.exp ≤ x.arr + arr ∧ x.bytes + add = sub then y.arr = x.arr + arr - x.exp ∧ y.phase = !x.phase
            else y.arr = x.arr + arr ∧ y.phase = x.phase)))

/-- R205 to R208, R215 to R218: RINIT sets a ring up; RPUSH takes the free slot at TAIL and RPOP the filled slot at HEAD, each handing out
the slot's handle and offset, or waits its turn; RDONE fills or frees the slot of a handle; RPEEK and RSTAT read. -/
def Obligations.RingInstructions : Prop :=
  ∀ (s : State) (e : Enc) (c : Ctx) (h : Word),
    let w := s.ctxWave c
    let k := s.block c.blk
    let q := e.src0.toNat
    let r := k.ring q
    let d := e.dst.toNat - 192
    let offset (i : Nat) : Word := BitVec.ofNat 32 (r.base + i * 2 ^ r.lsz)
    let handle (i : Nat) (lap err : Bool) : Word := BitVec.ofNat 32 (i + lap.toNat * 256 + err.toNat * 512)
    let count (st : Nat) : Nat := ((List.range (r.ns + 1)).filter (fun i => (r.slots.get {} i).st == st)).length
    let done (i : Instr) (x : Ring) : Prop := ∃ t, exec i s = .next t ∧ SyncedOn s t c ∧ (t.ctxWave c).s = w.s ∧
      (t.block c.blk).bars = k.bars ∧ (t.block c.blk).rings = k.rings.set q x
    q < k.nring → w.spec.sid = none → w.acc = [] →
    (let lsz := e.ext.toNat % 16 + 6
     let ns := e.ext.toNat / 16 % 256
     Ready s (.rinit e) e c → (if e.len = .l128 then ⟨e.imm32, false⟩ else w.sCode e.src1) = (⟨h, false⟩ : PWord) →
      e.ext.getLsbD 19 = false → (r.v = true → count 0 = r.ns + 1 ∧ r.pushers = [] ∧ r.poppers = []) →
      h.toNat % 2 ^ lsz = 0 → h.toNat + (ns + 1) * 2 ^ lsz ≤ k.scratch →
      done (.rinit e) { base := h.toNat, lsz := lsz, ns := ns, be := false, bb := e.ext.toNat / 4096 % 128, v := true }) ∧
    (Ready s (.rpush e) e c → r.v = true →
      ((r.slots.get {} r.tail).st = 0 → r.pushers = [] →
        let last := r.ns ≤ r.tail
        ∃ t, exec (.rpush e) s = .next t ∧ SyncedOn s t c ∧ w.wroteS (t.ctxWave c) d [handle r.tail r.tlap false, offset r.tail] ∧
          (t.block c.blk).rings = k.rings.set q { r with
            slots := r.slots.set r.tail { st := 1, lap := r.tlap, err := false }
            tail := if last then 0 else r.tail + 1, tlap := r.tlap != decide last }) ∧
      ((r.slots.get {} r.tail).st ≠ 0 ∨ r.pushers ≠ [] →
        ∃ t, exec (.rpush e) s = .next t ∧ t.mem = s.mem ∧ (t.ctxWave c).s = w.s ∧ Waiting s t c c.members (.ringEnd q true) ∧
          (t.block c.blk).rings = k.rings.set q { r with pushers := r.pushers ++ [.wave c.wave w.nextWait] })) ∧
    (Ready s (.rpop e) e c → r.v = true →
      let x := r.slots.get {} r.head
      (x.st = 2 → r.poppers = [] →
        let last := r.ns ≤ r.head
        ∃ t, exec (.rpop e) s = .next t ∧ SyncedOn s t c ∧ w.wroteS (t.ctxWave c) d [handle r.head r.hlap x.err, offset r.head] ∧
          (t.block c.blk).rings = k.rings.set q { r with
            slots := r.slots.set r.head { x with st := 3, lap := r.hlap }
            head := if last then 0 else r.head + 1, hlap := r.hlap != decide last }) ∧
      (x.st ≠ 2 ∨ r.poppers ≠ [] →
        ∃ t, exec (.rpop e) s = .next t ∧ t.mem = s.mem ∧ (t.ctxWave c).s = w.s ∧ Waiting s t c c.members (.ringEnd q false) ∧
          (t.block c.blk).rings = k.rings.set q { r with poppers := r.poppers ++ [.wave c.wave w.nextWait] })) ∧
    (let i := h.toNat % 256
     let x := r.slots.get {} i
     w.sCode e.src1 = ⟨h, false⟩ → r.v = true → i ≤ r.ns → h.toNat / 1024 % 2 ^ 21 = 0 → x.lap = h.getLsbD 8 → r.be = false →
      (Ready s (.rdoneFill e) e c → x.st = 1 → done (.rdoneFill e) { r with slots := r.slots.set i { x with st := 2, err := false } }) ∧
      (Ready s (.rdoneFree e) e c → x.st = 3 → done (.rdoneFree e) { r with slots := r.slots.set i { x with st := 0, err := false } })) ∧
    (r.v = true →
      (Ready s (.rpeek e) e c → ∃ t, exec (.rpeek e) s = .next t ∧ SyncedOn s t c ∧ (t.block c.blk).rings = k.rings ∧
        let x := r.slots.get {} r.head
        w.wroteS (t.ctxWave c) d [handle r.head r.hlap x.err ||| (if x.st = 2 then 0x80000000 else 0), offset r.head]) ∧
      (Ready s (.rstat e) e c → ∃ t, exec (.rstat e) s = .next t ∧ SyncedOn s t c ∧ (t.block c.blk).rings = k.rings ∧
        w.wroteS (t.ctxWave c) d [BitVec.ofNat 32 (count 0 + count 2 * 65536),
          BitVec.ofNat 32 (r.head + r.hlap.toNat * 256 + r.tail * 65536 + r.tlap.toNat * 2 ^ 24)]))

/-- R223, R224, R227, R231 to R239: CPY, CPYT, CPYR and CPYS with an entry free for them create one command with the operands' source,
destination, length and report, and the wave goes on; no byte moves yet. -/
def Obligations.CopyCommands : Prop :=
  ∀ (s : State) (e : Enc) (c : Ctx) (n : Nat) (entry : CopyAt),
    let w := s.ctxWave c
    let k := s.block c.blk
    let address (code : BitVec 8) (loc : Bool) (a : CopyAddr) : Prop :=
      if loc then ∃ x : Word, w.sCode code = ⟨x, false⟩ ∧ a = .loc x.toNat ∧ x.toNat + n ≤ k.scratch
      else ∃ x : DWord, w.sPair code = (x, false) ∧ a = .va x
    let token : CopyRep := .token c.wave (e.mod.toNat % 8) (w.tokens.get {} (e.mod.toNat % 8)).nb
    let creates (i : Instr) (x : CopyCmd) : Prop :=
      ∃ t, exec i s = .next t ∧ t.mem = s.mem ∧ t.serial = s.serial + 1 ∧
        (t.block c.blk).copies = k.copies.set s.serial { x with wave := c.wave, role := w.roleNo, pc := c.pc, stage := entry } ∧
        (t.block c.blk).bars = k.bars ∧ (t.block c.blk).rings = k.rings ∧ (t.ctxWave c).v = w.v ∧ (t.ctxWave c).s = w.s ∧
        (∀ l, c.members.getLsbD l = true → ((t.ctxWave c).lane l).pc = c.nextPc) ∧
        ∀ j, (t.ctxWave c).tokens.get {} j = match x.rep with
          | .token _ q _ => if j = q then { w.tokens.get {} q with open_ := min 255 ((w.tokens.get {} q).open_ + 1) } else w.tokens.get {} j
          | _ => w.tokens.get {} j
    w.spec.sid = none → 0 < n → s.copyEntry c.blk w.roleNo = some entry → (∀ b : Bool,
      (s.setBlock c.blk { k with clean := b }).copyEntry c.blk w.roleNo = some entry) →
    (∀ src dst, Ready s (.cpy e) e c → address e.src0 (e.mod.getLsbD 3) dst → address e.src1 (e.mod.getLsbD 4) src →
      (if e.len = .l128 then n = e.imm32.toNat else ∃ x : Word, w.sCode e.src2 = ⟨x, false⟩ ∧ n = x.toNat) →
      creates (.cpy e) { src := src, dst := dst, len := n, rep := token }) ∧
    (∀ src dst, let b := e.ext.toNat % 128
      Ready s (.cpyr e) e c → e.mod.getLsbD 2 = false → b < k.nbar → (k.bar b).v = true →
      address e.src0 (e.mod.getLsbD 0) dst → address e.src1 (e.mod.getLsbD 1) src →
      (∃ x : Word, w.sCode e.src2 = ⟨x, false⟩ ∧ n = x.toNat) →
      creates (.cpyr e) { src := src, dst := dst, len := n, rep := .bar b, kind := 3 }) ∧
    (∀ (to_ : DWord) (h : Word), let q := e.ext.toNat % 32
      let r := k.ring q
      let i := h.toNat % 256
      Ready s (.cpys e) e c → q < k.nring → w.sPair e.src0 = (to_, false) → w.sCode e.src1 = ⟨h, false⟩ →
      (∃ x : Word, w.sCode e.src2 = ⟨x, false⟩ ∧ n = x.toNat) → r.handleOk h = true → (r.slots.get {} i).st = 3 → n ≤ 2 ^ r.lsz →
      creates (.cpys e) { src := .loc (r.base + i * 2 ^ r.lsz), dst := .va to_, len := n, kind := 4, rep := token
                          frees := if e.mod.getLsbD 3 then some (q, i) else none }) ∧
    (∀ p ∈ [(Instr.cpytLd e, false), (.cpytSt e, true)], ∀ (a : DWord) (off : Word) (cs : List Int) (bs : List Byte),
      let lay := layoutOf (natOfBytes bs) cs p.2
      Ready s p.1 e c → e.mod.getLsbD 3 = false → e.mod.getLsbD 4 = false → w.sPair e.src0 = (a, false) →
      cs.length = 5 → (∀ d, d < 5 → ∃ y : Word, w.sAt (e.src1.toNat - 192 + d) = ⟨y, false⟩ ∧ cs[d]? = some y.toInt) →
      w.sCode e.src2 = ⟨off, false⟩ → s.readsAs c a 64 bs → lay.refused (natOfBytes bs) = none →
      off.toNat % 16 = 0 → (lay.swz ≠ 0 → off.toNat % lay.span = 0) → n = lay.boxBytes → off.toNat + n ≤ k.scratch →
      creates p.1 { dst := .loc off.toNat, len := n, tensor := some lay, kind := if p.2 then 2 else 1, lrec := a
                    lay := natOfBytes bs, rep := token })

/-- R231, R240 to R242: SEAL closes the open batch of a token and gives its number; WAITK and TESTK tell whether the sealed batches of the
named tokens have been reported; CPYQ reads a token. -/
def Obligations.TokenInstructions : Prop :=
  ∀ (s : State) (e : Enc) (c : Ctx),
    let w := s.ctxWave c
    let k := s.block c.blk
    let tok (w : Wave) (j : Nat) : Token := w.tokens.get {} j
    let mask := e.src0.toNat
    let lane (f : Lane → Lane) (t : State) : Prop := ∀ l, c.members.getLsbD l = true → (t.ctxWave c).lane l =
      { (if c.acting.getLsbD l then f (w.lane l) else w.lane l) with pc := c.nextPc }
    let done := ∀ j, j < 8 → mask.testBit j = true → (tok w j).out = 0
    let noError := ∀ j, j < 8 → mask.testBit j = true → (tok w j).err = false
    (let j := e.src0.toNat % 8
     let x := tok w j
     Ready s (.seal e) e c → x.out < 255 → w.waits = [] → x.errs = [] →
      ∃ t, exec (.seal e) s = .next t ∧ t.mem = s.mem ∧ (t.ctxWave c).v = w.v ∧
        w.wroteS (t.ctxWave c) (e.dst.toNat - 192) [BitVec.ofNat 32 x.nb] ∧ (∀ i, i ≠ j → tok (t.ctxWave c) i = tok w i) ∧
        (k.batchOpen c.wave j ((x.cb + 1) % 65536) = true →
          tok (t.ctxWave c) j = { x with nb := (x.nb + 1) % 65536, open_ := 0, out := x.out + 1 }) ∧
        (x.out = 0 → k.batchOpen c.wave j ((x.cb + 1) % 65536) = false →
          tok (t.ctxWave c) j = { x with nb := (x.nb + 1) % 65536, cb := (x.cb + 1) % 65536, open_ := 0, out := 0 })) ∧
    (Ready s (.waitk e) e c → mask ≠ 0 →
      (done → noError → ∃ t, exec (.waitk e) s = .next t ∧ t.mem = s.mem ∧ (t.ctxWave c).s = w.s ∧ (t.ctxWave c).v = w.v ∧
        lane (fun x => if e.mod.getLsbD 0 then x.setQ e.dst.toNat true else x) t) ∧
      (¬done → ∃ t, exec (.waitk e) s = .next t ∧ t.mem = s.mem ∧ (t.ctxWave c).s = w.s ∧ (t.ctxWave c).v = w.v ∧
        Waiting s t c c.acting (.waitk mask ((List.range 8).map (fun j => (j, (tok w j).nb)))))) ∧
    (Ready s (.testk e) e c → noError →
      ∃ t b, exec (.testk e) s = .next t ∧ (b = true ↔ done) ∧ t.mem = s.mem ∧ (t.ctxWave c).s = w.s ∧ (t.ctxWave c).v = w.v ∧
        lane (fun x => if e.mod.getLsbD 0 then (x.setQ e.dst.toNat b).setQ e.src1.toNat true else x.setQ e.dst.toNat b) t) ∧
    (let x := tok w (e.src0.toNat % 8)
     Ready s (.cpyq e) e c →
      ∃ t, exec (.cpyq e) s = .next t ∧ WroteUniform s t c e (clean [BitVec.ofNat 32 (x.nb + x.cb * 65536),
        BitVec.ofNat 32 (x.open_ + x.out * 256 + x.err.toNat * 65536 + x.ecause.code * 2 ^ 24)]))

/-- R216, R227 to R229, R246, R247: a queued command whose function has credit starts its next chunk; a chunk of a copy inside the scratch
that ends has moved its bytes and no others, counts them off its barrier, and the command is over with its last chunk; the first
waiter of a ring end takes its slot when there is one and goes on. -/
def Obligations.CopySteps : Prop :=
  ∀ (s : State) (blk id : Nat) (x : CopyCmd),
    let k := s.block blk
    (∀ core i role, s.args = [blk, id] → k.copies.get? id = some x → k.core = some core → x.stage = .queued role →
      k.saving = false → x.flight.length < 16 → i < x.chunks → (∀ j, j < i → j ∈ x.flight ∨ j ∈ x.counted) → i ∉ x.flight → i ∉ x.counted →
      i ≤ x.first + 16 → 64 * min 256 (x.len - 256 * i) ≤ ((s.core core).cbkt.get {} k.fn).level →
      ∃ t, exec .copyChunkStart s = .next t ∧ t.mem = s.mem ∧ (t.block blk).waves = k.waves ∧ (t.block blk).bars = k.bars ∧
        (t.block blk).copies = k.copies.set id { x with flight := x.flight ++ [i] }) ∧
    (∀ i src dst b, s.args = [blk, id, i] → k.copies.get? id = some x → i ∈ x.flight → x.flight = [i] → i < x.chunks → i ∉ x.counted →
      x.src = .loc src → x.dst = .loc dst → x.tensor = none → x.rep = .bar b → x.frees = none →
      s.units = [] → s.dbmap.getLsbD 0 = false → s.faulty = [] → s.memOk →
      let n := min 256 (x.len - 256 * i)
      let at_ (off : Nat) : Nat := sliceAddr (s.coreOf blk) (k.scrBase + off + 256 * i)
      ∃ t, exec .copyChunkCounted s = .next t ∧
        (∀ y, t.byteAt y = if at_ dst ≤ y ∧ y < at_ dst + n then s.byteAt (at_ src + (y - at_ dst)) else s.byteAt y) ∧
        ((t.block blk).bar b).pend = (k.bar b).pend ++ [{ sub := n }] ∧
        (t.block blk).copies = if (setInsert x.counted i).length = x.chunks then (k.copies.set id x).erase id
          else k.copies.set id { x with flight := [], counted := setInsert x.counted i }) ∧
    (∀ q w n p rest, let r := k.ring q
      let v := k.waves.get {} w
      s.args = [blk, q, 1] → r.pushers = .wave w n :: rest → r.v = true → (r.slots.get {} r.tail).st = 0 → k.core.isSome = true →
      k.saving = false → v.onHold = false → v.waits.get? n = some p → p.why = .ringEnd q true → p.lanes ≠ 0 →
      (∀ l, p.lanes.getLsbD l = true → (v.lane l).cond = .blocked n) → v.spec.sid = none → v.acc = [] →
      ∃ t, exec .ringWaiterServed s = .next t ∧ t.mem = s.mem ∧
        ((t.block blk).ring q).pushers = rest ∧ (((t.block blk).ring q).slots.get {} r.tail).st = 1 ∧
        v.wroteS (t.wave blk w) (p.enc.dst.toNat - 192)
          [BitVec.ofNat 32 (r.tail + r.tlap.toNat * 256), BitVec.ofNat 32 (r.base + r.tail * 2 ^ r.lsz)] ∧
        (t.wave blk w).waits.get? n = none ∧ (t.wave blk w).batches = v.batches ++ [⟨p.lanes⟩] ∧
        ∀ l, (t.wave blk w).lane l = if p.lanes.getLsbD l then { v.lane l with cond := .runnable, pc := p.nextPc } else v.lane l)

/-- R249, R252, R257, R264, R267 to R270: MZERO, MLOOP, MBRA, MBRA.NZ, MEND, MYIELD, MARRIVE and a MWAITB whose phase is over act and the
stream goes on, MEND, MYIELD and MARRIVE where no contribution of the stream is on its way; a MWAITB whose phase is not over waits. -/
def Obligations.StreamControl : Prop :=
  ∀ (s : State) (e : Enc) (blk : Nat) (m : Stream), StreamReady s blk m →
    let k := s.block blk
    let next := m.after e
    let goes (i : Instr) (x : Stream) : Prop := exec i s = .next (s.setBlock blk { k with stream := some x })
    let target := pc55 (m.pc + e.imm16.signExtend 64 <<< 2)
    let b := e.src0.toNat
    goes (.mloop e) { m with n := m.n.set e.dst.toNat (e.imm16.setWidth 32), pc := next } ∧
    (e.len ≠ .l128 → target &&& 0x1F ≠ 0x1C → goes (.mbra e) { m with pc := target } ∧
      (m.n.get 0 b ≠ 0 → goes (.mbraNz e) { m with n := m.n.set b (m.n.get 0 b - 1), pc := target })) ∧
    (m.n.get 0 b = 0 → goes (.mbraNz e) { m with pc := next }) ∧
    ((∀ p ∈ k.bars, ∀ x ∈ p.2.pend, x.stream = false) →
      goes (.mend e) { m with ended := true, pc := next } ∧ goes (.myield e) { m with pc := next }) ∧
    (b < k.nbar → (k.bar b).v = true → (k.bar b).psn = false →
      ((k.bar b).phase ≠ e.mod.getLsbD 0 → goes (.mwaitb e) { m with pc := next }) ∧
      ((k.bar b).phase = e.mod.getLsbD 0 → ∃ w, goes (.mwaitb e) { m with wait := some (.bar b (e.mod.getLsbD 0) w) })) ∧
    (b < k.nbar → (k.bar b).v = true → (∀ p ∈ k.bars, ∀ x ∈ p.2.pend, x.stream = false) → ∃ t, exec (.marrive e) s = .next t ∧ StreamWent s t blk ∧
      t.mem = s.mem ∧ (t.block blk).stream = some { m with pc := next } ∧ (t.block blk).tiles = k.tiles ∧ (t.block blk).rings = k.rings ∧
      (t.block blk).bars = k.bars.set b { k.bar b with pend := (k.bar b).pend ++ [{ arrivals := 1, stream := true }] }) ∧
    (let x := e.dst.toNat
     let n := e.mod.toNat % 32 + 1
     x + n ≤ 32 → s.checksQuiet → ∃ t y, exec (.mzero e) s = .next t ∧ StreamWent s t blk ∧ t.mem = s.mem ∧
      (t.block blk).bars = k.bars ∧ (t.block blk).rings = k.rings ∧ (t.block blk).stream = some y ∧
      y = { m with pc := next, tilePoison := y.tilePoison } ∧
      ∀ i, i < 32 → (t.block blk).tile i = (if x ≤ i ∧ i < x + n then List.replicate 2048 0 else k.tile i) ∧
        (t.block blk).tilePoisoned y i = if x ≤ i ∧ i < x + n then false else k.tilePoisoned m i)

/-- R253 to R263: MMA and MMAT on clean operands run their steps in ascending order into every word of the tile: an integer step adds the
sum of the products, wrapped or clamped (R260), a float step adds the step's sum (R259); the slots are popped and freed as the modifiers
say, and the flags are gathered in MSTAT. -/
def Obligations.MatrixSteps : Prop :=
  ∀ (s : State) (e : Enc) (blk : Nat) (m : Stream) (ternary : Bool) (ia ib : Nat) (as bs : List PanelRead),
    let k := s.block blk
    let qa := e.src0.toNat
    let qb := e.src1.toNat
    let ra := k.ring qa
    let rb := k.ring qb
    let n := e.ext.toNat % 16 + 1
    let pb := if ternary then 2048 else 4096
    let offA := e.ext.toNat / 16 % 64 * 1024
    let offB := e.ext.toNat / 1024 % 64 * 1024
    let popA := e.mod.getLsbD 0
    let popB := e.mod.getLsbD 2
    let freeA := e.mod.getLsbD 1
    let freeB := e.mod.getLsbD 3
    let x := e.dst.toNat
    let aRow (a : PanelRead) (i : Nat) : List Byte := s.bytesAt (s.localHost blk (a.off + 64 * i)) (panelRow a.attr.fmt)
    let bRow (b : PanelRead) (j : Nat) : List Byte := s.bytesAt (s.localHost blk (b.off + (if ternary then 16 else 64) * j)) (panelRow b.attr.fmt)
    let dot (a b : PanelRead) (i j : Nat) : Int := (List.zipWith (· * ·) (intRow a.attr.fmt (aRow a i)) (intRow b.attr.fmt (bRow b j))).sum
    let clamp (y : Int) : Int := if e.mod.getLsbD 4 then max (-(2 ^ 31)) (min (2 ^ 31 - 1) y) else y
    let step (i j : Nat) (acc : Word) (p : PanelRead × PanelRead) : Word :=
      if p.1.attr.fmt ≤ 2 then BitVec.ofInt 32 (clamp (acc.toInt + dot p.1 p.2 i j))
      else (stepAcc acc (stepSum (List.zipWith stepProd
        (floatRow p.1.attr.fmt p.1.attr (aRow p.1 i) (p.1.scales.getD i [])) (floatRow p.2.attr.fmt p.2.attr (bRow p.2 j) (p.2.scales.getD j [])))).1).1
    let took (h : Tab HeldSlot) (q i : Nat) (r : Ring) (pop : Bool) : Tab HeldSlot := if pop then h.set q ⟨i, r.hlap, false, false⟩ else h
    let gave (h : Tab HeldSlot) (q : Nat) (free : Bool) : Tab HeldSlot := if free then h.erase q else h
    let moved (r r' : Ring) (i : Nat) (pop free : Bool) : Prop :=
      r'.head = (if pop then (if r.ns ≤ r.head then 0 else r.head + 1) else r.head) ∧ r'.tail = r.tail ∧
      (r'.slots.get {} i).st = if free then 0 else if pop then 3 else (r.slots.get {} i).st
    let slot (q i : Nat) (r : Ring) (pop : Bool) : Prop :=
      q < k.nring ∧ r.be = false ∧
      if pop then r.v = true ∧ m.held.get? q = none ∧ i = r.head ∧ (r.slots.get {} i).st = 2 ∧ (r.slots.get {} i).err = false ∧ r.poppers = []
      else m.held.get? q = some ⟨i, r.hlap, false, false⟩
    ∀ u v : State, StreamReady s blk m → qa ≠ qb → slot qa ia ra popA → slot qb ib rb popB → s.checksQuiet →
    offA + n * 2048 ≤ 2 ^ ra.lsz → offB + n * pb ≤ 2 ^ rb.lsz →
    s.readPanels blk m ((List.range n).map (fun j => ra.slotOff ia + offA + j * 2048)) 2048 32 = (.ok as, u) → s.walked u →
    u.readPanels blk m ((List.range n).map (fun j => rb.slotOff ib + offB + j * pb)) pb (if ternary then 128 else 64) = (.ok bs, v) → u.walked v →
    (∀ p ∈ as.zip bs, pairOk ternary p.1.attr.fmt p.2.attr.fmt = true ∧ (∀ i, i < 32 → s.rowPoison blk p.1 64 i = false) ∧
      ∀ j, j < (if ternary then 128 else 64) → s.rowPoison blk p.2 (if ternary then 16 else 64) j = false) →
    (∀ y ∈ (if ternary then [x, x + 1] else [x]), k.tilePoisoned m y = false ∧ (k.tile y).length = 2048) →
    ∃ t y, exec (if ternary then .mmat e else .mma e) s = .next t ∧ StreamWent s t blk ∧ t.mem = s.mem ∧ (t.block blk).bars = k.bars ∧
      (t.block blk).stream = some y ∧ y.mstat &&& m.mstat = m.mstat ∧
      y = { m with pc := m.after e, mstat := y.mstat, held := gave (gave (took (took m.held qa ia ra popA) qb ib rb popB) qa freeA) qb freeB } ∧
      moved ra ((t.block blk).ring qa) ia popA freeA ∧ moved rb ((t.block blk).ring qb) ib popB freeB ∧
      (∀ q, q ≠ qa → q ≠ qb → (t.block blk).ring q = k.ring q) ∧
      ∀ z i j, i < 32 → j < 64 → ((t.block blk).tile z).getD (64 * i + j) 0 =
        if z = x then (as.zip bs).foldl (step i j) ((k.tile z).getD (64 * i + j) 0)
        else if ternary = true ∧ z = x + 1 then (as.zip bs).foldl (step i (64 + j)) ((k.tile z).getD (64 * i + j) 0)
        else (k.tile z).getD (64 * i + j) 0

/-- R253, R257, R258, R265, R266, R271: MLDX fills a tile from a slot, MSTX writes a tile's codes into a slot and nowhere else, and in the
handler MXRD and MXWR move words of a tile, MXRD.S and MXWR.S the stream's own words. -/
def Obligations.TileTransfers : Prop :=
  ∀ (s : State) (e : Enc) (blk : Nat) (m : Stream),
    let k := s.block blk
    (∀ (i : Nat) (p : Panel) (u v : State), let q := e.src0.toNat
      let r := k.ring q
      let o := r.base + i * 2 ^ r.lsz + e.ext.toNat % 64 * 1024
      let bits := if p.fmt = 0 then 32 else elemBits p.fmt
      let pitch := 8 * bits
      let code (row c : Nat) : Nat := natOfBytes (s.bytesAt (s.localHost blk (o + row * pitch)) pitch) / 2 ^ (bits * c) % 2 ^ bits
      StreamReady s blk m → s.checksQuiet → q < k.nring → e.mod.getLsbD 0 = false → e.mod.getLsbD 1 = false → m.held.get? q = some ⟨i, r.hlap, false, false⟩ →
      s.panelXlat blk m o 1 .read = (.ok p, u) → s.walked u → u.panelXlat blk m o (32 * pitch) .read = (.ok p, v) → u.walked v → p.fmt < 10 →
      e.ext.toNat % 64 * 1024 + 32 * pitch ≤ 2 ^ r.lsz → s.poisonAt (s.localHost blk o) (32 * pitch) = false → e.dst.toNat < 32 →
      ∃ t y, exec (.mldx e) s = .next t ∧ StreamWent s t blk ∧ t.mem = s.mem ∧ (t.block blk).bars = k.bars ∧ (t.block blk).rings = k.rings ∧
        (t.block blk).stream = some y ∧ y = { m with pc := m.after e, tilePoison := y.tilePoison } ∧ y.tilePoison.getLsbD e.dst.toNat = false ∧
        (∀ z, z ≠ e.dst.toNat → (t.block blk).tile z = k.tile z) ∧
        ∀ row c, row < 32 → c < 64 → ((t.block blk).tile e.dst.toNat).getD (64 * row + c) 0 =
          match p.fmt with
          | 1 => (BitVec.ofNat 8 (code row c)).signExtend 32
          | 3 => (BitVec.ofNat 16 (code row c)).signExtend 32
          | 8 => if 0x7F80 < code row c % 2 ^ 15 then 0x7FC00000 else BitVec.ofNat 32 (code row c * 2 ^ 16)
          | 7 => BitVec.ofNat 32 (decodeFloat 7 (code row c) 127 F32 .rne).1
          | _ => BitVec.ofNat 32 (code row c)) ∧
    (∀ (i : Nat) (p : Panel) (u : State), let q := e.dst.toNat
      let r := k.ring q
      let o := r.base + i * 2 ^ r.lsz + e.ext.toNat / 4 % 64 * 1024
      let f := e.fn.toNat % 16
      let b := elemBits f
      let rm := Rm.ofCode (if e.mod.toNat % 8 = 0 then 0 else e.mod.toNat % 8 - 1)
      let at_ := s.localHost blk o
      let code (w : Word) : Nat :=
        let x := if e.mod.getLsbD 4 then intElem w else floatElem F32 w.toNat
        (encodeAny x.val x.nanNeg x.int f 127 false (e.mod.getLsbD 3) (.mode rm)).1
      StreamReady s blk m → q < k.nring → r.be = false → e.ext.getLsbD 0 = false → e.ext.getLsbD 1 = false →
      m.held.get? q = some ⟨i, r.tlap, true, false⟩ → e.ext.toNat / 4 % 64 * 1024 + 256 * b ≤ 2 ^ r.lsz → 1 ≤ f → f ≤ 14 → e.mod.toNat % 8 < 5 →
      s.panelXlat blk m o (256 * b) .write = (.ok p, u) → s.walked u → (p.fmt = 0 ∨ p.fmt = f) → k.tilePoisoned m e.src0.toNat = false →
      (k.tile e.src0.toNat).length = 2048 → s.memOk → s.units = [] → s.dbmap.getLsbD 0 = false → s.faulty = [] →
      ∃ t y, exec (.mstx e) s = .next t ∧ (∀ z, z < at_ ∨ at_ + 256 * b ≤ z → t.byteAt z = s.byteAt z) ∧
        (∀ row c, row < 32 → c < 64 → rowCode f (natOfBytes (t.bytesAt (at_ + row * (8 * b)) (8 * b))) c = code ((k.tile e.src0.toNat).getD (64 * row + c) 0)) ∧
        (t.block blk).tiles = k.tiles ∧ (t.block blk).rings = k.rings ∧ (t.block blk).bars = k.bars ∧ (t.block blk).stream = some y ∧
        y = { m with pc := m.after e, mstat := y.mstat } ∧ y.mstat &&& m.mstat = m.mstat) ∧
    ∀ (c : Ctx) (x : Word), let w := s.ctxWave c
      let m := (s.block c.blk).stream.getD {}
      let pos (l : Nat) : Nat := x.toNat % 32 * 64 + 32 * (x.toNat / 32 % 2) + l
      let tile (k : Block) (z i : Nat) : Word := (k.tile z).getD i 0
      s.mxAllowed c.blk c.wave = true → w.sCode e.src1 = ⟨x, false⟩ → e.src1.toNat ≥ 192 →
      (Ready s (.mxrd e) e c → s.faulty = [] → CanRead s (.mxrd e) c e → (∀ l, c.acting.getLsbD l = true → w.dstOk l e 1 = true) →
        ∃ t, exec (.mxrd e) s = .next t ∧ WroteLanes s t c e (fun l =>
          { words := [⟨tile (s.block c.blk) e.src0.toNat (pos l), (s.block c.blk).tilePoisoned m e.src0.toNat⟩] })) ∧
      (Ready s (.mxrdS e) e c → CanRead s (.mxrdS e) c e → (∀ l, c.acting.getLsbD l = true → w.dstOk l e 1 = true) →
        ∃ t, exec (.mxrdS e) s = .next t ∧ WroteLanes s t c e (fun _ =>
          { words := [⟨match x.toNat % 16 with
              | 0 => m.pc.setWidth 32
              | 1 => (m.pc >>> 32).setWidth 32
              | 2 => m.n.get 0 0
              | 3 => m.n.get 0 1
              | 4 => m.n.get 0 2
              | 5 => m.n.get 0 3
              | 6 => m.mstat
              | 7 => m.tilePoison
              | _ => 0, false⟩] })) ∧
      (∀ v : Nat → Word, Ready s (.mxwr e) e c → s.checksQuiet → CanRead s (.mxwr e) c e → (∀ l, c.acting.getLsbD l = true → w.src0 l e = .ok ⟨v l, false⟩) →
        ((s.block c.blk).tile e.dst.toNat).length = 2048 →
        ∃ t, exec (.mxwr e) s = .next t ∧ KeptRegisters s t c ∧ (t.block c.blk).stream = (s.block c.blk).stream ∧
          (∀ l, c.acting.getLsbD l = true → tile (t.block c.blk) e.dst.toNat (pos l) = v l) ∧
          ∀ z p, (z = e.dst.toNat → ∀ l, c.acting.getLsbD l = true → p ≠ pos l) → tile (t.block c.blk) z p = tile (s.block c.blk) z p) ∧
      (∀ v : Word, Ready s (.mxwrS e) e c → CanRead s (.mxwrS e) c e → w.src0 c.leader e = .ok ⟨v, false⟩ → (s.block c.blk).stream = some m →
        ∃ t, exec (.mxwrS e) s = .next t ∧ KeptRegisters s t c ∧ (t.block c.blk).tiles = (s.block c.blk).tiles ∧
          (t.block c.blk).stream = some (match x.toNat % 16 with
            | 2 => { m with n := m.n.set 0 v }
            | 3 => { m with n := m.n.set 1 v }
            | 4 => { m with n := m.n.set 2 v }
            | 5 => { m with n := m.n.set 3 v }
            | 6 => { m with mstat := v &&& 0x3F }
            | 7 => { m with tilePoison := v }
            | _ => m))

/-- R277 to R282, R285 to R287: the stack engine's instructions complete, each with its effect.  SMVCFG loads the descriptor that its record
gives; SMV and SMVB take a free tag slot and send the barrier one arrival and the result bytes; SMVQ tells how far a command is; SMVCAN
goes on whatever its tag names, and counts off the units of a command that has computed none.  A command comes to a stack that has room,
and the stack that serves it computes the results of the rows it holds; the next unit whose words are computed is written to the scratch,
and nowhere else, and counted off. -/
def Obligations.StackCommands : Prop :=
  ∀ (s : State) (e : Enc) (c : Ctx),
    let w := s.ctxWave c
    let k := s.block c.blk
    let tag (slot : Nat) : Nat := slot + w.tagGen.get 0 slot * 16
    w.spec.sid = none →
    (∀ (b : DWord) (bs : List Byte) (d : Desc), let x := natOfBytes bs
      let off : DWord := if e.len = .l128 then e.imm32.signExtend 64 else e.imm16.signExtend 64
      let row := 64 * d.kg * elemBits d.fmt / 8
      ∀ (y : Xlat) (h : Nat), Ready s (.smvcfg e) e c → w.acc = [] → w.sPair e.src0 = (b, false) → off.toNat % 32 = 0 →
      (b + off).toNat % 65536 + 32 ≤ 65536 → s.mapsTo c (b + off) .read y → y.place = .hbm h →
      (y.sc = true ∨ (∀ q, h / 4 ≤ q → 4 * q < h + 32 → (s.core (s.coreOf c.blk)).l1.get? q = none) ∧
        ∀ p ∈ s.blocks, ∀ v ∈ p.2.waves, ∀ z ∈ v.2.acc, z.core = s.coreOf c.blk → z.isWrite = false) →
      bs = s.bytesAt h 32 → s.poisonAt h 32 = false → s.faulty = [] →
      d = { wbase := BitVec.ofNat 64 x, rows := x / 2 ^ 64 % 2 ^ 32, kg := x / 2 ^ 96 % 2 ^ 16, pitch := x / 2 ^ 112 % 2 ^ 16, fmt := x / 2 ^ 128 % 16 } →
      x % 256 = 0 → 1 ≤ d.rows → d.rows ≤ 2 ^ 20 → 1 ≤ d.kg → d.kg ≤ 1024 → d.fmt ∈ [1, 2, 7, 8, 10, 11, 14] → x < 2 ^ 132 →
      row ≤ d.pitch * 256 → 1 ≤ d.pitch →
      ∃ t, exec (.smvcfg e) s = .next t ∧ KeptRegisters s t c ∧ t.block c.blk = { k with waves := (t.block c.blk).waves } ∧
        ∀ j, (t.ctxWave c).descs.get? j = if j = e.dst.toNat % 4 then some d else w.descs.get? j) ∧
    (∀ p ∈ [(Instr.smv e, 1, e.imm16.toNat), (.smvb e, e.imm16.toNat / 8192 + 1, e.imm16.toNat % 8192 + 1)],
      ∀ (a r r0 : Word) (d : Desc) (slot : Nat), let b := e.ext.toNat % 128
      let nv := p.2.1
      let n := p.2.2
      let per := ((if d.fmt = 1 ∨ d.fmt = 2 then 64 * d.kg else 128 * d.kg) + 63) / 64 * 64
      let home (o : Nat) : Nat := s.localHost c.blk o
      Ready s p.1 e c → w.sCode e.src0 = ⟨a, false⟩ → w.sCode e.src1 = ⟨r, false⟩ → w.sCode e.src2 = ⟨r0, false⟩ →
      w.descs.get? (e.mod.toNat % 4) = some d → (e.mod.getLsbD 3 = true → d.fmt = 1 ∨ d.fmt = 2) → r0.toNat + n ≤ d.rows →
      a.toNat + nv * per ≤ k.scratch → r.toNat + 4 * n * nv ≤ k.scratch → a.toNat % 64 = 0 → r.toNat % 4 = 0 → b < k.nbar →
      (k.bar b).v = true → s.stacksOn (s.coreOf c.blk) < 64 → slot < 16 → (∀ j, j < slot → k.tagBusy c.wave j = true) →
      k.tagBusy c.wave slot = false → s.faulty = [] →
      ∃ t y, exec p.1 s = .next t ∧ t.mem = s.mem ∧ t.serial = s.serial + 1 ∧ (t.ctxWave c).v = w.v ∧
        w.wroteS (t.ctxWave c) (e.dst.toNat - 192) [BitVec.ofNat 32 (tag slot)] ∧
        (∀ l, c.members.getLsbD l = true → ((t.ctxWave c).lane l).pc = c.nextPc) ∧
        (t.block c.blk).stackCmds = k.stackCmds.set s.serial
          { wave := c.wave, slot := slot, pc := c.pc, desc := d, acc := e.mod.getLsbD 2, sat := e.mod.getLsbD 3, r0 := r0.toNat, n := n, nv := nv
            roff := r.toNat, bar := b, vecs := s.bytesAt (home a.toNat) (nv * per)
            vecsBad := (List.range nv).filter (fun v => s.poisonAt (home a.toNat + v * per) per)
            start := if e.mod.getLsbD 2 then (List.range (n * nv)).map (fun j =>
              ⟨s.wordAt (home r.toNat + 4 * j), s.poisonAt (home r.toNat + 4 * j) 4⟩) else [] } ∧
        (t.block c.blk).bars = k.bars.set b { k.bar b with pend := (k.bar b).pend ++ [y] } ∧
        y.arrivals = 1 ∧ y.add = 4 * n * nv ∧ y.sub = 0 ∧ y.ofWave c.wave = true ∧ (t.block c.blk).rings = k.rings) ∧
    (∀ x : Word, Ready s (.smvq e) e c → w.sCode e.src0 = ⟨x, false⟩ →
      ∃ t v, exec (.smvq e) s = .next t ∧ WroteUniform s t c e [⟨v, false⟩] ∧
        (v = 0 ↔ ¬∃ p ∈ k.stackCmds, p.2.wave = c.wave ∧ p.2.slot = x.toNat % 16 ∧ x.toNat / 16 % 4096 = w.tagGen.get 0 (x.toNat % 16)) ∧
        (∀ y, k.tagged c.wave w x.toNat = some y → v = if y.2.running then 2 else 1)) ∧
    (∀ x : Word, Ready s (.smvcan e) e c → w.sCode e.src0 = ⟨x, false⟩ →
      (∃ t, exec (.smvcan e) s = .next t ∧ (t.ctxWave c).v = w.v ∧ (t.ctxWave c).s = w.s ∧
        ∀ l, c.members.getLsbD l = true → ((t.ctxWave c).lane l).pc = c.nextPc) ∧
      (k.tagged c.wave w x.toNat = none → ∃ t, exec (.smvcan e) s = .next t ∧ KeptRegisters s t c ∧
        t.block c.blk = { k with waves := (t.block c.blk).waves }) ∧
      ∀ id y, k.tagged c.wave w x.toNat = some (id, y) → k.stackCmds.get? id = some y → y.units = [] → y.results = [] → 0 < y.n * y.nv →
        ∃ t, exec (.smvcan e) s = .next t ∧ t.mem = s.mem ∧ (t.block c.blk).stackCmds = k.stackCmds.erase id ∧
          (t.ctxWave c).tagGen = w.tagGen.set y.slot ((w.tagGen.get 0 y.slot + 1) % 4096) ∧
          ((t.block c.blk).bar y.bar).pend = (k.bar y.bar).pend ++
            (List.range ((4 * y.n * y.nv + 255) / 256)).map (fun u => { sub := min 256 (4 * y.n * y.nv - 256 * u) })) ∧
    (∀ (blk id st : Nat) (x : StackCmd) (stack host : Nat → Nat) (pg : Nat → Xlat) (scs : Nat → List PWord) (at_ : Nat → State → Prop), let k := s.block blk
      let line := s.stackLine st
      let served : State := { s with stackQ := s.stackQ.set st (line.drop 1) }
      let d := x.desc
      let kk := 64 * d.kg
      let a (v : Nat) : Nat := natOfBytes ((x.vecs.drop (v * d.vecBytes)).take d.vecBytes)
      let row (j : Nat) : Nat := natOfBytes (s.bytesAt (host j) d.rowBytes)
      let s8 (y : Nat) : Int := if y < 128 then (y : Int) else (y : Int) - 256
      let sum (j v : Nat) : Int :=
        ((List.range kk).map (fun i => s8 (a v / 2 ^ (8 * i) % 256) * (if d.fmt = 1 then s8 (row j / 2 ^ (8 * i) % 256) else (row j / 2 ^ (8 * i) % 256 : Nat)))).sum
      let scale (j i : Nat) : Nat := match (scs j)[i / 2 ^ (3 + (pg j).blk)]? with | some y => y.val.toNat % 256 | none => 127
      let fl (j v : Nat) (acc : Word) : Word := (List.range d.kg).foldl (fun acc g => (stepAcc acc (stepSum ((List.range 64).map (fun i =>
        stepProd (floatElemOf 8 (a v / 2 ^ (16 * (64 * g + i)) % 65536) 127)
          (floatElemOf d.fmt (rowCode d.fmt (row j) (64 * g + i)) (scale j (64 * g + i)))))).1).1) acc
      let start (j v : Nat) : Word := (x.start.getD (v * x.n + j) {}).val
      s.args = [blk, id, st] → k.stackCmds.get? id = some x → k.core.isSome = true → k.unjudged x id = false →
      ((blk, id) ∉ line → line.length < 64 →
        exec .stackCommandRun s = .next { s with stackQ := s.stackQ.set st (line ++ [(blk, id)]) }) ∧
      (line.head? = some (blk, id) → x.results = [] → (∀ p ∈ x.start, p.poison = false) → s.faulty = [] →
      at_ 0 (served.setBlock blk { k with stackCmds := k.stackCmds.set id { x with running := true } }) →
      (∀ j u, j < x.n → at_ j u → ∃ u', u.rowXlat blk d (x.r0 + j) = .ok u' (stack j) (host j) (pg j) ∧ u.walked u' ∧
        (stack j ≠ st → at_ (j + 1) u') ∧
        (stack j = st → ∃ u'', u'.rowScales blk d (x.r0 + j) (stack j) (pg j) = (.ok (scs j), u'') ∧ u'.walked u'' ∧
          (∀ cmds, at_ (j + 1) (u''.setBlock blk { u''.block blk with stackCmds := cmds })) ∧
          s.poisonAt (host j) d.rowBytes = false ∧ ∀ p ∈ scs j, p.poison = false)) →
      ∃ t y, exec .stackCommandRun s = .next t ∧ (served.setBlock blk { k with stackCmds := k.stackCmds.set id y }).walked t ∧
        y = { x with running := true, results := y.results } ∧
        ∀ j v, j < x.n → v < x.nv → y.results.get? (v * x.n + j) = if stack j = st then some
          ⟨if d.fmt = 1 ∨ d.fmt = 2 then BitVec.ofInt 32 (if x.sat then max (-(2 ^ 31)) (min (2 ^ 31 - 1) ((start j v).toInt + sum j v))
            else (start j v).toInt + sum j v) else fl j v (start j v), x.vecsBad.contains v⟩ else none)) ∧
    (∀ (blk id u : Nat) (x : StackCmd), let k := s.block blk
      let n := min 256 (4 * x.n * x.nv - 256 * u)
      let at_ := s.localHost blk (x.roff + 256 * u)
      s.args = [blk, id, u] → k.stackCmds.get? id = some x → k.unjudged x id = false → x.units.length = u → u < (4 * x.n * x.nv + 255) / 256 →
      (∀ j, j < n / 4 → ∃ y : PWord, x.results.get? (64 * u + j) = some y) →
      s.memOk → s.units = [] → s.dbmap.getLsbD 0 = false → s.faulty = [] →
      ∃ t, exec .stackResultUnit s = .next t ∧ (∀ y, y < at_ ∨ at_ + n ≤ y → t.byteAt y = s.byteAt y) ∧
        (∀ j, j < n / 4 → t.wordAt (at_ + 4 * j) = (x.results.get {} (64 * u + j)).val) ∧
        ((t.block blk).bar x.bar).pend = (k.bar x.bar).pend ++ [{ sub := n }] ∧
        (t.block blk).stackCmds = if (setInsert x.units u).length = (4 * x.n * x.nv + 255) / 256 then k.stackCmds.erase id
          else k.stackCmds.set id { x with units := setInsert x.units u })

/-- R290 to R293, R301, R302, R318: a TSPAWN or TSPAWN.ORD that its checks let pass queues one task, made from the spawn group, and writes
its serial number; TEXIT ends its wave; TAFF gives the logical home core of an address. -/
def Obligations.SpawnInstructions : Prop :=
  ∀ (s : State) (e : Enc) (c : Ctx),
    let w := s.ctxWave c
    let k := s.block c.blk
    let core := s.coreOf c.blk
    let pair (code : BitVec 8) (x : DWord) : Prop := w.sPair code = (x, false)
    w.spec.sid = none →
    (∀ (foot flags serial : Word) (arg aff ts : DWord) (entry : DWord) (logical target : Nat) (x : Task) (d : Nat),
      let spawns (i : Instr) : Prop := ∃ t, exec i s = .next t ∧ TookWords s t c (e.dst.toNat - 192) [serial] ∧ t.mem = s.mem ∧
        t.tasks = insertTask s.tasks x ∧ t.conts = s.conts ∧ (t.block c.blk).clean = false ∧
        (t.core core).spawnCount.get 0 k.fn = ((s.core core).spawnCount.get 0 k.fn + 1) % 2 ^ 24
      let depth := (match k.task with | some u => u.depth | none => 0) + 1
      let base : Task :=
        { id := s.serial, fn := k.fn, foot := foot, entry := entry, arg := arg, aff := if flags.getLsbD 0 then none else some aff
          serial := serial, depth := depth, core := target, queuedAt := s.clock, codeFrom := k.codeFrom }
      w.acc = [] → w.sCode e.src0 = ⟨foot, false⟩ → w.sCode (e.src0 + 1) = ⟨flags, false⟩ → pair (e.src0 + 4) arg →
      (flags.getLsbD 0 = false → pair (e.src0 + 6) aff) →
      1 ≤ foot.toNat % 32 → foot.toNat % 32 ≤ 24 → foot.toNat / 1024 ≤ 39936 → foot.toNat < 2 ^ 26 → flags.toNat ≤ 1 →
      256 * (foot.toNat / 1024) ≤ s.minShare k.fn → entry = c.pc + (if e.len = .l128 then e.imm32.signExtend 64 else e.imm16.signExtend 64) * 4 →
      entry.toNat % 4 = 0 → entry.toNat % 32 ≠ 28 → depth ≤ 16 → s.logCore k.fn core = some logical →
      serial = BitVec.ofNat 32 ((s.core core).spawnCount.get 0 k.fn % 2 ^ 24 * 256 + logical) →
      target = s.contTarget base core → target ∈ s.coresOf k.fn → s.queueUsed target < 512 →
      (Ready s (.tspawn e) e c → x = base → spawns (.tspawn e)) ∧
      (Ready s (.tspawnOrd e) e c → d = e.mod.toNat % 4 → pair e.src1 ts → s.specOn target = true →
        ((s.fn k.fn).domains.get {} d).open_ = true →
        (match k.task.bind (fun u => u.ord.map (fun o => (u, o))) with
          | some (u, o) => o.dom = d → o.ts.toNat * 2 ^ 32 + u.serial.toNat ≤ ts.toNat * 2 ^ 32 + serial.toNat
          | none => True) →
        ((∃ u o, k.task = some u ∧ u.ord = some o ∧ o.dom = d) ∨ ((s.fn k.fn).domains.get {} d).floor = none ∨
          ∃ f, ((s.fn k.fn).domains.get {} d).floor = some f ∧ f < ts.toNat * 2 ^ 32 + serial.toNat) →
        x = { base with ord := some ⟨d, ts⟩ } → spawns (.tspawnOrd e))) ∧
    (Ready s (.texit e) e c → e.mod.getLsbD 0 = false → (∀ x, k.task = some x → x.ord = none) →
      ∃ t, exec (.texit e) s = .next t ∧ (w.spec.serial = false → t.mem = s.mem) ∧ (t.ctxWave c).ended = true ∧ (t.ctxWave c).batches = [] ∧
        (∀ l, ((t.ctxWave c).lane l).cond = .idle)) ∧
    (∀ (va : DWord) (x : Xlat), Ready s (.taff e) e c → pair e.src0 va → s.mapsTo c va .any x →
      ∃ t n, exec (.taff e) s = .next t ∧ TookWords s t c (e.dst.toNat - 192) [n] ∧ t.mem = s.mem ∧
        match x.place with
        | .hbm _ => ∀ j, s.physCore k.fn (homeOf (s.coreCount k.fn) x.gpa) = some j → ∀ l, s.logCore k.fn j = some l → n = BitVec.ofNat 32 l
        | .slice j _ => (∀ l, s.logCore k.fn j = some l → n = BitVec.ofNat 32 l) ∧ (s.logCore k.fn j = none → n = 0xFFFFFFFF)
        | .localScr _ => ∀ l, s.logCore k.fn core = some l → n = BitVec.ofNat 32 l
        | _ => n = 0xFFFFFFFF)

/-- R297 to R299, R303 to R307: FNEW makes a record unresolved; FRESOLVE and FPOISON resolve an unresolved record once, and release the
continuation parked on it alone; FAWAIT and FJOIN2 park a continuation on unresolved records and queue its task at once where all are
resolved; FGET reads a record. -/
def Obligations.FutureInstructions : Prop :=
  ∀ (s : State) (e : Enc) (c : Ctx) (va : DWord) (r : FutRef),
    let w := s.ctxWave c
    let a := r.addr
    let home := r.home
    let k := s.block c.blk
    let core := s.coreOf c.blk
    let pair (code : BitVec 8) (x : DWord) : Prop := w.sPair code = (x, false)
    let state (a : Nat) : Nat := (s.dwordAt a).toNat % 4
    let good (a : Nat) : Prop := s.poisonAt a 8 = false ∧ state a ≠ 3 ∧ s.dwordAt a &&& 0xFFFFFFFFFFFF00FC = 0
    let waiting (a : Nat) : Nat := (s.dwordAt a).toNat / 256 % 256
    let room (target : Nat) : Prop := target ∈ s.coresOf k.fn ∧ s.queueUsed target < 512
    let parks (r : FutRef) : ParkRec := ⟨r.gpa, r.home, false⟩
    s.plainMemory → w.spec.sid = none → w.acc = [] → a % 16 = 0 →
    (Ready s (.fnew e) e c → pair e.src0 va → s.futureAt c va .write r → s.parkedOn k.fn r.gpa = false →
      ∃ t, exec (.fnew e) s = .next t ∧ TookWords s t c 0 [] ∧ s.wrote t a (List.replicate 16 0) ∧ t.conts = s.conts ∧ t.tasks = s.tasks) ∧
    (∀ p ∈ [(Instr.fresolve e, 1), (.fpoison e, 2)], ∀ v : DWord,
      Ready s p.1 e c → pair e.src0 va → (if p.2 = 1 then pair e.src1 v else ∃ x : Word, w.sCode e.src1 = ⟨x, false⟩ ∧ v = x.setWidth 64) →
      s.futureAt c va .readWrite r → good a →
      (state a = 0 → ∃ t, exec p.1 s = .next t ∧ (t.ctxWave c).v = w.v ∧ (t.ctxWave c).s = w.s ∧
        s.wrote t a (bytesOfNat 8 p.2 ++ bytesOfNat 8 v.toNat) ∧
        (∀ l, c.acting.getLsbD l = true → (t.ctxWave c).lane l =
          { (if e.fn = 1 then (w.lane l).setQ e.dst.toNat true else w.lane l) with pc := c.nextPc }) ∧
        (s.parkedOn k.fn r.gpa = false → (∀ x ∈ s.conts, x.count ≠ 0 ∨ x.stuck.isSome = true) → t.conts = s.conts ∧ t.tasks = s.tasks) ∧
        ∀ x q, s.conts = [x] → x.task.fn = k.fn → x.futures = [r] → x.waits = [q] → q.gpa = r.gpa → x.count = 1 → x.stuck = none →
          x.task.aff = none → x.task.ord = none → home ∈ s.coresOf x.task.fn → s.queueUsed home < 512 →
          t.conts = [] ∧ t.tasks = insertTask s.tasks { x.task with
            took := [r], val1 := v, val1Poison := false, val2 := 0, val2Poison := false, stWord := BitVec.ofNat 32 p.2
            core := home, overflow := false, queuedAt := s.clock, stealable := false }) ∧
      (state a ≠ 0 → e.fn = 1 → ∃ t, exec p.1 s = .next t ∧ t.mem = s.mem ∧ t.tasks = s.tasks ∧ t.conts = s.conts ∧
        (∀ l, c.acting.getLsbD l = true → (t.ctxWave c).lane l = { (w.lane l).setQ e.dst.toNat false with pc := c.nextPc })) ∧
      (state a ≠ 0 → e.fn ≠ 1 → ∃ t r, exec p.1 s = .next t ∧ t.mem = s.mem ∧ (t.ctxWave c).stopped = some r ∧
        r.cause = .doubleResolve ∧ r.fva = va)) ∧
    (∀ (foot flags serial : Word) (entry arg aff : DWord) (logical : Nat),
      let depth := (match k.task with | some u => u.depth | none => 0) + 1
      let task : Task :=
        { id := s.serial, fn := k.fn, foot := foot, entry := entry, arg := arg, aff := if flags.getLsbD 0 then none else some aff
          serial := serial, depth := depth, core := core, codeFrom := k.codeFrom }
      let takes (t : State) : Prop := TookWords s t c (e.dst.toNat - 192) [serial] ∧
        (t.core core).spawnCount.get 0 k.fn = ((s.core core).spawnCount.get 0 k.fn + 1) % 2 ^ 24
      w.sCode e.src0 = ⟨foot, false⟩ → w.sCode (e.src0 + 1) = ⟨flags, false⟩ → pair (e.src0 + 2) entry → pair (e.src0 + 4) arg →
      flags.toNat ≤ 1 → (flags.getLsbD 0 = false → pair (e.src0 + 6) aff) → 1 ≤ foot.toNat % 32 → foot.toNat % 32 ≤ 24 → foot.toNat / 1024 ≤ 39936 → foot.toNat < 2 ^ 26 →
      256 * (foot.toNat / 1024) ≤ s.minShare k.fn → entry.toNat % 4 = 0 → entry.toNat % 32 ≠ 28 → depth ≤ 16 →
      s.logCore k.fn core = some logical →
      serial = BitVec.ofNat 32 ((s.core core).spawnCount.get 0 k.fn % 2 ^ 24 * 256 + logical) →
      pair e.src1 va → s.futureAt c va .readWrite r → good a →
      (Ready s (.fawait e) e c →
        (state a = 0 → waiting a < 255 → room home → ∃ t, exec (.fawait e) s = .next t ∧ takes t ∧ s.wrote t a (bytesOfNat 8 (256 * (waiting a + 1))) ∧
          t.tasks = s.tasks ∧ t.conts = s.conts ++ [{ task := task, count := 1, futures := [r], waits := [parks r] }]) ∧
        (state a ≠ 0 → room (s.contTarget task home) → ∃ t, exec (.fawait e) s = .next t ∧ takes t ∧ t.mem = s.mem ∧ t.conts = s.conts ∧
          t.tasks = insertTask s.tasks { task with
            took := [r], val1 := s.dwordAt (a + 8), val1Poison := s.poisonAt (a + 8) 8, stWord := BitVec.ofNat 32 (state a)
            core := s.contTarget task home, queuedAt := s.clock })) ∧
      ∀ (vb : DWord) (q : FutRef), let b := q.addr
        Ready s (.fjoin2 e) e c → pair e.src2 vb → s.futuresAt c va vb r q → good b → a + 16 ≤ b ∨ b + 16 ≤ a → r.gpa ≠ q.gpa →
        (state a = 0 → state b = 0 → waiting a < 255 → waiting b < 255 → room home → room q.home → s.queueUsed q.home < 511 → ∃ t, exec (.fjoin2 e) s = .next t ∧ takes t ∧
          (∀ y, t.byteAt y = if a ≤ y ∧ y < a + 8 then (bytesOfNat 8 (256 * (waiting a + 1))).getD (y - a) 0
            else if b ≤ y ∧ y < b + 8 then (bytesOfNat 8 (256 * (waiting b + 1))).getD (y - b) 0 else s.byteAt y) ∧
          t.tasks = s.tasks ∧
          t.conts = s.conts ++ [{ task := task, count := 2, futures := [r, q], waits := [parks r, parks q] }]) ∧
        (state a ≠ 0 → state b ≠ 0 → room (s.contTarget task q.home) → ∃ t, exec (.fjoin2 e) s = .next t ∧ takes t ∧ t.mem = s.mem ∧ t.conts = s.conts ∧
          t.tasks = insertTask s.tasks { task with
            took := [r, q], val1 := s.dwordAt (a + 8), val1Poison := s.poisonAt (a + 8) 8, val2 := s.dwordAt (b + 8)
            val2Poison := s.poisonAt (b + 8) 8, stWord := BitVec.ofNat 32 (state a + 4 * state b), core := s.contTarget task q.home, queuedAt := s.clock })) ∧
    (Ready s (.fget e) e c → pair e.src0 va → s.futureAt c va .read r →
      ∃ t u, exec (.fget e) s = .next t ∧ s.walked u ∧ SyncedOn u t c ∧ ∀ q, (t.ctxWave c).sAt q =
        if e.dst.toNat - 192 ≤ q ∧ q < e.dst.toNat - 188 then
          (let j := q - (e.dst.toNat - 192)
           ⟨s.wordAt (a + 4 * j), s.poisonAt (a + 8 * (j / 2)) 8⟩) else w.sAt q)

/-- R291, R294 to R296: a core whose turn it is takes a task of its own queue, or a stealable one of another core, and starts it as a
block of one wave whose registers hold the task's words; a task grows stealable with age; a continuation that waits for room is queued
when there is some. -/
def Obligations.TaskSteps : Prop :=
  ∀ (s : State) (core base : Nat) (x : Task),
    let starts (i : Instr) : Prop := ∃ t, exec i s = .next t ∧ t.mem = s.mem ∧ t.conts = s.conts ∧ (∀ y ∈ t.tasks, y.id ≠ x.id) ∧
      (∀ b, b ≠ s.serial → t.block b = s.block b) ∧
      let b := t.block s.serial
      let w := t.wave s.serial 0
      b.fn = x.fn ∧ b.core = some core ∧ b.scrBase = base ∧ b.scratch = 256 * (x.foot.toNat / 1024 % 65536) ∧
      (∃ y, b.task = some y ∧ y.id = x.id ∧ y.serial = x.serial ∧ y.depth = x.depth ∧ y.core = core) ∧
      w.window = 8 * (x.foot.toNat % 32) ∧ w.ended = false ∧
      (∀ l, (w.lane l).cond = if l < x.foot.toNat / 32 % 32 + 1 then .runnable else .idle) ∧
      (∀ l, l < x.foot.toNat / 32 % 32 + 1 → (w.lane l).pc = x.entry ∧ (w.lane l).fibid = BitVec.ofNat 32 l) ∧
      (∀ j, j < 9 → (w.sAt j).val = match j with
        | 0 => x.arg.setWidth 32
        | 1 => (x.arg >>> 32).setWidth 32
        | 2 => x.serial
        | 3 => BitVec.ofNat 32 x.depth
        | 4 => x.val1.setWidth 32
        | 5 => (x.val1 >>> 32).setWidth 32
        | 6 => x.val2.setWidth 32
        | 7 => (x.val2 >>> 32).setWidth 32
        | _ => x.stWord)
    (s.args = [core] → x.ord = none → s.taskRoom core x = some base → s.taskTurn core = true →
      (∀ ahead, (∀ y ∈ s.tasks, y.overflow = false) → (∀ z ∈ s.conts, ∀ p ∈ z.waits, p.overflow = false) → s.ownTask core = some (x, ahead) → starts .taskDispatch) ∧
      (s.stolenTask (s.clusterOwner (core / 8)) core = some x → starts .taskSteal)) ∧
    (∀ id, s.args = [id] → exec .taskStealable s = .next { s with tasks := s.tasks.map (fun y =>
      if y.id = id ∧ 64 * max 1 ((s.fn y.fn).tctl.toNat % 65536) ≤ s.clock - y.queuedAt then { y with stealable := true } else y) }) ∧
    (∀ y home, s.args = [y.task.id] → s.conts = [y] → y.stuck = some home → y.task.aff = none → y.task.ord = none →
      home ∈ s.coresOf y.task.fn → s.queueUsed home < 512 →
      ∃ t, exec .continuationOverflowRetry s = .next t ∧ t.mem = s.mem ∧ t.conts = [] ∧ t.blocks = s.blocks ∧
        t.tasks = insertTask s.tasks { y.task with core := home, overflow := false, queuedAt := s.clock, stealable := false })

/-- R316, R329 to R331, R339 to R342: ODOM opens a domain and CDOM closes one with nothing unfinished; RBEGIN opens a region, serial where the
core's speculation is off or SER is set, or waits for the token or an admission, and counts nested levels; REND counts them down, gives
the token back, commits a region without predecessors, or waits. -/
def Obligations.RegionInstructions : Prop :=
  ∀ (s : State) (e : Enc) (c : Ctx),
    let w := s.ctxWave c
    let fn := s.ctxFn c
    let d := e.mod.toNat % 4
    let x := (s.fn fn).domains.get {} d
    let core := s.coreOf c.blk
    let enabled : Prop := ∃ k ∈ s.coresOf fn, (s.spart.get 0 k).getLsbD 8 = true
    let serialHere : Prop := (s.spart.get 0 core).getLsbD 8 = false ∨ s.clusterOwner (core / 8) ≠ fn
    let flag (t : State) (b : Bool) : Prop := ∀ l, c.acting.getLsbD l = true → ((t.ctxWave c).lane l).pred = ((w.lane l).setQ e.dst.toNat b).pred
    let kept (t : State) : Prop := t.mem = s.mem ∧ TookWords s t c 0 []
    let nest (t : State) (n : Nat) : Prop := (t.ctxWave c).spec = { w.spec with nest := n }
    w.acc = [] →
    (Ready s (.odom e) e c → enabled → x.open_ = false → ∃ t, exec (.odom e) s = .next t ∧ kept t ∧ t.units = s.units ∧
      ∀ j, (t.fn fn).domains.get {} j = if j = d then { open_ := true } else (s.fn fn).domains.get {} j) ∧
    (Ready s (.cdom e) e c → w.spec.sid = none →
      (x.open_ = false → ∃ t, exec (.cdom e) s = .next t ∧ kept t ∧ t.fns = s.fns ∧ flag t true) ∧
      (x.open_ = true → s.unfinished fn d ≠ [] → ∃ t, exec (.cdom e) s = .next t ∧ kept t ∧ t.fns = s.fns ∧ flag t false) ∧
      (x.open_ = true → s.unfinished fn d = [] → (∀ p ∈ s.units, p.2.finished = false) → ∃ t, exec (.cdom e) s = .next t ∧ kept t ∧ flag t true ∧
        ∀ j, (t.fn fn).domains.get {} j = if j = d then { x with open_ := false } else (s.fn fn).domains.get {} j)) ∧
    (∀ p ∈ [(Instr.rbegin e, false), (.rbeginSer e, true)], Ready s p.1 e c → c.members = w.live → w.spec.nest < 15 →
      ((w.spec.sid = none → w.spec.serial = true ∨ w.spec.promoted = true) → (∀ sid, w.spec.sid = some sid → p.2 = false ∨ (s.unit sid).task = none) →
        ∃ t, exec p.1 s = .next t ∧ kept t ∧ flag t true ∧ nest t (w.spec.nest + 1) ∧ t.units = s.units ∧ t.fns = s.fns) ∧
      (w.spec.sid = none → w.spec.serial = false → w.spec.promoted = false →
        ((p.2 = true ∨ serialHere) → (s.fn fn).token = none → ∃ t, exec p.1 s = .next t ∧ kept t ∧ flag t true ∧ t.units = s.units ∧
          (t.fn fn).token = some (c.blk, c.wave) ∧ (t.ctxWave c).spec = { w.spec with serial := true, nest := 1 }) ∧
        ((p.2 = true ∨ serialHere) → (s.fn fn).token ≠ none → ∃ t, exec p.1 s = .next t ∧ t.mem = s.mem ∧ Waiting s t c c.members .token) ∧
        (p.2 = false → ¬serialHere → s.coreUnits core < 16 → s.units.length < 4096 → ∃ t sid, exec p.1 s = .next t ∧ kept t ∧ flag t true ∧
          sid < 4096 ∧ s.units.get? sid = none ∧ (t.ctxWave c).spec = { w.spec with sid := some sid, nest := 1 } ∧
          t.units = s.units.set sid { fn := fn, blk := c.blk, wave := c.wave, retryPc := c.nextPc, retryQ := e.dst.toNat
                                      retryDepth := w.emdepth, retryBase := (w.lane (lowLane c.members)).base, fibres := c.members }) ∧
        (p.2 = false → ¬serialHere → 16 ≤ s.coreUnits core → ∃ t, exec p.1 s = .next t ∧ t.mem = s.mem ∧ Waiting s t c c.members .admission))) ∧
    (Ready s (.rend e) e c →
      (w.spec.nest ≠ 1 → ∃ t, exec (.rend e) s = .next t ∧ kept t ∧ nest t (w.spec.nest - 1) ∧ t.units = s.units) ∧
      (w.spec.nest = 1 → w.spec.serial = true → w.spec.sid = none → (s.fn fn).token = some (c.blk, c.wave) →
        ∃ t, exec (.rend e) s = .next t ∧ kept t ∧ (t.fn fn).token = none ∧ (t.ctxWave c).spec = { w.spec with serial := false, nest := 0 }) ∧
      (∀ sid u, w.spec.nest = 1 → w.spec.serial = false → w.spec.sid = some sid → u.task = none →
        (Alone s sid u → u.blk = c.blk → u.wave = c.wave → w.waits = [] → ∃ t, exec (.rend e) s = .next t ∧ TookWords s t c 0 [] ∧ s.committed t sid ∧ t.units = [] ∧
          t.versions = s.versions.filter (fun v => v.sid != sid) ∧ (t.ctxWave c).spec = { w.spec with sid := none, nest := 0 }) ∧
        (s.units.get? sid = some u → u.deps ≠ [] → ∃ t, exec (.rend e) s = .next t ∧ t.mem = s.mem ∧ Waiting s t c c.members .rend ∧
          t.units = s.units.set sid { u with atRend := true })))

/-- R324, R330, R343 to R347: RABORT ends a region, and every handler entered in it; its fibres go on after RBEGIN with the predicate false and their stores undone; RSTAT, TFRONT and DEPQ
read the engine; TDEFER goes on outside units and waits in a task that is not the frontier. -/
def Obligations.SpeculationInstructions : Prop :=
  ∀ (s : State) (e : Enc) (c : Ctx),
    let w := s.ctxWave c
    let fn := s.ctxFn c
    let d := e.mod.toNat % 4
    let x := (s.fn fn).domains.get {} d
    let bit (b : Bool) (n : Nat) : Nat := if b then 2 ^ n else 0
    (Ready s (.rabort e) e c → (w.spec.sid = none → ∃ t, exec (.rabort e) s = .next t ∧ KeptRegisters s t c ∧ t.units = s.units) ∧
      (∀ sid u, w.spec.sid = some sid → Alone s sid u → u.task = none → u.blk = c.blk → u.wave = c.wave →
        let z := w.unwind w.emdepth
        ∃ t, exec (.rabort e) s = .next t ∧ t.mem = s.mem ∧ t.units = [] ∧ t.versions = s.versions.filter (fun v => v.sid != sid) ∧
          (t.ctxWave c).v = w.v ∧ (t.ctxWave c).s = z.s ∧ (t.ctxWave c).masks = z.masks ∧ (t.ctxWave c).waits = [] ∧
          (w.frames.length = w.emdepth → (t.ctxWave c).emdepth = 0) ∧ (t.ctxWave c).batches = [⟨u.fibres⟩] ∧ (t.ctxWave c).arrived = [] ∧
          (t.ctxWave c).spec = { w.spec with sid := none, nest := 0, abr := 8, aborts := if w.spec.aborts < 65535 then w.spec.aborts + 1 else w.spec.aborts } ∧
          ∀ l, u.fibres.getLsbD l = true → ((t.ctxWave c).lane l).cond = .runnable ∧ ((t.ctxWave c).lane l).pc = u.retryPc ∧
            ((t.ctxWave c).lane l).base = (if u.retryDepth = 0 then u.retryBase else (z.lane l).base) ∧
            ((t.ctxWave c).lane l).pred = ((z.lane l).setQ u.retryQ false).pred)) ∧
    (Ready s (.rstatSpec e) e c → ∃ t, exec (.rstatSpec e) s = .next t ∧ WroteUniform s t c e
      (let u := match w.spec.sid with | some k => s.unit k | none => {}
       let written := match w.spec.sid with | some k => (s.versions.filter (fun v => v.sid == k)).length | none => 0
       let ordered := match (s.block c.blk).task with | some t => t.ord.isSome | none => false
       clean [BitVec.ofNat 32 (bit w.spec.sid.isSome 0 + bit ordered 1 + bit w.spec.serial 2 + bit (ordered && w.spec.promoted) 3 +
          u.depth * 2 ^ 4 + w.spec.nest * 2 ^ 8 + w.spec.abr * 2 ^ 12 + w.spec.aborts * 2 ^ 16),
        BitVec.ofNat 32 (u.reads.length + written * 2 ^ 16)])) ∧
    (Ready s (.tfront e) e c → ∃ t, exec (.tfront e) s = .next t ∧ WroteUniform s t c e (clean
      (if x.open_ then [BitVec.ofNat 32 (x.pubFront / 2 ^ 32), BitVec.ofNat 32 (x.pubFront / 2 ^ 64), BitVec.ofNat 32 x.pubFront,
          BitVec.ofNat 32 (min 65535 (s.unfinished fn d).length + 2 ^ 16)]
        else [0xFFFFFFFF, 0xFFFFFFFF, 0xFFFFFFFF, 0]))) ∧
    (Ready s (.depq e) e c → ∃ t, exec (.depq e) s = .next t ∧ WroteUniform s t c e (clean
      (match w.spec.sid with
        | none => [0, 0, 0, 0]
        | some sid => if (s.unit sid).task.isSome then [0, 0, 0, 0] else
          let u := s.unit sid
          let dep (i : Nat) : Nat := match u.deps.get? i with | some k => k + 4096 | none => 0
          [BitVec.ofNat 32 (dep 0 + dep 1 * 2 ^ 16), BitVec.ofNat 32 (dep 2 + dep 3 * 2 ^ 16), u.anc.setWidth 32, (u.anc >>> 32).setWidth 32]))) ∧
    (Ready s (.tdefer e) e c →
      (w.spec.sid = none → ∃ t, exec (.tdefer e) s = .next t ∧ KeptRegisters s t c ∧
        ∀ l, c.acting.getLsbD l = true → ((t.ctxWave c).lane l).pred =
          (if e.len = .l96 then ((w.lane l).setQ e.dst.toNat true).pred else (w.lane l).pred)) ∧
      ∀ sid, w.spec.sid = some sid → (s.unit sid).task.isSome = true → s.isFrontier (s.unit sid) = false →
        (e.len = .l96 → e.imm16 = 0 → ∃ t, exec (.tdefer e) s = .next t ∧ KeptRegisters s t c ∧
          ∀ l, c.acting.getLsbD l = true → ((t.ctxWave c).lane l).pred = ((w.lane l).setQ e.dst.toNat false).pred) ∧
        (e.len = .l64 ∨ (e.len = .l96 ∧ e.imm16 ≠ 0) → ∃ t, exec (.tdefer e) s = .next t ∧ t.mem = s.mem ∧
          Waiting s t c c.members (.tdefer (if e.len = .l96 then some (s.clock + e.imm16.toNat * 1024) else none) e.dst.toNat)))

/-- R310, R321, R322, R324, R328 to R331, R346: the steps of the speculation engine: a parked wave becomes a unit, the token is granted, the
frontier is published, the lowest finished task commits, a waiting frontier task is promoted, a region at REND commits, and the
limits of a stall and of TDEFER end them. -/
def Obligations.SpeculationSteps : Prop :=
  ∀ (s : State) (blk wv n sid dom : Nat) (p : Park) (u : SpecUnit),
    let w := s.wave blk wv
    let k := s.block blk
    let core := s.coreOf blk
    let on (t : State) (q : Nat) (b : Bool) : Prop := (t.wave blk wv).v = w.v ∧ (t.wave blk wv).s = w.s ∧ (t.wave blk wv).waits = [] ∧
      (t.wave blk wv).batches = w.batches ++ [⟨p.lanes⟩] ∧ ∀ l, p.lanes.getLsbD l = true →
        ((t.wave blk wv).lane l).cond = .runnable ∧ ((t.wave blk wv).lane l).pc = p.nextPc ∧
        ((t.wave blk wv).lane l).pred = (if p.acting.getLsbD l then (w.lane l).setQ q b else w.lane l).pred
    let waits (why : Why) : Prop := w.onHold = false ∧ w.waits = [(n, p)] ∧ p.why = why ∧ p.lanes ≠ 0 ∧ p.acting &&& ~~~p.lanes = 0 ∧
      (∀ l, p.lanes.getLsbD l = true ↔ (w.lane l).cond = .blocked n)
    (s.args = [blk, wv] → waits .admission → s.coreUnits core < 16 → s.units.length < 4096 →
      ∃ t i, exec .unitAdmit s = .next t ∧ t.mem = s.mem ∧ on t p.enc.dst.toNat true ∧ s.units.get? i = none ∧
        (t.wave blk wv).spec = { w.spec with sid := some i, nest := 1 } ∧
        t.units = s.units.set i { fn := k.fn, blk := blk, wave := wv, retryPc := p.nextPc, retryQ := p.enc.dst.toNat, retryDepth := w.emdepth
                                  retryBase := (w.lane (lowLane p.lanes)).base, fibres := p.lanes }) ∧
    (s.args = [blk, wv] → waits .token → (s.fn k.fn).token = none →
      ∃ t, exec .serialTokenGrant s = .next t ∧ t.mem = s.mem ∧ on t p.enc.dst.toNat true ∧ (t.fn k.fn).token = some (blk, wv) ∧
        (t.wave blk wv).spec = { w.spec with serial := true, nest := 1 } ∧ t.units = s.units) ∧
    (∀ f, s.args = [f, dom] → let x := (s.fn f).domains.get {} dom
      exec .frontierPublish s = .next (if x.open_ then s.setFn f { s.fn f with domains := (s.fn f).domains.set dom { x with
        pubFront := (s.unfinished f dom).foldl (fun m t => match t.ord with | some o => min m (o.ts.toNat * 2 ^ 32 + t.serial.toNat) | none => m)
          (2 ^ 96 - 1) } } else s)) ∧
    (∀ x o, s.args = [sid] → Alone s sid u → u.task = some x → x.ord = some o → u.ord = some o → u.finished = true →
      let key := o.ts.toNat * 2 ^ 32 + x.serial.toNat
      key < s.front u.fn o.dom →
      ∃ t, exec .orderedCommit s = .next t ∧ s.committed t sid ∧ t.units = [] ∧ t.versions = s.versions.filter (fun v => v.sid != sid) ∧
        ((t.fn u.fn).domains.get {} o.dom).floor = some key) ∧
    (∀ x o, s.args = [sid] → Alone s sid u → u.task = some x → x.ord = some o → u.finished = false → u.blk = blk → u.wave = wv →
      o.ts.toNat * 2 ^ 32 + x.serial.toNat = s.front u.fn o.dom → (∃ q, waits (.tdefer q p.enc.dst.toNat)) →
      ∃ t, exec .promotion s = .next t ∧ s.committed t sid ∧ t.units = [] ∧
        (if p.enc.len = .l96 then on t p.enc.dst.toNat true else on t 31 true) ∧
        (t.wave blk wv).spec = { w.spec with sid := none, promoted := true } ∧
        ((t.fn u.fn).domains.get {} o.dom).floor = some (o.ts.toNat * 2 ^ 32 + x.serial.toNat)) ∧
    (s.args = [sid] → Alone s sid u → u.task = none → u.atRend = true → u.exits = false → u.blk = blk → u.wave = wv → w.acc = [] → waits .rend →
      ∃ t, exec .regionCommit s = .next t ∧ s.committed t sid ∧ t.units = [] ∧ on t 31 true ∧
        (t.wave blk wv).spec = { w.spec with sid := none, nest := 0 }) ∧
    (∀ on_, s.args = [blk, wv, n] → Alone s sid u → u.task = none → w.spec.sid = some sid → u.blk = blk → u.wave = wv → waits (.edge on_) →
      p.since + 65536 ≤ s.clock →
      ∃ t, exec .edgeStallTimeout s = .next t ∧ t.mem = s.mem ∧ t.units = [] ∧ t.versions = s.versions.filter (fun v => v.sid != sid) ∧
        (t.wave blk wv).spec = { w.spec with sid := none, nest := 0, abr := 4, aborts := if w.spec.aborts < 65535 then w.spec.aborts + 1 else w.spec.aborts } ∧
        ∀ l, u.fibres.getLsbD l = true → ((t.wave blk wv).lane l).cond = .runnable ∧ ((t.wave blk wv).lane l).pc = u.retryPc) ∧
    (∀ lim, s.args = [blk, wv, n] → waits (.tdefer (some lim) p.enc.dst.toNat) → lim ≤ s.clock → p.enc.len = .l96 →
      ∃ t, exec .tdeferTimeout s = .next t ∧ t.mem = s.mem ∧ on t p.enc.dst.toNat false ∧ t.units = s.units)

/-- R58, R251, R357, R362, R363: where a fetch meets steps 1 to 4 the agent's wave stops on a record of that cause; where it meets steps 5 and
6 the wave enters its handler and a stream stops for its proxy, whose handler then runs on the lowest wave that has not exited; a
handler that overran its count does not issue: its wave stops on a WATCHDOG record. -/
def Obligations.FetchRows : Prop :=
  ∀ (s q : State) (blk wv lane : Nat) (c : Ctx) (raw : Raw),
    let a : Agent := .wave blk wv lane
    let r := { s with cur := some a }
    let w := q.ctxWave c
    let handler := (q.fn (q.ctxFn c)).embase &&& 0x007FFFFFFFFFFFFC
    (s.cur = none → s.args = [blk, wv, lane] → s.issues a = true → c.blk = blk → c.wave = wv →
      (∀ f, r.fetch a = (.fault f raw, q) → q.ctx {} = some c → w.spec.sid = none →
        ∃ t x, exec .fetchFault s = .next t ∧ StoppedOn q t c x ∧ x.cause = f.cause ∧ x.fva = f.fva ∧ x.resume = .fetch ∧ x.iw0 = raw.w0 ∧
          x.iw1 = raw.w1 ∧ x.iw2 = raw.w2 ∧ x.kind = 0) ∧
      (∀ opc e off, r.fetch a = (.emulate opc e raw off, q) → q.ctx e = some c → w.emdepth < 2 → (w.emdepth ≠ 0 → w.wdCount < 65536) →
        w.emWindow ≠ 0 → (∀ x ∈ w.acc, x.dst.regs = none) →
        ∃ t f, exec .emulationEntry s = .next t ∧ t.mem = q.mem ∧ (t.ctxWave c).emdepth = w.emdepth + 1 ∧ (t.ctxWave c).frames = f :: w.frames ∧
          (t.ctxWave c).batches = [⟨c.members⟩] ∧ f.nextPc = c.nextPc ∧ f.members = c.members ∧ f.sregs = w.s ∧
          ((t.ctxWave c).ow.get 0 0).extractLsb' 0 8 = opc ∧
          ∀ l, l < 32 → c.members.getLsbD l = true → ((t.ctxWave c).lane l).pc = handler) ∧
      (∀ x, r.fetch a = (x, q) → r.ctx {} = some c → w.emdepth ≠ 0 → 65536 ≤ w.wdCount → w.spec.sid = none →
        ∃ t y, exec .watchdog s = .next t ∧ (t.ctxWave c).stopped = some y ∧ y.cause = .watchdog ∧ y.pc = c.pc ∧ y.ans = true ∧
          (t.ctxWave c).wdCount = 0 ∧ (t.block blk).saving = true ∧ t.mem = q.mem)) ∧
    (∀ m opc e off, ({ s with cur := some (.stream blk) } : State).fetch (.stream blk) = (.emulate opc e raw off, q) →
      s.cur = none → s.args = [blk] → s.issues (.stream blk) = true → (q.block blk).stream = some m →
      ∃ t y, exec .emulationEntry s = .next t ∧ t.mem = q.mem ∧ (t.block blk).stream = some { m with emul := some y } ∧
        y.opc = opc ∧ y.enc = e ∧ y.raw = raw ∧ y.disabled = off ∧ y.running = none ∧ y.nextPc = seqPc m.pc e.len) ∧
    (∀ m x v, let k := s.block blk
      s.args = [blk] → k.stream = some m → m.emul = some x → x.running = none → m.stopped = none → k.core.isSome = true → k.saving = false →
      k.waves.find? (fun p => !p.2.ended) = some (wv, v) → v = s.wave blk wv → v.emdepth = 0 → v.stopped = none → v.evicted = false → v.emWindow ≠ 0 →
      ∃ t f, exec .proxyEmulationEntry s = .next t ∧ t.mem = s.mem ∧ (t.wave blk wv).emdepth = 1 ∧ (t.wave blk wv).frames = f :: v.frames ∧
        f.stream = true ∧ f.sregs = v.s ∧ f.batches = v.batches ∧
        (∀ l, l < 32 → (v.lane l).cond ≠ .idle → ((t.wave blk wv).lane l).cond = .runnable ∧
          ((t.wave blk wv).lane l).pc = (s.fn k.fn).embase &&& 0x007FFFFFFFFFFFFC) ∧
        (t.block blk).stream = some { m with emul := some { x with running := some wv } })

/-- R350, R352 to R355, R384, R408, R422, R423, R425: a trap record is written at the ring's PROD, or dropped and counted where a record of no
wave finds no room; RETRY, SKIP and ABANDON
answer a waiting record; the ring's control word and CONS take writes as their fields say; an event is written at its ring's PROD or
counted as lost, and sets its class; a block whose waves stand is saved. -/
def Obligations.TrapAndEventRows : Prop :=
  ∀ (s : State) (fn i : Nat) (r : TrapRec),
    let f := s.fn fn
    let v : Word := BitVec.ofNat 32 i
    let room (ctl prod cons : Word) : Prop := ctl.getLsbD 0 = true ∧ (prod - cons).toNat < ringSize ctl
    let drop (ctl : Word) : Word := (ctl &&& 0xFFFF) ||| 0x40 ||| BitVec.ofNat 32 (min 65535 (ctl.toNat / 2 ^ 16 + 1) * 2 ^ 16)
    let bit (b : Bool) (n : Nat) : Nat := if b then 2 ^ n else 0
    let pages (base : DWord) (ctl : Word) (s : State) : Prop :=
      s.s2PagesOk fn (base.toNat % 2 ^ 56 / 4096 * 4096) (64 * ringSize ctl) .write = true
    let at_ (base : DWord) (prod ctl : Word) : Nat := base.toNat % 2 ^ 56 / 4096 * 4096 + 64 * (prod.toNat % ringSize ctl)
    (s.args = [fn, i] → f.recs[i]? = some r →
      (f.trctl.getLsbD 0 = true → pages f.trbase f.trctl s) →
      (∀ h, room f.trctl f.trprod f.trcons → r.syn = none → s.s2Access fn (at_ f.trbase f.trprod f.trctl) .write = some (h, s) → s.plainMemory →
        r.kind < 8 → r.depth < 8 → r.lane < 32 →
        ∃ t, exec .trapRecordProduce s = .next t ∧
          (t.natAt h 4 = r.cause.code + bit r.ans 8 + bit r.def_ 9 + r.kind * 2 ^ 10 + r.depth * 2 ^ 13 + r.lane * 2 ^ 16 ∧
            t.wordAt (h + 4) = f.trprod ∧ t.dwordAt (h + 8) = r.pc &&& 0x007FFFFFFFFFFFFF ∧ t.dwordAt (h + 16) = r.fva ∧ t.dwordAt (h + 24) = r.iw0 ∧
            t.wordAt (h + 32) = r.iw1 ∧ t.wordAt (h + 36) = r.iw2 ∧ t.wordAt (h + 40) = BitVec.ofNat 32 r.blk ∧ t.natAt (h + 44) 1 = r.wave % 32 ∧
            t.natAt (h + 45) 3 = r.obj.toNat ∧ t.dwordAt (h + 48) = r.aux ∧ t.wordAt (h + 56) = r.fmask ∧ t.wordAt (h + 60) = r.aux2) ∧
          (∀ y, y < h ∨ h + 64 ≤ y → t.byteAt y = s.byteAt y) ∧ (t.fn fn).trprod = f.trprod + 1 ∧
          (t.fn fn).recs = f.recs.filter (fun x => x.id != r.id) ∧
          (t.fn fn).waiting = f.waiting ++ (if r.ans then [{ seq := f.trprod, addr := h, record := r, stage2 := false }] else [])) ∧
      (¬room f.trctl f.trprod f.trcons → exec .trapRecordProduce s = .next (if r.byWave || r.ans then s
        else s.setFn fn { f with recs := f.recs.filter (fun x => x.id != r.id), trctl := drop f.trctl }))) ∧
    (∀ p ∈ [(Instr.transRetry, 0, false), (.transSkip, 1, false), (.transAbandon, 2, false),
        (.s2ansRetry, 0, true), (.s2ansSkip, 1, true), (.s2ansAbandon, 2, true)], ∀ x : WaitingRec, ∀ w0 : Wave,
      let k := s.block r.blkId
      s.args = [fn, i] → f.resetting = false → f.waiting = [x] → x.seq.toNat = i → x.stage2 = p.2.2 → x.record = r → r.kind = 0 → r.resume = .reissue →
      r.cause ≠ .watchdog → k.core = none → k.saving = false → k.toHead = false → k.fn = fn → k.holds = [r.id] → s.restores = [] →
      s.blocks.get? r.blkId = some k → s.blocks.sorted = true → k.waves = [(r.wave, w0)] → w0.ended = false → w0.stopped = some r → w0.acc = [] → w0.late = [] →
      w0.spec.sid = none → k.copies = [] → k.stackCmds = [] → k.stream = none → k.task = none → (s.fn fn).token = none →
      ∃ t, exec p.1 s = .next t ∧ t.mem = s.mem ∧ (t.fn fn).waiting = [] ∧
        (p.2.1 ≠ 2 → t.restores = [r.blkId] ∧ (t.block r.blkId).holds = [] ∧ (t.wave r.blkId r.wave).stopped = none ∧
          (t.wave r.blkId r.wave).v = w0.v ∧ (t.wave r.blkId r.wave).s = w0.s ∧ ∀ l, ((t.wave r.blkId r.wave).lane l).pc =
            if p.2.1 = 1 ∧ r.members.getLsbD l = true ∧ (w0.lane l).pc = r.pc ∧ (w0.lane l).cond = .runnable then r.nextPc else (w0.lane l).pc) ∧
        (p.2.1 = 2 → t.blocks.get? r.blkId = none)) ∧
    (s.args = [fn, i] → f.resetting = false → v &&& 0xFF00 = 0 →
      (let ok := s.s2PagesOk fn (f.trbase.toNat % 2 ^ 56 / 4096 * 4096) (64 * ringSize ((v ||| 1) &&& 0x3F)) .write
       v.getLsbD 6 = false → ok = true →
        exec .trctlEnable s = .next (s.setFn fn { f with trctl := (f.trctl &&& 0xFFFF0040) ||| (v &&& 0x3F) ||| 1 })) ∧
      (let ok := s.s2PagesOk fn (f.evbase.toNat % 2 ^ 56 / 4096 * 4096) (64 * ringSize ((v ||| 1) &&& 0x3F)) .write
       v.getLsbD 6 = false → ok = true →
        exec .evctlEnable s = .next (s.setFn fn { f with evctl := (f.evctl &&& 0xFFFF0040) ||| (v &&& 0x3F) ||| 1 })) ∧
      (v.getLsbD 0 = false → exec .trctlLostClear s = .next (s.setFn fn { f with trctl := (f.trctl &&& 0x80) ||| (v &&& 0x3F) }) ∧
        exec .evctlLostClear s = .next (s.setFn fn { f with evctl := (f.evctl &&& 0x80) ||| (v &&& 0x3F) }))) ∧
    (s.args = [fn, i] → f.resetting = false →
      ((v - f.trcons).toNat ≤ (f.trprod - f.trcons).toNat → exec .trconsWrite s = .next (s.setFn fn { f with trcons := v })) ∧
      ((f.trprod - f.trcons).toNat < (v - f.trcons).toNat → ∃ x, exec .trconsWrite s = .next { s with events := s.events ++ [x] } ∧
        x.code = 3 ∧ x.func = fn ∧ x.obj = 0x1000 ∧ x.info = v.setWidth 64) ∧
      ((v - f.evcons).toNat ≤ (f.evprod - f.evcons).toNat → exec .evconsWrite s = .next (s.setFn fn { f with evcons := v })) ∧
      ((f.evprod - f.evcons).toNat < (v - f.evcons).toNat → ∃ x, exec .evconsWrite s = .next { s with events := s.events ++ [x] } ∧
        x.code = 3 ∧ x.func = fn ∧ x.obj = 0x2000 ∧ x.info = v.setWidth 64) ∧
      (i < 128 → exec .vestatClear s = .next (s.setFn fn { f with
        vestat := f.vestat &&& ~~~(BitVec.ofNat 64 i)
        vefep := if f.vefep.getLsbD 3 = true ∧ i.testBit (f.vefep.toNat % 8) = true then f.vefep &&& ~~~(8 : DWord) else f.vefep }))) ∧
    (∀ (e : Event) (rest : List Event), let s1 := { s with events := rest }
      s.events = e :: rest → e.rings = [fn] → e.code < 256 → e.func < 64 → e.obj < 65536 →
      (∀ h, room f.evctl f.evprod f.evcons → pages f.evbase f.evctl s1 → s1.s2Access fn (at_ f.evbase f.evprod f.evctl) .write = some (h, s1) → s1.plainMemory →
        ∃ t, exec .eventRecord s = .next t ∧ t.events = rest ∧ (t.fn fn).evprod = f.evprod + 1 ∧
          (t.natAt h 1 = e.code ∧ t.natAt (h + 1) 1 = ((s.fn e.func).severity e.cls) + e.func * 4 ∧ t.natAt (h + 2) 2 = e.obj ∧ t.wordAt (h + 4) = f.evprod ∧
            t.dwordAt (h + 16) = e.addr ∧ t.dwordAt (h + 24) = e.info) ∧
          (∀ y, y < h ∨ h + 64 ≤ y → t.byteAt y = s.byteAt y) ∧
          ∀ k, e.cls = some k → (s.fn e.func).vemask.getLsbD k = false → (t.fn e.func).vestat = (s.fn e.func).vestat ||| (1#64 <<< k)) ∧
      (¬room f.evctl f.evprod f.evcons → ∃ t, exec .eventRecord s = .next t ∧ t.events = rest ∧ t.mem = s.mem ∧ (t.fn fn).evprod = f.evprod ∧
        (t.fn fn).evctl = drop f.evctl)) ∧
    (let k := s.block i
     s.args = [i] → s.blocks.get? i = some k → k.saving = true → k.core.isSome = true → k.stackCmds = [] → k.copies = [] → k.saveBy = none → k.answers = [] →
      (∀ b, (k.bar b).pend = []) → k.holds ≠ [] → s.memOk →
      (∀ p ∈ k.waves, p.2.acc = [] ∧ p.2.late = [] ∧ (∀ x ∈ p.2.waits, x.2.why.poisoned = 0) ∧ p.2.spec.sid = none ∧ (p.2.stopped.isSome = true ∨ p.2.ended = true ∨ p.2.emdepth = 0)) →
      ∃ t, exec .blockSaveComplete s = .next t ∧ t.mem = s.mem ∧ t.restores = s.restores ∧ (t.block i).core = none ∧ (t.block i).saving = false ∧
        (t.block i).holds = k.holds ∧ (t.block i).waves = k.waves.map (fun p => (p.1, { p.2 with resv := none, rresv := none, watch := [] })) ∧
        ∀ o, memGet (t.block i).image o = if o < k.scratch then s.byteAt (s.localHost i 0 + o) else emptyByte)

/-- R372, R387 to R392: LAUNCH gives its record a ticket; SCHSEL chooses the smallest variant that holds the size and keeps its choice for the
phase; PHASE starts the next phase; GANGWAIT answers with its predicate, or waits. -/
def Obligations.DispatcherInstructions : Prop :=
  ∀ (s : State) (e : Enc) (c : Ctx),
    let w := s.ctxWave c
    let k := s.block c.blk
    let fn := s.ctxFn c
    let flag (t : State) (b : Bool) : Prop := ∀ l, c.acting.getLsbD l = true → ((t.ctxWave c).lane l).pred = ((w.lane l).setQ e.dst.toNat b).pred
    w.spec.sid = none → w.acc = [] →
    (∀ (q : Word) (a : DWord) (bs : List Byte), let x := (s.fn fn).queues.get {} q.toNat
      let ticket : Word := BitVec.ofNat 32 (q.toNat * 2 ^ 28 + x.count % 2 ^ 28)
      Ready s (.launch e) e c → w.sCode e.src1 = ⟨q, false⟩ → w.sPair e.src0 = (a, false) → q.toNat ≤ 15 → x.ctl.getLsbD 0 = true →
      a.toNat % 256 = 0 → s.readsAs c a 256 bs →
      ∃ t, exec (.launch e) s = .next t ∧ t.mem = s.mem ∧ TookWords s t c (e.dst.toNat - 192) [ticket] ∧
        t.launches = s.launches ++ [{ fn := fn, ticket := ticket, record := natOfBytes bs }] ∧
        (t.fn fn).queues.get {} q.toNat = { x with count := x.count + 1 } ∧ (t.block c.blk).clean = false) ∧
    (∀ (a : DWord) (bs : List Byte), let l := (s.launchOf k).getD {}
      let size := natOfBytes bs
      let most (i : Nat) : Nat := l.record / 2 ^ (1280 + 64 * i) % 2 ^ 32
      let target (i : Nat) : DWord := BitVec.ofNat 64 (l.record / 2 ^ 256) + 4 * (BitVec.ofNat 32 (l.record / 2 ^ (1312 + 64 * i))).signExtend 64
      let n := l.record / 2 ^ 8 % 16
      Ready s (.schsel e) e c →
      (∀ z v, k.choice = some (z, v) → ∃ t, exec (.schsel e) s = .next t ∧ t.mem = s.mem ∧ (t.block c.blk).choice = k.choice ∧
        TookWords s t c (e.dst.toNat - 192) (match v with
          | some i => [(target i).setWidth 32, (target i >>> 32).setWidth 32, BitVec.ofNat 32 i, z]
          | none => [c.nextPc.setWidth 32, (c.nextPc >>> 32).setWidth 32, 0xFFFFFFFF, z])) ∧
      (k.choice = none → w.sPair e.src0 = (a, false) → a.toNat % 4 = 0 → s.readsAs c a 4 bs → size < 2 ^ 32 → ∃ t v, exec (.schsel e) s = .next t ∧
        t.mem = s.mem ∧ (t.block c.blk).choice = some (BitVec.ofNat 32 size, v) ∧
        (v = none ↔ ∀ i, i < n → most i < size) ∧
        (∀ i, v = some i → i < n ∧ size ≤ most i ∧ ∀ j, j < n → size ≤ most j → most i < most j ∨ most i = most j ∧ i ≤ j) ∧
        TookWords s t c (e.dst.toNat - 192) (match v with
          | some i => [(target i).setWidth 32, (target i >>> 32).setWidth 32, BitVec.ofNat 32 i, BitVec.ofNat 32 size]
          | none => [c.nextPc.setWidth 32, (c.nextPc >>> 32).setWidth 32, 0xFFFFFFFF, BitVec.ofNat 32 size]))) ∧
    (∀ m : Option Nat, Ready s (.phase e) e c →
      (if e.len = .l64 then (if e.mod.getLsbD 0 then ∃ x : Word, w.sCode e.src0 = ⟨x, false⟩ ∧ m = some x.toNat else m = none)
        else m = some e.imm16.toNat) →
      ∃ t, exec (.phase e) s = .next t ∧ KeptRegisters s t c ∧ (t.block c.blk).phase = k.phase + 1 ∧ (t.block c.blk).choice = none ∧
        (t.block c.blk).estimate = match m with | some x => some (x, s.clock) | none => k.estimate) ∧
    (∀ x n : Word, Ready s (.gangwait e) e c → w.sCode e.src0 = ⟨x, false⟩ → (e.mod.getLsbD 0 = true → w.sCode e.src1 = ⟨n, false⟩) →
      (s.ticketDone fn x = some true → ∃ t, exec (.gangwait e) s = .next t ∧ t.mem = s.mem ∧ TookWords s t c 0 [] ∧ flag t true) ∧
      (s.ticketDone fn x = some false → e.mod.getLsbD 0 = false ∨ n.toNat % 65536 = 0 →
        ∃ t, exec (.gangwait e) s = .next t ∧ t.mem = s.mem ∧ TookWords s t c 0 [] ∧ flag t false) ∧
      (s.ticketDone fn x = some false → e.mod.getLsbD 0 = true → n.toNat % 65536 ≠ 0 →
        ∃ t, exec (.gangwait e) s = .next t ∧ t.mem = s.mem ∧ Waiting s t c c.members (.gang x.toNat (s.clock + n.toNat % 65536 * 1024))))

/-- R370 to R386, R391, R417: a notify moves WR, or marks a bad index; a record at RD takes the next ticket and is accepted or refused; a core takes the next
block of its function's first launch, or a saved one, or an evicted wave back; a launch without blocks left completes with its status; waves park and are evicted; a
slice ends by letting, or saving, its blocks; a reclaimed cluster without guests returns, its scratch zero. -/
def Obligations.DispatcherSteps : Prop :=
  ∀ (s : State) (fn q : Nat),
    let f := s.fn fn
    let x := f.queues.get {} q
    let n := ringSize x.ctl
    let slots := x.base.toNat % 2 ^ 56 / 256 * 256
    let put (y : Queue) : State := s.setFn fn { f with queues := f.queues.set q y }
    (∀ off idx, q < 16 → idx < 2 ^ 32 → s.args = [fn, q, off, idx] → f.resetting = false → s.s2PagesOk fn slots (256 * n) .read = true →
      (off = 0 → idx < n → exec .queueNotify s = .next (put { x with wr := idx, bad := false })) ∧
      (off = 0 → n ≤ idx → ∃ t y, exec .queueNotify s = .next t ∧ t.events = s.events ++ [y] ∧ y.code = 2 ∧ y.func = fn ∧ y.obj = q ∧
        y.info = BitVec.ofNat 64 idx ∧ (t.fn fn).queues.get {} q = { x with bad := true })) ∧
    (∀ h, let rec_ := s.natAt h 256
      let ticket : Word := BitVec.ofNat 32 (q * 2 ^ 28 + x.count % 2 ^ 28)
      let l : Launch := { fn := fn, ticket := ticket, record := rec_ }
      q < 16 → s.args = [fn, q] → f.resetting = false → (∀ l ∈ s.launches, l.checked = true) → x.ctl.getLsbD 0 = true → x.bad = false → x.rd ≠ x.wr →
      s.s2PagesOk fn slots (256 * n) .read = true → s.faulty = [] → s.s2Access fn (slots + 256 * x.rd) .read = some (h, s) → s.poisonAt h 256 = false → rec_ / 2 ^ 1792 % 2 ^ 64 = 0 → rec_ / 2 ^ 384 % 2 ^ 64 = 0 →
      (∀ y ∈ s.launches, y.is fn ticket = false) →
      ∃ t, exec .launchRecordAccept s = .next t ∧ t.mem = s.mem ∧
        (t.fn fn).queues.get {} q = { x with count := x.count + 1, rd := (x.rd + 1) % n } ∧
        (l.fieldsOk = true → l.rolesOk = true → s.fitsEmpty l = true → (∀ i, i < 4 → rec_ / 2 ^ (640 + 32 * i) % 2 ^ 32 = 0xFFFFFFFF) →
          t.launches = s.launches ++ [{ l with checked := true }] ∧ t.events = s.events) ∧
        (l.fieldsOk = false ∨ l.rolesOk = false ∨ s.fitsEmpty l = false → t.launches = s.launches ∧
          ∃ y, t.events = s.events ++ [y] ∧ y.code = 4 ∧ y.func = fn ∧ y.info = ticket.setWidth 64)) ∧
    (∀ core, s.args = [core] → let g := s.clusterHolder (core / 8)
      (∀ b w, (s.backWaves core).find? (fun p => (s.room core (s.wave p.1 p.2).backNeed).isSome) = some (b, w) →
        ∃ t, exec .blockPlacement s = .next t ∧ t.mem = s.mem ∧ (t.wave b w).evicted = false ∧ (t.wave b w).v = (s.wave b w).v ∧
          (t.wave b w).s = (s.wave b w).s ∧
          ((∀ x ∈ (s.wave b w).waits, x.2.watches = false) → t = s.setWave b w { s.wave b w with evicted := false, watch := [] })) ∧
      (s.backWaves core = [] → (s.core core).taskNext = false → s.ready g = true →
        (∀ b o, s.restorePlace g = some (b, core, o) → s.memOk → (∀ p ∈ (s.block b).image, p.1 < (s.block b).scratch) → (Memory.wf (s.block b).image = true) →
          ∃ t, exec .blockPlacement s = .next t ∧ (t.block b).core = some core ∧ (t.block b).scrBase = o ∧ b ∉ t.restores ∧ (t.core core).taskNext = true ∧
            (t.block b).nbar = (s.block b).nbar ∧ (t.block b).bars = (s.block b).bars ∧
            ∀ y, t.byteAt y = if sliceAddr core o ≤ y ∧ y < sliceAddr core o + (s.block b).scratch then memGet (s.block b).image (y - sliceAddr core o)
              else s.byteAt y) ∧
        (∀ l i o, s.restorePlace g = none → (s.launchOrder g).head? = some l → s.launchPlace l = some (i, core, o) →
          ∃ t, exec .blockPlacement s = .next t ∧ t.mem = s.mem ∧ (t.core core).taskNext = true ∧ (∀ b, b ≠ s.serial → t.block b = s.block b) ∧
            let k := t.block s.serial
            k.fn = l.fn ∧ k.ticket = l.ticket ∧ k.core = some core ∧ k.scrBase = o ∧ (k.x, k.y, k.z) = (i % l.gx, i / l.gx % l.gy, i / (l.gx * l.gy)) ∧
            k.nbar = l.record / 2 ^ 208 % 2 ^ 8 ∧ k.nring = l.record / 2 ^ 216 % 2 ^ 8 ∧ k.scratch = 256 * (l.record / 2 ^ 192 % 2 ^ 16) ∧
            k.waves.length = l.gang.length ∧ ∀ j (y : GangWave), l.gang[j]? = some y → let w := t.wave s.serial j
              w.idx = j ∧ w.window = y.window ∧ (∀ p, p < y.fibres → p < 32 → (w.lane p).cond = .runnable ∧ (w.lane p).pc = y.entry))) ) ∧
    (∀ l h z, s.args = [fn, l.ticket.toNat] → s.launches.find? (fun y => y.is fn l.ticket) = some l → l.fn = fn → l.checked = true → l.nextIdx = none →
      (∀ p ∈ s.blocks, p.2.fn = fn → p.2.ticket ≠ l.ticket) → s.plainMemory → let va := l.record / 2 ^ 384 % 2 ^ 64
      va ≠ 0 → va % 4 = 0 → (∀ y : State, ∃ u, translate { s with launches := y.launches } (s.fnReq fn) va .write = (.ok z, u) ∧ State.walked { s with launches := y.launches } u) →
      z.place = .hbm h →
      ∃ t, exec .launchComplete s = .next t ∧ s.wrote t h (bytesOfNat 4 (if l.abandoned then 3 else 1)) ∧
        t.launches = s.launches.filter (fun y => !y.is fn l.ticket)) ∧
    (∀ blk wv core, let w := s.wave blk wv
      s.args = [blk, wv] → (s.block blk).core = some core →
      (s.evictable core = some (blk, wv) → (∃ y ∈ s.waitingNeeds core, s.onlyRegs core y = true) → w.spec.sid = none → w.acc = [] →
        w.late = [] → (∀ y ∈ w.waits, y.2.why.poisoned = 0) → (s.blocks.get? blk).isSome = true → ((s.block blk).waves.get? wv).isSome = true → w.ended = false → w.stopped = none →
        exec .waveEvict s = .next (s.setWave blk wv { w with evicted := true, resv := none, rresv := none, watch := [] })) ∧
      (∀ r, w.elastic = some r → w.emdepth = 0 → (∀ p ∈ ((s.block blk).ring r).slots, p.2.st ≠ 2) → w.ended = false → w.batches ≠ [] →
        exec .elasticPark s = .next (s.setWave blk wv { w with parked := true }))) ∧
    (∀ k d, k < 32 → s.args = [k, d] →
      ((∀ p ∈ s.onCluster k, s.remCycles p.2 ≤ d * 800) → exec .sliceEnd s = .next { s with draining := s.draining.set k (s.clock + d * 800) }) ∧
      ((∃ p ∈ s.onCluster k, d * 800 < s.remCycles p.2) → (∃ p ∈ s.onCluster k, p.2.clean = false) →
        ∃ t, exec .sliceEnd s = .next t ∧ t.mem = s.mem ∧ t.draining = s.draining.set k (s.clock + d * 800) ∧
          ∀ p ∈ s.onCluster k, (t.block p.1).saving = true ∧ (t.block p.1).saveBy = some (s.clock + d * 800) ∧ (t.block p.1).waves = (s.block p.1).waves)) ∧
    (∀ k d, s.args = [k] → s.draining.get? k = some d → d ≤ s.clock → s.blocks.sorted = true →
      ∃ t, exec .drainDeadline s = .next t ∧ t.mem = s.mem ∧ t.draining = s.draining.erase k ∧ ∀ p ∈ s.onCluster k, (t.block p.1).saving = true) ∧
    (∀ k, s.args = [k] → s.clusterRecl k = true → (∀ p ∈ s.onCluster k, p.2.fn = s.clusterOwner k) → s.memOk →
      ∃ t y, exec .clusterReturn s = .next t ∧ (t.clown.get 0 k).getLsbD 12 = false ∧ t.draining = s.draining.erase k ∧ t.events = s.events ++ [y] ∧
        y.code = 7 ∧ y.func = s.clusterOwner k ∧
        ∀ z, t.byteAt z = if sliceAddr (8 * k) 0 ≤ z ∧ z < sliceAddr (8 * k + 8) 0 then 0 else s.byteAt z) ∧
    (∀ blk wv m p ticket lim, let w := s.wave blk wv
      s.args = [blk, wv, m] → w.waits = [(m, p)] → p.why = .gang ticket lim → lim ≤ s.clock → s.ticketDone (s.block blk).fn (BitVec.ofNat 32 ticket) = some false →
      p.lanes ≠ 0 → (∀ l, p.lanes.getLsbD l = true ↔ (w.lane l).cond = .blocked m) → p.acting &&& ~~~p.lanes = 0 →
      ∃ t, exec .gangwaitTimeout s = .next t ∧ t.mem = s.mem ∧ (t.wave blk wv).waits = [] ∧ (t.wave blk wv).v = w.v ∧
        ∀ l, p.lanes.getLsbD l = true → ((t.wave blk wv).lane l).cond = .runnable ∧ ((t.wave blk wv).lane l).pc = p.nextPc ∧
          ((t.wave blk wv).lane l).pred = (if p.acting.getLsbD l then (w.lane l).setQ p.enc.dst.toNat false else w.lane l).pred)

/-- R3, R399 to R404, R414 to R420, R427: a walk changes entries and the TLBs as the walk of both stages does; invalidations and root writes are counted in
REQ and, in order, in DONE when the entries of the cores' and the clusters' TLBs that they cover are gone; FRESET.GO ends a function's work and its end gives its registers
their reset values; CLOWN, SPART and the calendars take what a quiescent owner allows. -/
def Obligations.TranslationAndPartition : Prop :=
  ∀ (s : State) (fn i : Nat),
    let f := s.fn fn
    let v : DWord := BitVec.ofNat 64 i
    let req (x : Word) : Word := (x &&& 0xFFFF0000) ||| BitVec.ofNat 32 ((x.toNat + 1) % 65536)
    let done (x : Word) : Word := (x &&& 0x0000FFFF) ||| BitVec.ofNat 32 ((x.toNat / 65536 + 1) % 65536 * 65536)
    let near (level a b : Nat) : Bool := if level = 1 then a / 8192 == b / 8192 else a == b
    let kept (page : Option Nat) (x : TlbEntry) : Bool := !(x.fn == fn && (match page with
      | none => true
      | some y => if i = 1 then near x.level1 x.vpage y else x.leaf2 != 0 && near x.level2 x.gpage y))
    let keptLeaf (page : Option Nat) (x : TlbLeaf) : Bool := !(x.fn == fn && i == 2 && (match page with
      | none => true
      | some y => near x.level y x.gpage))
    let clown (o h : Nat) (recl : Bool) (dl : Nat) : DWord := BitVec.ofNat 64 (o + h * 64 + recl.toNat * 4096 + dl * 65536)
    (∀ blk va, s.args = [blk, va, 0] → (s.block blk).core.isSome = true →
      (2 ^ 55 ≤ va → exec .pageWalk s = .next s) ∧
      (va < 2 ^ 55 → exec .pageWalk s = .next (walkBoth s (s.xreq blk) va .read).2)) ∧
    (s.args = [fn] → f.resetting = false →
      exec .tlbinvAll s = .next (s.setFn fn { f with inval := f.inval ++ [(1, none)], tlbstat := req f.tlbstat }) ∧
      exec .s2invAll s = .next (s.setFn fn { f with inval := f.inval ++ [(2, none)], s2stat := req f.s2stat })) ∧
    (s.args = [fn, i] → f.resetting = false → i < 2 ^ 64 →
      (v &&& 0xFF8000000000FFFE = 0 →
        exec .tlbinvPage s = .next (s.setFn fn { f with inval := f.inval ++ [(1, some (i / 65536))], tlbstat := req f.tlbstat }) ∧
        exec .s2invPage s = .next (s.setFn fn { f with inval := f.inval ++ [(2, some (i / 65536))], s2stat := req f.s2stat }) ∧
        exec .s1rootWrite s = .next (s.setFn fn { f with s1root := v, inval := f.inval ++ [(1, none)], tlbstat := req f.tlbstat })) ∧
      (v &&& 0xFFF000000000FFFE = 0 →
        exec .s2rootWrite s = .next (s.setFn fn { f with s2root := v, inval := f.inval ++ [(2, none)], s2stat := req f.s2stat })) ∧
      (v &&& 0xFF00000000000FFE = 0 → s.s2PagesOk fn (i / 4096 * 4096) (32 * ringSize f.trctl) .write = true →
        exec .tfbaseEnable s = .next (s.setFn fn { f with tfbase := v ||| 1 }))) ∧
    (∀ rest page, s.args = [fn, i] → i = 1 ∨ i = 2 → f.inval = (i, page) :: rest → (∀ p ∈ s.blocks, ∀ w ∈ p.2.waves, w.2.acc = [] ∧ w.2.waits = [] ∧ w.2.late = []) →
      (∀ x ∈ s.versions, (s.unit x.sid).fn ≠ fn) →
      ∃ t, exec .invalidationComplete s = .next t ∧ t.mem = s.mem ∧ (t.fn fn).inval = rest ∧
        (t.fn fn).tlbstat = (if i = 1 then done f.tlbstat else f.tlbstat) ∧ (t.fn fn).s2stat = (if i = 1 then f.s2stat else done f.s2stat) ∧
        t.cores = s.cores.map (fun p => (p.1, { p.2 with tlb := p.2.tlb.filter (kept page) })) ∧
        t.clusters = s.clusters.map (fun p => (p.1, { tlb := p.2.tlb.filter (kept page), leaves := p.2.leaves.filter (keptLeaf page) }))) ∧
    (s.args = [fn] → fn < 64 →
      (f.resetting = true → exec .fresetGo s = .next s) ∧
      (f.resetting = false → s.sessions = [] → s.mgmt.ev ≠ .migrate → f.colls = [] → s.blocks.sorted = true →
        (∀ p ∈ s.blocks, p.2.fn = fn → p.2.copies = [] ∧ p.2.stackCmds = [] ∧ ∀ w ∈ p.2.waves, w.2.acc = []) →
        (∀ k, k < 32 → (s.clusterOwner k = fn ↔ s.clusterHolder k = fn) ∧ s.clusterRecl k = false) →
        ∃ t, exec .fresetGo s = .next t ∧ t.mem = s.mem ∧ (t.fn fn).resetting = true ∧ t.blocks = s.blocks.filter (fun p => p.2.fn != fn) ∧
          t.tasks = s.tasks.filter (fun x => x.fn != fn) ∧ t.launches = s.launches.filter (fun x => x.fn != fn) ∧
          t.conts = s.conts.filter (fun x => x.task.fn != fn) ∧ (t.fn fn).recs = [] ∧ (t.fn fn).waiting = [] ∧ (t.fn fn).domains = [] ∧
          ∀ g, g ≠ fn → t.fn g = s.fn g) ∧
      (f.resetting = true → ∃ t y, exec .functionResetComplete s = .next t ∧ t.mem = s.mem ∧ (t.fn fn).resetting = false ∧ (t.fn fn).s1root = 0 ∧
        (t.fn fn).queues = [] ∧ (t.fn fn).trctl = ({} : Fn).trctl ∧ (t.fn fn).evctl = f.evctl ∧ (t.fn fn).s2root = f.s2root ∧ (t.fn fn).fcfg = f.fcfg ∧
        (t.fn fn).readyAt = s.clock ∧ t.events = s.events ++ [y] ∧ y.code = 12 ∧ y.func = fn ∧
        (∀ p ∈ t.cores, (∀ x ∈ p.2.tlb, x.fn ≠ fn) ∧ ∀ x ∈ p.2.spawnCount, x.1 ≠ fn) ∧
        (∀ p ∈ t.clusters, (∀ x ∈ p.2.tlb, x.fn ≠ fn) ∧ ∀ x ∈ p.2.leaves, x.fn ≠ fn) ∧ ∀ g, g ≠ fn → t.fn g = s.fn g)) ∧
    (s.sessions = [] → s.mgmt.ev ≠ .migrate → ∃ t, exec .pfReset s = .next t ∧ ∀ g, g < 64 → (t.fn g).resetting = true) ∧
    (∀ k o h dl, let u := s.clusterOwner k
      let x := clown o h false dl
      k < 32 → o < 64 → h < 64 → dl < 65536 → s.args = [k, x.toNat] → s.clusterRecl k = false →
      (o ≠ u → h = o → s.clusterHolder k = u → s.quiescent u = true → s.quiescent o = true → (s.clusterReady k = true ∨ o = 0) →
        ∃ t, exec .clownOwnerChange s = .next t ∧ t.clown = s.clown.set k x ∧ t.mem = s.mem ∧
          (o ≠ 0 ∨ s.ready 0 = true → t = { s with clown := s.clown.set k x })) ∧
      (o ≠ u → (s.quiescent u = false ∨ s.quiescent o = false) → exec .clownOwnerChange s = .next s) ∧
      (o = u → h ≠ u → s.clusterHolder k = u → (∀ p ∈ s.onCluster k, p.2.fn ≠ u) → s.memOk →
        ∃ t, exec .clownLend s = .next t ∧ t.clown = s.clown.set k x ∧
          ∀ z, t.byteAt z = if sliceAddr (8 * k) 0 ≤ z ∧ z < sliceAddr (8 * k + 8) 0 then 0 else s.byteAt z) ∧
      (o = u → h = u → s.clusterHolder k ≠ u → s.onCluster k = [] →
        exec .clownReclaim s = .next { s with
          clown := s.clown.set k (clown u u true dl), former := s.former.set k (s.clusterHolder k)
          draining := s.draining.set k (s.clock + dl * 800) })) ∧
    (∀ core h spec, core < 256 → h < 20 → s.args = [core, h + (if spec then 256 else 0)] →
      (s.quiescent (s.clusterOwner (core / 8)) = false → exec .spartWrite s = .next s) ∧
      (s.quiescent (s.clusterOwner (core / 8)) = true → spec = false ∨ h ≤ 17 →
        exec .spartWrite s = .next { s with spart := s.spart.set core (BitVec.ofNat 64 (h + (if spec then 256 else 0))) })) ∧
    exec .calcmtWrite s = .next { s with calWait := s.calWait.set s.calidx s.calShadow } ∧
    (∀ x, s.args = [i] → s.calWait.get? i = some x →
      exec .calendarApply s = .next { s with cals := s.cals.set i x, calWait := s.calWait.erase i })

/-- R430, R433 to R436, R439, R452, R453, R503: a GO starts a session that asks its partner, or receives; a round sends the next 4 KiB
block it owes, after round 0 clears its bit, and ends in the drain, in NO_CONVERGE or in the next round; blocks that arrive are written through stage 2;
CANCEL, the partner, a failure and the end of the forwarding window end a session with their outcome, which is recorded. -/
def Obligations.MigrationSessions : Prop :=
  ∀ (s : State) (k : Nat), k < 4 → s.mgmt.ev ≠ .migrate →
    let x := s.session k
    let f := x.func
    let ended (t : State) (o : Nat) : Prop := (t.session k).state = .idle ∧ (t.session k).outcome = o ∧
      let a := s.mgmt.outA % 2 ^ 32
      let b := s.mgmt.outB % 2 ^ 32
      let v := if a ≤ b then t.mgmt.outA else t.mgmt.outB
      (if a ≤ b then t.mgmt.outB = s.mgmt.outB else t.mgmt.outA = s.mgmt.outA) ∧
      v % 2 ^ 32 = (max a b + 1) % 2 ^ 32 ∧ v / 2 ^ 32 % 16 = o % 16 ∧ v / 2 ^ 36 % 64 = f
    let fresh : Session := { mgctl := x.mgctl, mgshr := x.mgshr, mgsave := x.mgsave }
    let answered (t : State) (p : Packet) (b : Body) : Prop := s.isHere p.src = false → t.egress = s.egress ++
      [{ dst := p.src, src := p.dst, tc := p.tc, msgid := p.msgid, seq := p.seq, body := .allow 1, since := s.clock },
       { dst := p.src, src := p.dst, tc := p.tc, msgid := p.msgid, seq := p.seq, body := b, since := s.clock }]
    (s.args = [k] →
      (x.state = .idle → x.recv = false → (∀ j, j < 4 → (s.session j).running = false) →
        (s.dbmap.getLsbD 0 = true → s.enabled f = true → s.ready f = true → x.saveBase ≠ 0 →
          exec .mgctlGoSource s = .next ((s.setSession k { fresh with state := .round }).send
            { dst := x.partner, src := s.ownTriple f, body := .ask (s.logicalParts f) })) ∧
        (s.dbmap.getLsbD 0 = false ∨ s.enabled f = false ∨ s.ready f = false ∨ x.saveBase = 0 →
          ∃ t, exec .mgctlGoSource s = .next t ∧ t.mem = s.mem ∧ ended t 6)) ∧
      (x.state = .idle → x.recv = true →
        exec .mgctlGoReceive s = .next ((s.setSession k { fresh with state := .receiving }).setFn f { s.fn f with notReady := true })) ∧
      exec .mgctlLull s = .next (if x.state = .round then s.setSession k { x with lull := true } else s) ∧
      (x.state = .round ∨ x.state = .drain ∨ x.state = .receiving → ∃ t, exec .mgctlCancel s = .next t ∧ t.mem = s.mem ∧ ended t 2 ∧
        (x.state = .drain → (t.fn f).stopIssue = false)) ∧
      (∀ g h, x.state = .round → x.joined = true → s.nextBlock x = some (g, h) → ∃ t, exec .foehnBlockSend s = .next t ∧
        t.mem = (if x.round ≠ 0 ∧ s.dirtyBit (h / 4096) = true then (s.setDirty (h / 4096) false).mem else s.mem) ∧
        t.session k = { x with nextGpa := g + 4096, flight := x.flight ++ (List.range 8).map (fun i => g + 512 * i), bytes := x.bytes + 4096 } ∧
        (s.isHere x.partner = false → t.egress = s.egress ++ (List.range 8).map (fun i =>
          { dst := x.partner, src := s.ownTriple f, since := s.clock
            body := .block (g + 512 * i) (t.bytesAt (h + 512 * i) 512) (s.poisonAt (h + 512 * i) 512) }))) ∧
      (x.state = .round → x.joined = true → x.flight = [] → s.nextBlock x = none →
        let dc := s.changedCount x
        let lull : Prop := x.round ≠ 0 ∧ (x.lull = true ∨ x.mgctl.getLsbD 2 = true) ∧ dc ≤ 262144 ∧ 16 ≤ x.share ∧ s.estimateOk x = true
        ∃ t, exec .foehnRoundEnd s = .next t ∧ t.mem = s.mem ∧
          (x.mgctl.getLsbD 4 = true → 2 ≤ x.round → 7 * x.dcnt < 8 * dc → lull ∨ x.round + 1 < x.maxr → (t.fn f).capRate = some x.thrate) ∧
          (lull → (t.session k).state = .drain ∧ (t.session k).drainAt = s.clock ∧ (t.session k).marks = s.drainChannels f ∧
            (t.session k).dcnt = dc ∧ (t.fn f).stopIssue = true) ∧
          (¬lull → x.maxr ≤ x.round + 1 → ended t 3) ∧
          (¬lull → x.round + 1 < x.maxr → (t.session k).state = .round ∧ (t.session k).round = x.round + 1 ∧ (t.session k).nextGpa = 0 ∧
            (t.session k).dcnt = dc ∧ (t.session k).lull = false)) ∧
      (x.state = .forward → (s.clock < x.stateAt + 200000 → exec .forwardWindowEnd s = .next s) ∧
        (x.stateAt + 200000 ≤ s.clock → ∃ t, exec .forwardWindowEnd s = .next t ∧ t.mem = s.mem ∧ ended t 1)) ∧
      (x.state = .save → ∃ t, exec .sessionFailure s = .next t ∧ t.mem = s.mem ∧ ended t 4 ∧ (t.fn f).stopIssue = false)) ∧
    (∀ (i : Nat) (p : Packet), s.args = [i] → s.inboxAt i = some p → p.dst.func = f → p.src = x.partner →
      (∀ g bs h, p.body = .block g bs false → s.sessionFor f p.src (fun y => y.state == .receiving || y.state == .restore) = some k →
        s2Host s f g .any = .ok h → s.memOk →
        ∃ t, exec .foehnBlockArrival s = .next t ∧ s.wrote t h bs ∧ t.session k = { x with bytes := x.bytes + bs.length } ∧
          answered t p (.blockAck g)) ∧
      (∀ g, p.body = .blockAck g → s.sessionFor f p.src (fun y => y.state == .round || y.state == .ship) = some k →
        ∃ t, exec .foehnBlockArrival s = .next t ∧ t.mem = s.mem ∧ t.session k = { x with flight := x.flight.filter (fun y => y != g) }) ∧
      (∀ l, p.body = .ask l → ∃ t, exec .sessionPartnerRequest s = .next t ∧ t.mem = s.mem ∧
        answered t p (.answer ((s.sessionFor f p.src (fun y => y.state == .receiving)).isSome && s.canReceive f l))) ∧
      (∀ ok, p.body = .answer ok → s.sessionFor f p.src (fun y => y.state == .round && !y.joined) = some k →
        ∃ t, exec .sessionPartnerRequest s = .next t ∧
          (ok = true → (t.session k).joined = true ∧ (t.session k).state = .round ∧ (t.session k).nextGpa = 0) ∧ (ok = false → t.mem = s.mem ∧ ended t 4)) ∧
      (∀ o, p.body = .told o → s.sessionFor f p.src (fun y => y.state != .idle) = some k → x.state = .receiving →
        ∃ t, exec .sessionPartnerRequest s = .next t ∧ t.mem = s.mem ∧ ended t o))

/-- R437 to R441, R450 to R452: a peer that holds nothing toward a module answers its MARK and holds what is to start, until the release; the
drain ends when nothing is left, or is abandoned after 400 µs; the saved image is shipped; an image that reads back is accepted; peers name
the new triple; the source discards the function's work, forwards for 250 µs, and then answers MOVED. -/
def Obligations.MigrationSteps : Prop :=
  ∀ (s : State) (k : Nat), k < 4 → s.mgmt.ev ≠ .migrate →
    let x := s.session k
    let f := x.func
    let answered (t : State) (p : Packet) (bs : List Body) : Prop := s.isHere p.src = false → t.egress = s.egress ++
      (.allow 1 :: bs).map (fun b => { dst := p.src, src := p.dst, tc := p.tc, msgid := p.msgid, seq := p.seq, body := b, since := s.clock })
    (s.args = [k] →
      (x.state = .drain → s.drained x = true → exec .drainComplete s = .next (s.setSession k
        { x with state := .save, stateAt := s.clock, drainUs := (s.clock - x.drainAt) / 800 })) ∧
      (x.state = .drain → s.drained x = false → exec .drainComplete s = .next s) ∧
      (x.state = .drain → x.drainAt + 320000 ≤ s.clock → ∃ t, exec .drainAbandon s = .next t ∧ (t.session k).state = .round ∧
        (t.session k).abandons = min 255 (x.abandons + 1) ∧ (t.session k).round = x.round ∧ (t.session k).marks = [] ∧ (t.fn f).stopIssue = false) ∧
      (x.state = .drain → s.clock < x.drainAt + 320000 → exec .drainAbandon s = .next s) ∧
      (x.state = .save → s.saveReady f = true → ∃ t img, exec .saveComplete s = .next t ∧ (t.fn f).recs = [] ∧
        t.session k = { x with state := .ship, stateAt := s.clock, nextGpa := 0, flight := [], image := img, imageAcked := false
                               bytes := x.bytes + img.length }) ∧
      (x.state = .ship → x.imageAcked = true → x.flight = [] → s.nextBlock x = none → ∃ t, exec .shipComplete s = .next t ∧ t.mem = s.mem ∧
        t.session k = { x with state := .rebind, stateAt := s.clock, rebinds := ((s.drainChannels f).map (·.1)).eraseDups }) ∧
      (x.state = .rebind → x.rebinds = [] ∨ x.stateAt + 80000 ≤ s.clock → s.blocks.sorted = true →
        (∀ p ∈ s.blocks, p.2.fn = f → p.2.copies = [] ∧ p.2.stackCmds = [] ∧ ∀ w ∈ p.2.waves, w.2.acc = []) →
        (∀ j, j < 32 → (s.clusterOwner j = f ↔ s.clusterHolder j = f) ∧ s.clusterRecl j = false) →
        ∃ t b, exec .rebindComplete s = .next t ∧ t.mem = s.mem ∧ t.session k = { x with state := .forward, stateAt := s.clock, blackout := b } ∧
          t.blocks = s.blocks.filter (fun p => p.2.fn != f) ∧ t.tasks = s.tasks.filter (fun y => y.fn != f) ∧
          t.launches = s.launches.filter (fun y => y.fn != f) ∧ (t.fn f).notReady = true ∧ (t.fn f).stopIssue = false ∧
          t.moved = s.moved.filter (fun m => m.fn != f) ++ [⟨f, x.partner, s.clock + 200000⟩])) ∧
    (∀ (i : Nat) (p : Packet), s.args = [i] → s.inboxAt i = some p →
      (p.body = .mark → s.begunTo p.src = true → exec .markArrival s = .next s) ∧
      (p.body = .mark → s.begunTo p.src = false → ∃ t, exec .markArrival s = .next t ∧ t.mem = s.mem ∧ answered t p [.markAck] ∧
        ∀ q, q ∈ t.marked ↔ q ∈ s.marked ∨ q = p.src) ∧
      (p.body = .markRelease → ∃ t, exec .markReleaseArrival s = .next t ∧ t.mem = s.mem ∧ answered t p [] ∧
        ∀ q, q ∈ t.marked ↔ q ∈ s.marked ∧ q ≠ p.src) ∧
      (p.body = .markAck → p.dst.func = f → x.state = .drain → (∀ j, j < k → (s.session j).func = f → (s.session j).state ≠ .drain) →
        ∃ t, exec .markAckArrival s = .next t ∧ t.mem = s.mem ∧ t.session k = { x with marks := x.marks.filter (fun m => m != (p.src, p.tc)) }) ∧
      (p.dst.func = f → (∀ n bs, p.body = .image n bs → s.sessionFor f p.src (fun y => y.state == .receiving) = some k →
          let y := { x with image := x.image ++ bs, bytes := x.bytes + bs.length }
          ∃ t, exec .imageArrival s = .next t ∧ t.mem = s.mem ∧
            (y.image.length < n → t.session k = y) ∧
            (n ≤ y.image.length → (readImage y.image).isSome = true → t.session k = { y with state := .restore } ∧ answered t p [.imageAck true]) ∧
            (n ≤ y.image.length → readImage y.image = none → (t.session k).state = .idle ∧ (t.session k).outcome = 7 ∧ answered t p [.imageAck false])) ∧
        (p.body = .imageAck true → s.sessionFor f p.src (fun y => y.state == .ship) = some k →
          ∃ t, exec .imageArrival s = .next t ∧ t.mem = s.mem ∧ t.session k = { x with imageAcked := true })) ∧
      (∀ old new, p.body = .rebind old new → (∀ g, g < 64 → s.vdnEntries g = []) → ∃ t, exec .rebindArrival s = .next t ∧ t.mem = s.mem ∧
        (∀ q, q ∈ t.marked ↔ q ∈ s.marked ∧ q ≠ old) ∧ ∀ m ∈ t.msgs, m.dst = old → new = old) ∧
      (p.body = .rebindAck → p.dst.func = f → x.state = .rebind → (∀ j, j < k → (s.session j).func = f → (s.session j).state ≠ .rebind) →
        ∃ t, exec .rebindArrival s = .next t ∧ t.mem = s.mem ∧ t.session k = { x with rebinds := x.rebinds.filter (fun y => y != p.src) }) ∧
      (∀ m, s.movedFn p.dst.func = some m → p.body.isAccess = true ∨ p.body.isMessage = true →
        let off := (s.dropInbox i).allowFor p
        (s.names m.fn p.src = true → s.clock < m.until_ → exec .forwardPacket s = .next (off.send { p with dst := m.new, fresh := false, hops := 0 })) ∧
        (s.names m.fn p.src = true → m.until_ ≤ s.clock → exec .forwardPacket s = .next (off.answerTo p (.moved m.new))) ∧
        (s.names m.fn p.src = false → exec .forwardPacket s = .next (off.answerTo p (if p.body.isAccess then .response 5 [] false else .msgAck 5 0)))))

/-- R456, R465, R469 to R474: WRPOST puts a record its checks let pass at the end of its list and gives its handle; WRARM gives a record its
target; WRCAN takes one out; COLL starts a collective; VDNQ reads an entry and tells whether a route stands; FFENCE, CNTADD and CNTWAIT
go on, or wait for what they name. -/
def Obligations.FabricInstructions : Prop :=
  ∀ (s : State) (e : Enc) (c : Ctx),
    let w := s.ctxWave c
    let fn := s.ctxFn c
    let f := s.fn fn
    let field (x lo n : Nat) : Nat := x / 2 ^ lo % 2 ^ n
    let list (t : State) (l : Nat) : WorkList := (t.fn fn).lists.get {} (l % 64)
    let took (i : Instr) (xs : List Word) (p : State → Prop) : Prop :=
      ∃ t, exec i s = .next t ∧ TookWords s t c (e.dst.toNat - 192) xs ∧ p t
    w.spec.sid = none → w.acc = [] → s.plainMemory →
    (∀ (l : Word) (a : DWord) (bs : List Byte) (i slot : Nat), let x := natOfBytes bs
      let q := list s l.toNat
      let op := field x 0 4
      Ready s (.wrpost e) e c → w.sCode e.src1 = ⟨l, false⟩ → w.sPair e.src0 = (a, false) → l.toNat ≤ 63 → a.toNat % 64 = 0 → s.readsAs c a 64 bs →
      op ≤ 5 → (op ≤ 1 → field x 192 32 ≤ 2 ^ 20 ∨ f.fabctl.getLsbD (16 + field x 4 2) = false) → (op = 2 → field x 128 64 % 8 = 0) →
      (op = 1 ∨ op = 2 → field x 192 32 ≠ 0) → q.recs.length < 256 → i < 256 → slot = (q.tail + i) % 256 → (∀ r ∈ q.recs, r.slot ≠ slot) →
      (∀ j, j < i → ∃ r ∈ q.recs, r.slot = (q.tail + j) % 256) →
      took (.wrpost e) [BitVec.ofNat 32 (l.toNat + slot * 64 + q.gens.get 0 slot % 256 * 2 ^ 14)] (fun t => t.mem = s.mem ∧
        list t l.toNat = { q with tail := (slot + 1) % 256, recs := q.recs ++ [{ slot := slot, record := x, blk := c.blk, wave := c.wave }] })) ∧
    (∀ (h : Word) (r : WorkRec), let q := list s h.toNat
      w.sCode e.src0 = ⟨h, false⟩ → q.recs.find? (fun r => r.slot == h.toNat / 64 % 256) = some r →
      h.toNat = h.toNat % 64 + r.slot * 64 + q.gens.get 0 r.slot % 256 * 2 ^ 14 →
      (∀ t : DWord, Ready s (.wrarm e) e c → (if e.len = .l64 then w.sPair e.src1 = (t, false) else t = e.imm16.setWidth 64) →
        ∃ u, exec (.wrarm e) s = .next u ∧ TookWords s u c 0 [] ∧ u.mem = s.mem ∧
          list u h.toNat = { q with recs := q.recs.map (fun x => if x.slot = r.slot then { x with thr := some t } else x) }) ∧
      (Ready s (.wrcan e) e c → took (.wrcan e) [1] (fun t => t.mem = s.mem ∧
        list t h.toNat = { q with recs := q.recs.filter (fun x => x.slot != r.slot), gens := q.gens.set r.slot ((q.gens.get 0 r.slot + 1) % 256) }))) ∧
    (∀ h : Word, Ready s (.wrcan e) e c → w.sCode e.src0 = ⟨h, false⟩ → (∀ r ∈ (list s h.toNat).recs, r.slot = h.toNat / 64 % 256 →
        h.toNat ≠ h.toNat % 64 + r.slot * 64 + (list s h.toNat).gens.get 0 r.slot % 256 * 2 ^ 14) →
      took (.wrcan e) [0] (fun t => t.mem = s.mem ∧ t.fn fn = f)) ∧
    (∀ p ∈ [(Instr.collAllreduce e, 0), (.collAllgather e, 1), (.collReducescatter e, 2), (.collAlltoall e, 3), (.collBroadcast e, 4)],
      ∀ (a : DWord) (bs : List Byte), let x := natOfBytes bs
      Ready s p.1 e c → w.sPair e.src0 = (a, false) → a.toNat % 64 = 0 → s.readsAs c a 64 bs → field x 2 2 ≠ 3 →
      (p.2 = 0 ∨ p.2 = 2 → field x 0 2 ≠ 3) → 1 ≤ field x 24 16 → field x 24 16 ≤ 32768 → field x 384 64 % 4 = 0 → f.colls.length < 16 →
      (∀ d ∈ f.colls, field d.record 288 16 ≠ field x 288 16) →
      ∃ t, exec p.1 s = .next t ∧ TookWords s t c 0 [] ∧
        (t.fn fn).colls.map (fun d => (d.op, d.record, d.blk, d.wave)) =
          f.colls.map (fun d => (d.op, d.record, d.blk, d.wave)) ++ [(p.2, x, c.blk, c.wave)]) ∧
    (∀ v : Word, let x := s.vdnEntry fn (v.toNat % 32768)
      Ready s (.vdnq e) e c → w.sCode e.src0 = ⟨v, false⟩ → f.vdnCache.get? (v.toNat % 32768) = none ∨ f.vdnCache.get? (v.toNat % 32768) = some x →
      took (.vdnq e) [x.setWidth 32, if vdnOk x ∧ s.routed { dst := vdnTriple x, src := s.ownTriple fn, tc := vdnTc x, rcls := vdnRcls x
                                                             spray := s.sprayOn fn (vdnTc x) } = true then 1 else 0] (fun t => t.mem = s.mem)) ∧
    (let settled : Prop := (∀ m ∈ s.msgs, ¬(m.fn = fn ∧ m.blk = c.blk ∧ m.wave = c.wave ∧ m.record.isSome = true)) ∧
        ∀ d ∈ f.colls, ¬(d.blk = c.blk ∧ d.wave = c.wave)
     Ready s (.ffence e) e c →
      (settled → ∃ t, exec (.ffence e) s = .next t ∧ KeptRegisters s t c) ∧
      (¬settled → ∃ t, exec (.ffence e) s = .next t ∧ t.mem = s.mem ∧ Waiting s t c c.members .ffence)) ∧
    (∀ (n : Word) (v : DWord), w.sCode e.src0 = ⟨n, false⟩ → n.toNat < 4096 →
      (if e.len = .l64 then w.sPair e.src1 = (v, false) else v = e.imm16.setWidth 64) →
      (Ready s (.cntadd e) e c → ∃ t, exec (.cntadd e) s = .next t ∧ TookWords s t c 0 [] ∧ t.mem = s.mem ∧
        ∀ j, (t.fn fn).counters.get 0 j = if j = n.toNat then f.counters.get 0 j + v else f.counters.get 0 j) ∧
      (Ready s (.cntwait e) e c →
        ((f.counters.get 0 n.toNat - v).msb = false → ∃ t, exec (.cntwait e) s = .next t ∧ TookWords s t c 0 [] ∧ t.mem = s.mem ∧ t.fns = s.fns ∧
          (e.fn.getLsbD 0 = true → ∀ l, c.acting.getLsbD l = true → ((t.ctxWave c).lane l).q e.dst.toNat = true)) ∧
        ((f.counters.get 0 n.toNat - v).msb = true → ∃ t, exec (.cntwait e) s = .next t ∧ t.mem = s.mem ∧ t.fns = s.fns ∧
          Waiting s t c c.members (.cnt n.toNat v (s.clock + 800 * max 1 (f.fabctl.toNat % 65536))))))

/-- R457 to R468: a sync completes when its caches are empty; a request that the function accepts is performed at its home and answered, any
other is DENIED; a response completes its access, a timeout gives code 4; a record fires at the head of its list; messages and
collectives count their counters and report failures; allowances come back. -/
def Obligations.FabricSteps : Prop :=
  ∀ (s : State),
    let field (x lo n : Nat) : Nat := x / 2 ^ lo % 2 ^ n
    (∀ fn, s.args = [fn] → let f := s.fn fn
      let req := f.vdnstat.toNat % 65536
      let done := f.vdnstat.toNat / 65536 % 65536
      (∃ t, exec .vdnsyncGo s = .next t ∧ t = s.setFn fn { f with vdnstat := (t.fn fn).vdnstat } ∧
        (t.fn fn).vdnstat.toNat % 65536 = (req + 1) % 65536 ∧ (t.fn fn).vdnstat.toNat / 65536 = f.vdnstat.toNat / 65536) ∧
      (req = done → exec .vdnsyncComplete s = .next s) ∧
      (req ≠ done → exec .vdnsyncComplete s = .next (s.setFn fn { f with
        vdnCache := [], vdnstat := BitVec.ofNat 64 (req + (done + 1) % 65536 * 65536) }))) ∧
    (∀ (i : Nat) (p : Packet), s.args = [i] → s.inboxAt i = some p →
      let off := s.dropInbox i
      let s0 := off.allowFor p
      let fn := p.dst.func
      let f := s.fn fn
      (∀ n, p.body = .allow n → ∃ t, exec .allowArrival s = .next t ∧ t = { s with inbox := s.inbox.eraseIdx i, channels := t.channels } ∧
        t.chanUnits fn p.src p.tc = s.chanUnits fn p.src p.tc + n ∧
        ∀ g d tc, ¬(g = fn ∧ d = p.src ∧ tc = p.tc) → t.chanUnits g d tc = s.chanUnits g d tc) ∧
      (p.body = .peerReset → (∀ d ∈ f.colls, ∀ v ∈ d.peers, ¬(vdnOk (s.vdnEntry fn v) = true ∧ vdnTriple (s.vdnEntry fn v) = p.src)) →
        exec .peerResetArrival s = .next s0) ∧
      (∀ d v rest, p.body = .peerReset → f.colls = [d] → d.status = none → d.peers = v :: rest → vdnOk (s.vdnEntry fn v) = true →
        vdnTriple (s.vdnEntry fn v) = p.src → ∃ t y, exec .peerResetArrival s = .next t ∧ t.mem = s.mem ∧ (t.fn fn).colls = [{ d with status := some 8 }] ∧
          t.events = s.events ++ [y] ∧ y.code = 0x0B ∧ y.func = fn ∧ y.info = BitVec.ofNat 64 v) ∧
      (s.restoring fn = false → s.movedFn fn = none →
        (p.body.isAccess = true → s.refuses fn p.src = true → exec .remoteRequestArrival s = .next (s0.answerTo p (.response 5 [] false))) ∧
        (∀ h, p.body.isAccess = true → s.refuses fn p.src = false → s0.s2Access fn p.addr p.body.acc = some (h, s0) →
          (∀ n, p.body = .read n → s.faulty = [] → exec .remoteRequestArrival s = .next (s0.answerTo p (.response 0 (s.bytesAt h n) (s.poisonAt h n)))) ∧
          (∀ bs q, p.body = .write bs q → s.plainMemory → ∃ t, exec .remoteRequestArrival s = .next t ∧ s.wrote t h bs ∧
            (s.isHere p.src = false → t.egress = s.egress ++ [.allow 1, .response 0 [] false].map (fun b =>
              { dst := p.src, src := p.dst, tc := p.tc, msgid := p.msgid, seq := p.seq, body := b, since := s.clock }))) ∧
          (∀ n op, p.body = .atomic 0 n op 0 false false → n = 4 ∨ n = 8 → s.poisonAt h n = false → s.plainMemory →
            ∃ t, exec .remoteRequestArrival s = .next t ∧ s.wrote t h (bytesOfNat n (s.natAt h n + op.toNat % 2 ^ (8 * n))) ∧
            (s.isHere p.src = false → t.egress = s.egress ++ [.allow 1, .response 0 (s.bytesAt h n) false].map (fun b =>
              { dst := p.src, src := p.dst, tc := p.tc, msgid := p.msgid, seq := p.seq, body := b, since := s.clock })))) ∧
        (p.body.isMessage = true → (∀ dest total j bs q, p.body = .msg dest total j bs q → ∃ win gen o, dest = .window win gen o) →
          s.refuses fn p.src = true → exec .messagePacketArrival s = .next (s0.answerTo p (.msgAck 5 0))) ∧
        (∀ win gen o bs s1, let x := f.windows.get {} (win % 1024)
          p.body = .msg (.window win gen o) bs.length 0 bs false → s.refuses fn p.src = false → x.valid = true → x.gen = gen → o + bs.length ≤ x.len → o < 2 ^ 64 →
          (∀ m ∈ s.inmsgs, ¬(m.src = p.src ∧ m.fn = fn ∧ m.id = p.msgid)) → s0.fnWrite fn (x.base.toNat + o) bs false = (true, s1) → s1.fns = s.fns →
          ∃ t, exec .messagePacketArrival s = .next t ∧ t.mem = s1.mem ∧
            (t.fn fn).counters.get 0 (x.ctr % 4096) = (s1.fn fn).counters.get 0 (x.ctr % 4096) + 1 ∧
            ∃ m ∈ t.inmsgs, m.src = p.src ∧ m.fn = fn ∧ m.id = p.msgid ∧ m.done = true)) ∧
      (∀ code old, p.body = .msgAck code old → (∀ m, s.msg? fn p.msgid = some m → (m.record.getD 5) % 16 ≠ 2) →
        exec .messagePacketArrival s = .next (off.msgCode fn p.msgid code)) ∧
      (∀ got, p.body = .bitmap got → exec .messagePacketArrival s = .next (off.onMsg fn p.msgid (fun m => { m with acked := got }))) ∧
      (∀ code bs q, p.body = .response code bs q → s.findAccess fn p.msgid = none → code ≠ 2 →
        exec .remoteResponseArrival s = .next (off.msgCode fn p.msgid code)) ∧
      (∀ b k m a y reg n sx bs, let w := s.wave b k
        p.body = .response 0 bs false → s.findAccess fn p.msgid = some (b, k, a) → w.acc = [a] → w.waits = [(m, y)] → y.why = .remote (laneBit a.lane) [] →
        y.lanes.getLsbD a.lane = true → y.enc.stForm = false → y.enc.mod.getLsbD 4 = false → a.kind = .load n sx → n ≤ 4 → a.dst = .v reg 1 4 false 0 →
        a.lane < 32 → a.more = [] → a.got = [] → a.tail = [] → a.gotBad = false → w.late = [] → (w.lane a.lane).cond = .blocked m → (∀ q ∈ s.blocks, ∀ v ∈ q.2.waves, ∀ z ∈ v.2.acc, z.held = false) →
        ∃ t, exec .remoteResponseArrival s = .next t ∧ t.mem = s.mem ∧ (t.wave b k).acc = [] ∧ (t.wave b k).waits = [] ∧ (t.wave b k).s = w.s ∧
          ((t.wave b k).lane a.lane).cond = .runnable ∧ ((t.wave b k).lane a.lane).pc = y.nextPc ∧
          ∀ q l, l < 32 → (t.wave b k).vAt q l = if q = reg ∧ l = a.lane then
            ⟨BitVec.ofNat 32 (extendLoad n sx (natOfBytes bs)), false⟩ else w.vAt q l)) ∧
    (∀ blk k id a v o, s.args = [blk, k, id] → s.accOf blk k id = some a → a.remote = some (v, o) →
      let w := s.wave blk k
      let fn := (s.block blk).fn
      let lim := a.sentAt + 800 * max 1 ((s.fn fn).fabctl.toNat % 65536)
      (a.held = true ∨ s.clock < lim → exec .remoteTimeout s = .next s) ∧
      (∀ m y, a.held = false → lim ≤ s.clock → a.id = id → w.acc = [a] → w.waits = [(m, y)] → y.why = .remote (laneBit a.lane) [] → y.lanes.getLsbD a.lane = true →
        y.enc.stForm = false → w.spec.sid = none → (∀ q ∈ s.blocks, ∀ z ∈ q.2.waves, ∀ b ∈ z.2.acc, b.held = false) →
        ∃ t r, exec .remoteTimeout s = .next t ∧ t.mem = s.mem ∧ (t.wave blk k).acc = [] ∧ (t.wave blk k).stopped = some r ∧ r.cause = .remoteFail ∧
          t.chanUnits fn (vdnTriple (s.vdnEntry fn v)) (vdnTc (s.vdnEntry fn v)) = s.chanUnits fn (vdnTriple (s.vdnEntry fn v)) (vdnTc (s.vdnEntry fn v)) + 1)) ∧
    (∀ blk k m y ctr tgt lim, let w := s.wave blk k
      s.args = [blk, k, m] → w.waits.get? m = some y → y.why = .cnt ctr tgt lim →
      (s.clock < lim → exec .cntwaitTimeout s = .next s) ∧
      (lim ≤ s.clock → y.enc.fn.getLsbD 0 = true → w.waits = [(m, y)] → y.lanes ≠ 0 → (∀ l, y.lanes.getLsbD l = true ↔ (w.lane l).cond = .blocked m) →
        y.acting &&& ~~~y.lanes = 0 →
        ∃ t, exec .cntwaitTimeout s = .next t ∧ t.mem = s.mem ∧ (t.wave blk k).waits = [] ∧ (t.wave blk k).v = w.v ∧
          ∀ l, y.lanes.getLsbD l = true → ((t.wave blk k).lane l).cond = .runnable ∧ ((t.wave blk k).lane l).pc = y.nextPc ∧
            ((t.wave blk k).lane l).pred = (if y.acting.getLsbD l then (w.lane l).setQ y.enc.dst.toNat false else w.lane l).pred)) ∧
    (∀ fn l, s.args = [fn, l] → let f := s.fn fn
      let q := f.lists.get {} (l % 64)
      let left (t : State) (r : WorkRec) : Prop := (t.fn fn).lists.get {} (l % 64) =
        { q with recs := q.recs.filter (fun x => x.slot != r.slot), gens := q.gens.set r.slot ((q.gens.get 0 r.slot + 1) % 256) }
      let due (r : WorkRec) : Prop := ∃ t, r.thr = some t ∧ (f.counters.get 0 (field r.record 384 12) - t).msb = false
      (q.recs = [] → exec .workRequestFire s = .next s ∧ exec .recvGenerationWaitExpiry s = .next s) ∧
      (∀ r rest, q.recs = r :: rest → ¬due r → exec .workRequestFire s = .next s ∧ exec .recvGenerationWaitExpiry s = .next s) ∧
      (∀ r rest, let op := field r.record 0 4
        let ctr := field r.record 48 12
        let win := field r.record 32 10
        let x := f.windows.get {} win
        let end_ : DWord := if field r.record 6 1 = 1 then 1 else 0
        q.recs = r :: rest → due r →
        (op = 4 → ∃ t, exec .workRequestFire s = .next t ∧ t.mem = s.mem ∧ left t r ∧
          ∀ j, (t.fn fn).counters.get 0 j = if j = ctr then f.counters.get 0 j + BitVec.ofNat 64 (field r.record 256 64) + end_ else f.counters.get 0 j) ∧
        (op = 5 → ∃ t, exec .workRequestFire s = .next t ∧ t.mem = s.mem ∧ left t r ∧
          ∀ j, (t.fn fn).counters.get 0 j = if j = ctr then f.counters.get 0 j + end_ else f.counters.get 0 j) ∧
        (op = 3 → (s.genWaits fn win = true → exec .workRequestFire s = .next s ∧ exec .recvGenerationWaitExpiry s = .next s) ∧
          (s.genWaits fn win = false →
            let opened (t : State) : Prop := t.mem = s.mem ∧ left t r ∧ ∃ y, (t.fn fn).windows.get? win = some y ∧
              y.base = BitVec.ofNat 64 (field r.record 64 64) ∧ y.len = field r.record 192 32 ∧ y.ctr = field r.record 224 12 ∧ y.gen = (x.gen + 1) % 256 ∧
              (y.valid = true ↔ field r.record 192 32 ≠ 0)
            (∃ t, exec .workRequestFire s = .next t ∧ opened t) ∧
            (x.gen = 127 ∨ x.gen = 255 → ∃ t, exec .recvGenerationWaitExpiry s = .next t ∧ opened t))) ∧
        (∀ v y, op = 1 → v = field r.record 16 15 → y = s.vdnEntry fn v → f.vdnCache = [] → vdnOk y = true → s.isHere (vdnTriple y) = false →
          ∃ t m, exec .workRequestFire s = .next t ∧ t.mem = s.mem ∧ left t r ∧ t.msgs = s.msgs ++ [m] ∧ m.fn = fn ∧ m.dst = vdnTriple y ∧
            m.record = some r.record ∧ m.code = none ∧ ∃ p, t.egress = s.egress ++ [p] ∧ p.dst = vdnTriple y ∧ p.msgid = m.id ∧
              p.body = .get win (field r.record 8 8) (field r.record 128 64) (field r.record 192 32)))) ∧
    (∀ fn id m, s.args = [fn, id] → s.msg? fn id = some m → let f := s.fn fn
      (∀ x, m.cid = none → m.record = some x →
        (m.code = none → exec .workRequestComplete s = .next s) ∧
        (m.code = some 0 → ∃ t, exec .workRequestComplete s = .next t ∧ t.mem = s.mem ∧ t.msgs = s.msgs.filter (fun y => !(y.fn == fn && y.id == id)) ∧
          ∀ j, (t.fn fn).counters.get 0 j = if j = field x 48 12 ∧ field x 6 1 = 1 then f.counters.get 0 j + 1 else f.counters.get 0 j) ∧
        (∀ k, m.code = some k → k ≠ 0 → ∃ t y, exec .workRequestComplete s = .next t ∧ t.mem = s.mem ∧ t.fns = s.fns ∧
          t.msgs = s.msgs.filter (fun y => !(y.fn == fn && y.id == id)) ∧ t.events = s.events ++ [y] ∧ y.code = 0x40 ∧ y.func = fn ∧
          y.info = BitVec.ofNat 64 (m.handle + k * 2 ^ 32))) ∧
      (let lim (t : Nat) : Nat := t + 800 * max 1 (f.fabctl.toNat % 65536)
       (m.firstAt = none → exec .messageTimeout s = .next s) ∧
       (∀ t, m.firstAt = some t → s.clock < lim t → exec .messageTimeout s = .next s) ∧
       (∀ t, m.firstAt = some t → lim t ≤ s.clock → m.code = none → m.cid = none → s.isHere m.dst = true →
        exec .messageTimeout s = .next (s.onMsg fn id (fun y => if y.code.isSome then y else { y with code := some 4 }))))) ∧
    (∀ fn id i m p t t0, s.args = [fn, id, i] → s.msg? fn id = some m → m.pkts.find? (fun p => p.body.index == i) = some p → m.lastAt.get? i = some t →
      m.firstAt = some t0 →
      (p.spray = true → m.code = none → i ∉ m.acked → t + 6400 ≤ s.clock → s.clock < t0 + 800 * max 1 ((s.fn fn).fabctl.toNat % 65536) →
        exec .sprayRetransmit s = .next (s.sendOut p)) ∧
      (p.spray = false ∨ i ∈ m.acked ∨ s.clock < t + 6400 → exec .sprayRetransmit s = .next s)) ∧
    (∀ i m, s.args = [i] → s.inmsgs[i]? = some m →
      (m.done = true ∨ (m.got.length / 64 ≤ m.acks ∧ s.clock < m.since + 1600) → exec .sprayBitmapAck s = .next s) ∧
      (m.done = false → m.acks < m.got.length / 64 ∨ m.since + 1600 ≤ s.clock → ∃ t, exec .sprayBitmapAck s = .next t ∧ t.mem = s.mem ∧
        (s.isHere m.src = false → t.egress = s.egress ++
          [{ dst := m.src, src := s.ownTriple m.fn, msgid := m.id, body := .bitmap m.got, since := s.clock }]))) ∧
    (∀ fn cid d, s.args = [fn, cid] → s.coll? fn cid = some d →
      (s.collStatus fn d = none → exec .collectiveComplete s = .next s) ∧
      (∀ k, s.collStatus fn d = some k → ∃ t, exec .collectiveComplete s = .next t ∧
        (t.fn fn).colls = (s.fn fn).colls.filter (fun y => field y.record 288 16 != cid) ∧
        (t.fn fn).counters.get 0 (field d.record 40 12) = (s.fn fn).counters.get 0 (field d.record 40 12) + 1 ∧
        (k ≠ 0 → ∃ y ∈ t.events, y.code = 0x41 ∧ y.func = fn ∧ y.info = BitVec.ofNat 64 (cid + k * 65536)))) ∧
    (∀ i p, s.args = [i] → s.egress[i]? = some p →
      let gone : State := { s with egress := s.egress.eraseIdx i }
      (p.fresh = false → 15600 ≤ p.age + (s.clock - p.since) / 102400 → exec .packetHop s = .next gone) ∧
      (p.fresh = true → s.heldByMark p = true → exec .packetHop s = .next s) ∧
      (p.fresh = true → s.heldByMark p = false → s.behind i p = false → p.body.isResponse = false → s.chanUnits p.src.func p.dst p.tc = 0 →
        exec .packetHop s = .next s) ∧
      (∀ a, let q := s.planned p
        p.fresh = true → p.body.isResponse = false → s.heldByMark p = false → s.behind i p = false → 0 < s.chanUnits p.src.func p.dst p.tc → q.hops < 5 →
        (s.candidates q).find? (fun a => (s.port a).usable) = some a →
        ∃ t, exec .packetHop s = .next t ∧ t.mem = s.mem ∧ t.egress = s.egress.eraseIdx i ∧
          t.port a = { s.port a with txq := (s.port a).txq.set q.hops ((s.port a).txq.get [] q.hops ++ [q]) } ∧
          t.chanUnits p.src.func p.dst p.tc = s.chanUnits p.src.func p.dst p.tc - 1))

/-- R482 to R497, R501: each event of a port moves it through the table of R492: writes of PCTL, lane lock, the comparison of summaries,
agreement, loss of lock and the timeouts; a slot sent or received counts; keys are installed and withdrawn; a swap exchanges the route
banks. -/
def Obligations.PortSteps : Prop :=
  ∀ (s : State) (p : Nat),
    let x := s.port p
    let put (y : Port) : Host.Outcome State Fault Refusal := .next (s.setPort p y)
    let goes (i : Instr) (st : PortSt) (q : State → Prop) : Prop :=
      ∃ t, exec i s = .next t ∧ t.mem = s.mem ∧ (t.port p).state = st ∧ (t.port p).stateAt = s.clock ∧ (∀ r, r ≠ p → t.port r = s.port r) ∧ q t
    let told (t : State) (code info : Nat) : Prop := ∃ y ∈ t.events, y.code = code ∧ y.info = BitVec.ofNat 64 info ∧ y.rings = [0]
    (s.args = [p] →
      (x.pctl.getLsbD 0 = true → exec .portEnable s = .next s) ∧
      (x.pctl.getLsbD 0 = false → portExists p = true →
        (x.state = .down → s.portReady p = true → goes .portEnable .lock (fun t => (t.port p).pctl = x.pctl ||| 1 ∧ (t.port p).perr = 0 ∧ (t.port p).tries = 0)) ∧
        (x.state ≠ .down ∨ s.portReady p = false → exec .portEnable s = put { x with pctl := x.pctl ||| 1, perr := 0 })) ∧
      (x.state = .down → exec .portDisable s = put { x with pctl := x.pctl &&& ~~~1 }) ∧
      (x.state ≠ .down → goes .portDisable .down (fun t => (t.port p).pctl = x.pctl &&& ~~~1 ∧ (t.port p).sent = [] ∧ (t.port p).txq = [])) ∧
      (x.state = .active → goes .portRetrain .lock (fun t => (t.port p).tries = 0 ∧ (x.reconf = false → told t 0x51 (p + 512)))) ∧
      (x.state = .failed → goes .portRetrain .lock (fun t => (t.port p).tries = 0)) ∧
      (x.state ≠ .active → x.state ≠ .failed → exec .portRetrain s = .next s) ∧
      (x.state = .active → goes .portReconfSet .draining (fun t => (t.port p).pctl = x.pctl ||| 2 ∧ (t.port p).reconfAt = s.clock ∧ (t.port p).txq = [])) ∧
      (x.state ≠ .active → exec .portReconfSet s = put { x with pctl := x.pctl ||| 2, reconfAt := s.clock }) ∧
      (x.state = .draining ∨ x.state = .quiet → x.lock ≠ 0 → goes .portReconfClear .active (fun t => (t.port p).pctl = x.pctl &&& ~~~2)) ∧
      ((x.state ≠ .draining ∧ x.state ≠ .quiet) ∨ x.lock = 0 →
        exec .portReconfClear s = put { x with pctl := x.pctl &&& ~~~2, drainSent := false, drainGot := false }) ∧
      (x.state = .lock → x.reconf = false → x.stateAt + 800000 ≤ s.clock →
        goes .lockTimeout .mismatch (fun t => (t.port p).mcode = 5 ∧ t.events = s.events)) ∧
      (x.state ≠ .lock ∨ x.reconf = true ∨ s.clock < x.stateAt + 800000 → exec .lockTimeout s = .next s) ∧
      (∀ bs, x.partner = some bs → x.state = .summary → let m := s.mcodeOf p bs
        (m = 0 → exec .linkMismatch s = .next s) ∧
        (m ≠ 0 → exec .trainingAgreement s = .next s ∧
          goes .linkMismatch .mismatch (fun t => (t.port p).mcode = m ∧ (m ≠ 5 → told t 0x52 (p + m * 256)) ∧ (m = 5 → t.events = s.events))) ∧
        (m = 0 → x.startSent = true → x.startGot = true → goes .trainingAgreement .active (fun t => (t.port p).kid = x.offer.kid ∧
          (t.port p).kgen = (x.offer.lastgen + 1) % 2 ^ 32 ∧ (t.port p).current = { x.offer with lastgen := (x.offer.lastgen + 1) % 2 ^ 32 } ∧
          (t.port p).pending = none ∧ (t.port p).mcode = 0 ∧ told t 0x50 (p + (t.port p).width * 256) ∧
          ((t.port p).width ≠ portWidth p → told t 0x56 (p + (t.port p).width * 256))))) ∧
      (x.state = .summary → x.partner = none ∨ x.startGot = false → x.stateAt + 80000 ≤ s.clock →
        goes .summaryTimeout .mismatch (fun t => (t.port p).mcode = 8 ∧ told t 0x52 (p + 2048))) ∧
      (x.state ≠ .summary ∨ s.clock < x.stateAt + 80000 → exec .summaryTimeout s = .next s) ∧
      (x.state = .mismatch → x.stateAt + 80000 ≤ s.clock → (x.tries < 3 → goes .mismatchRetry .lock (fun t => (t.port p).tries = x.tries + 1)) ∧
        (3 ≤ x.tries → goes .mismatchRetry .failed (fun t => told t 0x53 p))) ∧
      (x.state ≠ .mismatch ∨ s.clock < x.stateAt + 80000 → exec .mismatchRetry s = .next s) ∧
      (x.state = .active → goes .lockLost .lock (fun t => (t.port p).tries = 0 ∧ (x.reconf = false → told t 0x51 p))) ∧
      (x.state = .quiet → goes .lockLost .lock (fun t => (t.port p).tries = 0)) ∧
      (x.state = .draining → exec .lockLost s = put { x with lock := 0 }) ∧
      (x.reconf = true → x.state ≠ .active → x.reconfAt + 800000000 ≤ s.clock → s.mgmt.ev ≠ .drain →
        goes .reconfTimeout .failed (fun t => (t.port p).pctl = x.pctl &&& ~~~2 ∧ told t 0x58 p)) ∧
      (x.reconf = false ∨ x.state = .active ∨ s.clock < x.reconfAt + 800000000 → exec .reconfTimeout s = .next s) ∧
      exec .pkidWithdraw s = put { x with pending := none } ∧
      (s.clock < x.intactAt + 1600 → exec .pauseSilenceTimeout s = .next s) ∧
      (x.intactAt + 1600 ≤ s.clock → exec .pauseSilenceTimeout s = put { x with silent := true }) ∧
      (∀ f rest, x.sent = f :: rest → x.state = .active ∨ x.state = .draining ∨ x.state = .quiet →
        (s.clock < f.sentAt + 3200 → exec .replayTimeout s = .next s) ∧
        (f.sentAt + 3200 ≤ s.clock → x.replays < 15 → ∃ t, exec .replayTimeout s = .next t ∧ t = s.setPort p (t.port p) ∧
          (t.port p).again = x.sent.map (fun y => y.fseq) ∧ (t.port p).replays = x.replays + 1 ∧ (t.port p).sent = x.sent)) ∧
      (x.state = .down ∨ x.state = .lock ∨ x.state = .mismatch ∨ x.state = .failed → exec .flitSend s = .next s) ∧
      (x.state = .summary → x.startSent = false → x.partner = none →
        exec .flitSend s = put { x with summaries := x.summaries + 1, out := s.summarySlot p 1 }) ∧
      (x.state = .active ∨ x.state = .draining ∨ x.state = .quiet → x.tx.count < 2 ^ 48 → ∃ t, exec .flitSend s = .next t ∧ t.mem = s.mem ∧
        (t.port p).tx = { x.tx with count := x.tx.count + 1 } ∧ (t.port p).state = x.state ∧ (∀ r, r ≠ p → t.port r = s.port r) ∧
        (x.again = [] → x.state = .draining → x.sent = [] → x.drainSent = false → (t.port p).drainSent = true ∧
          (t.port p).sent = [⟨x.fseq, true, 0, List.replicate 224 0, s.clock⟩]))) ∧
    (∀ kid, s.args = [p, kid] → kid % 65536 ≠ 0 → exec .pkidInstall s = put { x with pending := some { kid := kid % 65536, secret := x.secret } }) ∧
    (∀ m, s.args = [p, m] → let y : BitVec 32 := BitVec.ofNat 32 (m % 2 ^ portWidth p)
      (x.state = .lock → (x.group p y).isSome = true → exec .laneLock s = put { x with lock := y, state := .summary, stateAt := s.clock }) ∧
      (x.state ≠ .lock ∨ x.group p y = none → exec .laneLock s = .next s)) ∧
    (∀ fec, s.args = [p, fec] →
      (x.state = .down ∨ x.state = .lock ∨ x.state = .mismatch ∨ x.state = .failed → exec .flitReceive s = .next s) ∧
      (x.state = .active → fec = 0 → ∃ t, exec .flitReceive s = .next t ∧ t = s.setPort p (t.port p) ∧ (t.port p).waiting = true ∧
        (t.port p).rx = { x.rx with count := x.rx.count + 1 } ∧ (t.port p).expect = x.expect) ∧
      (let h := natOfBytes (s.data.take 8)
       x.state = .active → fec ≠ 0 → natOfBytes (s.data.drop 248) = crc64 (s.data.take 248) → h % 256 = 0 → h / 2 ^ 40 = 0 → x.tagFails = [] →
        ∃ t, exec .flitReceive s = .next t ∧ t = s.setPort p (t.port p) ∧ (t.port p).rx = { x.rx with count := x.rx.count + 1 } ∧
          if (gcmOpen x.rx.key x.rx.iv (s.data.take 8) ((s.data.drop 8).take 224) ((s.data.drop 232).take 16)).isSome = true then
            (t.port p).silent = false ∧ (t.port p).intactAt = s.clock ∧ (t.port p).paused = BitVec.ofNat 8 (h / 2 ^ 32)
          else (t.port p).waiting = true ∧ (t.port p).tagFails = [x.slots + 1])) ∧
    ∃ t, exec .routeSwap s = .next t ∧ t.mem = s.mem ∧ t.rtAct = !s.rtAct ∧ told t 0x55 (!s.rtAct).toNat

/-- R3, R37, R40, R411, R412, R427, R499 to R501, R504 to R508, R510 to R512: power-good starts the self-tests, and each that passes sets its bit; the bus
falls back after 100 ms; SPDM requests are answered in order; the throttle level follows power and temperature, and a trip disables
every function; logs clear; the eviction handshake starts, asks, retries and fails; a register write of R411 acts on its
register. -/
def Obligations.ManagementSteps : Prop :=
  ∀ (s : State),
    let m := s.mgmt
    let set (x : Mgmt) : Host.Outcome State Fault Refusal := .next { s with mgmt := x }
    (m.powered = true → exec .powerGood s = .next s) ∧
    (m.powered = false → exec .powerGood s = set { m with powered := true, powerAt := s.clock }) ∧
    (∀ bit, m.powered = true → (∀ ok, s.args = [0, bit, ok] → bit < 51 →
      (ok ≠ 0 → let o := s.clusterOwner (bit - 16)
        ∃ t, exec .unitSelfTestComplete s = .next t ∧ t.mem = s.mem ∧ t.mgmt = { m with rdy0 := m.rdy0 ||| 1#64 <<< bit } ∧
          (bit < 16 ∨ 48 ≤ bit ∨ s.ready o = true → t = { s with mgmt := t.mgmt }) ∧
          (16 ≤ bit → bit < 48 → s.ready o = false → t.ready o = true → (t.fn o).readyAt = s.clock)) ∧
      (ok = 0 → bit < 50 → ∃ t, exec .unitSelfTestComplete s = .next t ∧ t.mem = s.mem ∧ t.mgmt.rdy0 = m.rdy0 ∧
        (t.mgmt.elog.get {} (if bit < 48 then bit else bit + 10)).elogs.getLsbD 0 = true)) ∧
      (s.args = [1, bit, 1] → electrical bit = true → (s.port bit).pctl.getLsbD 0 = true → (s.port bit).state = .down →
        ∃ t, exec .unitSelfTestComplete s = .next t ∧ t.mgmt.rdy1 = m.rdy1 ||| 1#64 <<< bit ∧ (t.port bit).state = .lock)) ∧
    (m.powered = false → exec .unitSelfTestComplete s = .next s) ∧
    (m.powered = true → m.i3cStarted = false → m.powerAt + 80000000 ≤ s.clock → exec .smbusFallback s = set { m with smbus := true }) ∧
    (m.powered = false ∨ m.i3cStarted = true ∨ s.clock < m.powerAt + 80000000 → exec .smbusFallback s = .next s) ∧
    (∀ p ∈ [(Instr.getVersion, 0x84), (.getCapabilities, 0xE1), (.negotiateAlgorithms, 0xE3), (.getDigests, 0x81), (.getCertificate, 0x82),
        (.challenge, 0x83), (.getMeasurements, 0xE0), (.keyExchange, 0xE4), (.finish, 0xE5)],
      ∃ a, exec p.1 s = set { m with spdm := m.spdm ++ [p.2], answers := m.answers ++ [a], i3cStarted := m.i3cStarted || !m.smbus }) ∧
    (∀ p kid, s.args = [p, kid] → (portExists p = false → exec .portKeySession s = .next s) ∧
      (portExists p = true → kid % 65536 ≠ 0 → ∃ t, exec .portKeySession s = .next t ∧ t = { s with ports := t.ports, tick := t.tick } ∧
        (t.port p).pending = some { kid := kid % 65536, secret := (t.port p).secret } ∧ ∀ r, r ≠ p → t.port r = s.port r)) ∧
    (∀ i, s.args = [i] →
      (1 ≤ i → i ≤ 3 → exec .firmwareImageInstall s =
        if Config.signatureHolds s.data = true then set { m with firmware := m.firmware.set i s.data } else .next s) ∧
      (i = 0 ∨ 3 < i → exec .firmwareImageInstall s = .next s) ∧
      (i < 60 → exec .elogClear s = set { m with elog := m.elog.set i { m.elog.get {} i with elogs := 0, eloga := 0 } }) ∧
      (i < 16 → ∃ t, exec .hbmScrub s = .next t ∧ t.mem = s.mem ∧ (∀ u d, (u, d) ∈ t.faulty ↔ (u, d) ∈ s.faulty ∧
        (d = true ∨ ¬(u < sliceBase ∧ Config.stackOf u % 16 = i))) ∧
        ((∃ u d, (u, d) ∈ s.faulty ∧ u < sliceBase ∧ Config.stackOf u % 16 = i) → (t.mgmt.elog.get {} i).elogs.getLsbD 0 = true)) ∧
      (i < 2 → ∃ t y, exec .hostLinkDown s = .next t ∧ t = { s with mgmt := { m with hostDown := m.hostDown ||| 1#2 <<< i }, events := s.events ++ [y] } ∧
        y.code = 0x0D ∧ y.rings = [0] ∧ y.info = BitVec.ofNat 64 i)) ∧
    (∀ w tj, s.args = [w, tj] → w < 65536 → tj < 256 →
      let cap := max 1000 (min 5000 (m.pwrcap.toNat % 65536))
      let level := if cap < w ∨ 105 ≤ tj then min 15 (m.throttle + 1) else if 100 * w < 98 * cap ∧ tj < 100 then m.throttle - 1 else m.throttle
      (tj < 115 ∨ m.tripped = true → exec .throttleUpdate s = set { m with pwr := w, tj := tj, throttle := level }) ∧
      (115 ≤ tj → m.tripped = false → ∃ t y, exec .throttleUpdate s = .next t ∧ t.mem = s.mem ∧
        t.mgmt = { m with pwr := w, tj := tj, throttle := level, tripped := true } ∧ t.events = s.events ++ [y] ∧ y.code = 0x0E ∧
        ∀ f, f < 64 → t.enabled f = false)) ∧
    (m.ev = .migrate ∨ m.ev = .drain → exec .evictctlGo s = .next s) ∧
    (m.ev = .idle ∨ m.ev = .failed ∨ m.ev = .safe →
      ((∃ f, 0 < f ∧ f < 64 ∧ s.enabled f = true ∧ (m.evlist.get 0 f).getLsbD 0 = false) → ∃ t, exec .evictctlGo s = .next t ∧ t.mem = s.mem ∧
        t.mgmt.ev = .failed ∧ t.mgmt.goAt = s.clock) ∧
      ((∀ f, 0 < f → f < 64 → s.enabled f = true → (m.evlist.get 0 f).getLsbD 0 = true) → ∃ t, exec .evictctlGo s = .next t ∧ t.mem = s.mem ∧
        t.mgmt.goAt = s.clock ∧
        ((∀ f, f < 64 → (m.evlist.get 0 f).getLsbD 0 = false) → t.mgmt.ev = .drain ∧
          ∀ p, portExists p = true → (s.port p).state = .active → (t.port p).state = .draining) ∧
        ((∃ f, f < 64 ∧ (m.evlist.get 0 f).getLsbD 0 = true) → t.mgmt.ev = .migrate))) ∧
    (∀ i p, s.args = [i] → s.inboxAt i = some p → let off := s.dropInbox i
      (∀ f, p.body = .arm f →
        ((∀ k, k < 4 → (s.session k).state ≠ .idle) → exec .evictArmRequest s = .next ((off.allowFor p).answerTo p (.armAns 1 f))) ∧
        ((s.session 0).state = .idle → m.arming = [] → m.save ≠ 0 → s.enabled p.dst.func = true → p.dst.func < 64 →
          s.canReceive p.dst.func (s.logicalParts p.dst.func) = true →
          ∃ t, exec .evictArmRequest s = .next t ∧ t.mem = s.mem ∧ (t.session 0).state = .receiving ∧ (t.session 0).func = p.dst.func ∧
            (t.session 0).saveBase = m.save / 65536 % 2 ^ 36 * 65536 ∧ (t.fn p.dst.func).notReady = true)) ∧
      (∀ f, p.body = .armAns 1 f → exec .evictArmRequest s = .next off) ∧
      (∀ f k t0, p.body = .armAns 0 f → m.arming = [(f, k, t0)] → off.goChecks k = true →
        ∃ t, exec .evictArmRequest s = .next t ∧ t.mem = s.mem ∧ t.mgmt.arming = [] ∧ (t.session k).state = .round)) ∧
    (∀ f k t0, s.args = [f] → m.arming = [(f, k, t0)] →
      (m.ev ≠ .migrate ∨ s.clock < t0 + 800000 → exec .evictArmRetry s = .next s) ∧
      (m.ev = .migrate → t0 + 800000 ≤ s.clock → ∃ t, exec .evictArmRetry s = .next t ∧ t.mem = s.mem ∧ t.mgmt.arming = [(f, k, s.clock)] ∧
        (s.isHere (s.evTarget f) = false → t.egress = s.egress ++
          [{ dst := s.evTarget f, src := s.ownTriple f, body := .arm f, since := s.clock }]))) ∧
    (m.ev = .migrate ∨ m.ev = .drain → m.goAt + 24000000000 ≤ s.clock → ∃ t, exec .evictTimeout s = .next t ∧ t.mem = s.mem ∧ t.mgmt.ev = .failed ∧
      t.mgmt.arming = []) ∧
    ((m.ev ≠ .migrate ∧ m.ev ≠ .drain) ∨ s.clock < m.goAt + 24000000000 → exec .evictTimeout s = .next s) ∧
    (∀ fn off size v, fn < 64 → s.args = [fn, off, size, v] → let f := s.fn fn
      (¬(size = 4 ∧ off % 4 = 0) → ¬(size = 8 ∧ off % 8 = 0) → exec .registerWrite s = .next s) ∧
      (0 < fn → 0x10000 ≤ off → exec .registerWrite s = .next s) ∧
      (f.resetting = true → off < 0x10000 → exec .registerWrite s = .next s) ∧
      (f.resetting = false →
        (off = 0x088 → size = 8 ∨ size = 4 → v < 128 → exec .registerWrite s = .next (s.setFn fn { f with vemask := BitVec.ofNat 64 v })) ∧
        (off = 0x08C → size = 4 → exec .registerWrite s = .next (if BitVec.ofNat 32 v = 0 then s else s.bumpRsv fn)) ∧
        (∀ i, i < 8 → off = 0x100 + 8 * i → size = 8 → v < 2 ^ 64 →
          exec .registerWrite s = .next (s.setFn fn { f with scbase := f.scbase.set i (BitVec.ofNat 64 v) })) ∧
        (off = 0x044 → size = 4 → v < 2 ^ 24 → exec .registerWrite s = .next (s.setFn fn { f with
          evbase := BitVec.ofNat 64 (v * 2 ^ 32 + f.evbase.toNat % 2 ^ 32) })) ∧
        (off = 0x3F8 → size = 8 → v < 2 ^ 64 → exec .registerWrite s = .next (if v = 0 then s else s.bumpRsv fn)))) ∧
    (∀ type op off v, s.args = [type, op, off, v] →
      let answered (a : List Byte) (x : Mgmt) : Mgmt := { x with answers := x.answers ++ [a], i3cStarted := x.i3cStarted || !x.smbus }
      (type ≠ 0x7E → exec .mctpDevicePageAccess s = set (answered [] m)) ∧
      (type = 0x7E → op = 0 → off = 0x3210 → exec .mctpDevicePageAccess s = set (answered (bytesOfNat 8 m.rdy0.toNat) m)) ∧
      (type = 0x7E → op = 1 → off = 0x3208 → v < 65536 →
        exec .mctpDevicePageAccess s = set (answered (List.replicate 8 0) { m with pwrcap := BitVec.ofNat 64 v })))

/-- R52: where the guard of a wave instruction holds in no member of its batch, the batch goes on at the next PC, and no register, latch,
predicate, byte of memory or other wave changes. The encodings that vector to the handler whatever their guard, and the matrix stream's,
are not such instructions. -/
def Obligations.GuardedOff : Prop :=
  ∀ (s : State) (i : Instr) (e : Enc) (c : Ctx) (opc : BitVec 8),
    Stands s i e c → c.acting = 0 → i.form = some (opc, e) →
    ¬ (0x58 ≤ opc.toNat ∧ opc.toNat ≤ 0x5C) → ¬ (0xB0 ≤ opc.toNat ∧ opc.toNat ≤ 0xBF) → opc ≠ 0xFF →
    (0xE1 ≤ opc.toNat ∧ opc.toNat ≤ 0xE4 → (s.ctxWave c).emdepth ≠ 0) →
    (∀ a ∈ (s.ctxWave c).acc, a.dst.regs = none) →
    ∃ t, exec i s = .next t ∧ WroteUniform s t c e []

/-- No instruction and no row stops the machine: a row of an engine, the host or a peer answers a next state from every state; a wave
instruction does for every wave that issues it, a stream instruction for every live stream (MXRD and MXWR issue in a wave), and no
instruction is refused. Only an encoded instruction that nobody issues answers the fault noIssuer. -/
def Obligations.NeverRefused : Prop :=
  ∀ (s : State) (i : Instr),
    ((∃ t, exec i s = .next t) ∨ (i.form.isSome = true ∧ exec i s = .fault .noIssuer)) ∧
    (i.form = none → ∃ t, exec i s = .next t) ∧
    ∀ opc e, i.form = some (opc, e) →
      (∀ c, s.ctx e = some c → streamOp opc.toNat = false ∨ mxOp opc.toNat = true → ∃ t, exec i s = .next t) ∧
      ∀ b m, s.cur = some (.stream b) → (s.block b).stream = some m → m.live = true →
        (streamOp opc.toNat = true ∧ mxOp opc.toNat = false) ∨ opc = 0 → ∃ t, exec i s = .next t

/-- R43, R44, R58: decoding the bytes of a well-formed encoded instruction gives it back, whatever bytes follow; and bytes that decode to an
instruction are the encoding of that instruction, which is well formed: no two instructions share a word. -/
def Obligations.EncodingRoundTrip : Prop :=
  (∀ (i : Instr) (bs rest : List Byte), i.wellFormed = true → encode i = some bs → decode (bs ++ rest) = .instr i) ∧
  ∀ (i : Instr) (bs : List Byte), decode bs = .instr i →
    i.wellFormed = true ∧ ∃ opc e, i.form = some (opc, e) ∧ e.len.bytes ≤ bs.length ∧ encode i = some (bs.take e.len.bytes)

/-- R43, R44, R63: words put together by hand from the encoding tables decode to the instructions they stand for, and LEN = 11 and an
opcode of no row to none. -/
def Obligations.SampleWords : Prop :=
  decodeTableWord 64 0x01FC8018140014F8 = some (.nlut { fn := 1, dst := 5, src0 := 3, src1 := 200, ver := 2, prd := 31 }) ∧
  decodeTableWord 64 0x01FDC020200004E8 = some (.bperm { dst := 8, src0 := 4, src1 := 220, ver := 2, prd := 31 }) ∧
  decodeTableWord 64 0x01F00600000000F8 = some (.pldm { src0 := 192, ver := 2, prd := 31 }) ∧
  decodeTableWord 64 0x01F0000004000088 = some (.split { dst := 1, ver := 2, prd := 31 }) ∧
  decodeTableWord 64 0x01F0000000000098 = some (.join { ver := 2, prd := 31 }) ∧
  decodeTableWord 96 0x0012000001F0000000000E09 = some (.trap { len := .l96, ver := 2, prd := 31, ext := 0x900 }) ∧
  decodeTableWord 64 0x01F0061000000E18 = some (.emrd { src0 := 194, ver := 2, prd := 31 }) ∧
  decodeTableWord 64 0x01F0461800000E28 = some (.emwr { src0 := 195, src1 := 4, ver := 2, prd := 31 }) ∧
  decodeTableWord 64 0x01F0001020000FF8 = some (.xop { dst := 8, src0 := 2, ver := 2, prd := 31 }) ∧
  decodeTableWord 64 0x01F0000000000003 = none ∧ decodeTableWord 64 0x01F00000000001B8 = none

/-- R58: where an agent has the turn, may issue, and the 32 bytes of the fetch block at its PC hold, at the PC's offset, the bytes of an
instruction that lies inside the block, with no older copy of the block left that a fetch may return, is not disabled and belongs to the agent's role, the step executes that instruction, in the state
that the settling and the translation of the PC leave. A row at the head of the agenda is what the step executes; where nothing is on the
agenda and no agent may issue, the step executes a row of the free choice, or nothing (the model's choice, log 4). -/
def Obligations.StepRunsDecoded : Prop :=
  (∀ (s : State) (a : Agent) (i : Instr) (opc : BitVec 8) (e : Enc) (x : Xlat) (u : State) (h : Nat),
    let t := s.begin.turn
    let r : State := { t.2 with cur := some a }
    let pc := (r.agentPc a).1.toNat
    let block := r.bytesAt (h - h % 32) 32
    t.1 = .agent a → t.2.issues a = true → i.form = some (opc, e) →
    translate r (r.xreq a.blk) pc .fetch = (.ok x, u) → r.walked u → x.place.host u (some a.blk) = some h →
    r.faulty = [] → r.poisonAt (h - h % 32) 32 = false →
    r.staleCode a.blk (r.coreOf a.blk) (h - h % 32) = [] →
    pc % 32 ≠ 28 → pc % 32 + e.len.bytes ≤ 32 → decode (block.drop (pc % 32)) = .instr i →
    (r.fn (r.block a.blk).fn).disabled opc.toNat (r.agentPc a).2 = false → r.roleAllows a (padsToEnd 4 block (pc % 32)) opc.toNat = true →
    ∃ v, step s = exec i v ∧ v = { r with tick := v.tick, cores := v.cores, clusters := v.clusters }) ∧
  (∀ (s : State) (p : Post) (ps : List Post), s.begin.agenda = p :: ps → p.step.form = none →
    step s = exec p.step { s.begin with agenda := ps, args := p.args, data := p.data }) ∧
  ∀ (s : State), s.begin.agenda = [] → s.begin.forced = none → s.begin.agents = [] →
    let t : State := { s.begin with tick := s.begin.tick + 2 }
    step s = match Config.freeRow (s.begin.tick + 1) with
      | some (i, xs, bs) => if i.form.isNone = true then exec i { t with args := xs, data := bs } else .next t
      | none => .next t

/-- R246, R296, R352, R356, R370, R422, R425, R432, R457, R493: after reset each register of a function's window, of its control page and of
the device page reads the value its table gives; no block, launch, task or unit exists. (CALINFO's ends, and FSTAT of function 0, which
owns every cluster, are left out.) -/
def Obligations.ResetValues : Prop :=
  (∀ f off, f < 64 → off < 0x10000 → off % 8 = 0 → f ≠ 0 ∨ off ≠ 0 →
    State.reset.windowRead f off 8 =
      if off = 0x48 ∨ off = 0x208 ∨ (0x1000 ≤ off ∧ off < 0x1200 ∧ off % 32 = 8) then 8
      else if off = 0x90 ∨ off = 0x248 then 2 else 0) ∧
  (∀ f off, f < 64 → off < 0x10000 → off % 8 = 0 →
    State.reset.windowRead 0 (0x400000 + f * 0x10000 + off) 8 =
      if off = 0x20 then 64 else if off = 0x40 ∧ f = 0 then 1 else if off = 0xA0 then 1000
      else if 0x1000 ≤ off ∧ off < 0x2000 ∧ off % 16 = 0 then 64 + 4096 * 2 ^ 16 + 2 ^ 20 * 2 ^ 32 else 0) ∧
  (∀ off, off < 0x10000 → off % 8 = 0 → off ≠ 0x2008 →
    State.reset.windowRead 0 (0x10000 + off) 8 =
      if 0x1000 ≤ off ∧ off < 0x1800 then 4096 * 2 ^ 16 + 2 ^ 20 * 2 ^ 32
      else if 0x2900 ≤ off ∧ off < 0x2A00 ∧ off % 64 = 8 then 0x00400810
      else if off = 0x3208 then 5000
      else if 0x4000 ≤ off ∧ off < 0x7000 ∧ off % 128 = 0 ∧ portExists ((off - 0x4000) / 128) = true then 0x80 else 0) ∧
  State.reset.blocks = [] ∧ State.reset.launches = [] ∧ State.reset.tasks = [] ∧ State.reset.conts = [] ∧ State.reset.units = [] ∧
  State.reset.msgs = [] ∧ State.reset.poisoned = [] ∧ State.reset.cur = none

/-- Every step keeps the memory in its canonical form, from every state. -/
def Obligations.StepKeepsMemory : Prop :=
  ∀ s t : State, s.memOk → step s = .next t → t.memOk
end

