-- ==== Sys2Proof/Laws/Tab.lean ====
section
/-!
SUPPORT. Sys2Proof/Laws/Tab.lean: reading a table and a memory after writing them, and the canonical forms that writing keeps.
-/

namespace Sys2Proof

/-- Reading a table after writing one key. -/
@[simp] theorem Tab.get_set {α : Type} (t : Tab α) (d v : α) (k j : Nat) :
    (Tab.set t k v).get d j = if k = j then v else t.get d j := by
  induction t with
  | nil => simp only [Tab.set, Tab.get]; split <;> simp
  | cons p r ih =>
    obtain ⟨i, u⟩ := p
    simp only [Tab.set]
    split
    · subst_vars; simp only [Tab.get]; grind
    · split
      · simp only [Tab.get]; grind
      · simp only [Tab.get, ih]; grind

/-- Reading a table at a key after writing that key. -/
theorem Tab.get_set_self {α : Type} (t : Tab α) (d v : α) (k : Nat) : (Tab.set t k v).get d k = v := by simp

/-- Reading a table as an option after writing one key. -/
@[simp] theorem Tab.get?_set {α : Type} (t : Tab α) (v : α) (k j : Nat) :
    (Tab.set t k v).get? j = if k = j then some v else t.get? j := by
  induction t with
  | nil => simp only [Tab.set, Tab.get?]; split <;> simp
  | cons p r ih =>
    obtain ⟨i, u⟩ := p
    simp only [Tab.set]
    split
    · subst_vars; simp only [Tab.get?]; grind
    · split
      · simp only [Tab.get?]; grind
      · simp only [Tab.get?, ih]; grind

/-- Reading an empty table. -/
@[simp] theorem Tab.get_nil {α : Type} (d : α) (k : Nat) : Tab.get ([] : Tab α) d k = d := rfl

/-- Writing twice at one key keeps the second value. -/
@[simp] theorem Tab.set_set {α : Type} (t : Tab α) (k : Nat) (u v : α) : (Tab.set t k u).set k v = t.set k v := by
  induction t with
  | nil => simp [Tab.set]
  | cons p r ih =>
    obtain ⟨i, w⟩ := p
    simp only [Tab.set]
    grind [Tab.set]

/-- Every key of a sorted table's rest lies above its first key. -/
theorem Tab.sorted_tail {α : Type} {p : Nat × α} {t : Tab α} (h : Tab.sorted (p :: t) = true) : t.sorted = true := by
  cases t with
  | nil => rfl
  | cons q r => simp only [Tab.sorted, Bool.and_eq_true] at h; exact h.2

/-- Writing keeps a table sorted. -/
theorem Tab.sorted_set {α : Type} (t : Tab α) (k : Nat) (v : α) (h : t.sorted = true) : (t.set k v).sorted = true := by
  induction t with
  | nil => rfl
  | cons p r ih =>
    obtain ⟨i, u⟩ := p
    simp only [Tab.set]
    split
    · subst_vars; cases r <;> simp_all [Tab.sorted]
    · split
      · cases r <;> simp_all [Tab.sorted]
      · have hr := ih (Tab.sorted_tail h)
        cases r with
        | nil => simp [Tab.set, Tab.sorted]; omega
        | cons q r =>
          obtain ⟨j, w⟩ := q
          simp only [Tab.set] at hr ⊢
          grind [Tab.sorted]

end Sys2Proof

namespace Sys2Proof.Machine

open Host

/-- The addresses of a canonical memory's rest lie above its first, and the rest is canonical. -/
theorem memory_wf_tail {p : Cell} {m : List Cell} (h : Memory.wf (p :: m) = true) : Memory.wf m = true := by
  cases m with
  | nil => rfl
  | cons q r => simp only [Memory.wf, Bool.and_eq_true] at h; exact h.2

/-- Below its first address a canonical memory reads as empty. -/
theorem memGet_below {m : List Cell} (h : Memory.wf m = true) {i : Nat} {b : BitVec 8} {x : Nat}
    (hm : Memory.wf ((i, b) :: m) = true) (hx : x ≤ i) : memGet m x = emptyByte := by
  cases m with
  | nil => rfl
  | cons q r =>
    obtain ⟨j, c⟩ := q
    simp only [Memory.wf, Bool.and_eq_true, decide_eq_true_eq] at hm
    simp only [memGet]
    have := hm.1.2
    rw [if_neg (by omega), if_pos (by omega)]

/-- Writing a byte keeps the canonical form. -/
theorem memSet_wf (m : List Cell) (a : Nat) (b : BitVec 8) (h : Memory.wf m = true) : Memory.wf (memSet m a b) = true := by
  induction m with
  | nil => simp only [memSet]; split <;> simp_all [Memory.wf]
  | cons p r ih =>
    obtain ⟨i, c⟩ := p
    have ht := memory_wf_tail h
    have hr := ih ht
    simp only [memSet]
    split
    · split
      · exact ht
      · cases r <;> simp_all [Memory.wf]
    · split
      · split <;> simp_all [Memory.wf]
      · cases r with
        | nil => simp only [memSet] at hr ⊢; split <;> simp_all [Memory.wf]; omega
        | cons q r =>
          obtain ⟨j, d⟩ := q
          simp only [memSet] at hr ⊢
          cases r <;> grind [Memory.wf]

/-- Reading a canonical memory after writing one byte. -/
theorem memGet_memSet {m : List Cell} (h : Memory.wf m = true) (a : Nat) (b : BitVec 8) (x : Nat) :
    memGet (memSet m a b) x = if a = x then b else memGet m x := by
  induction m with
  | nil => simp only [memSet]; split <;> simp_all [memGet]
  | cons p r ih =>
    obtain ⟨i, c⟩ := p
    have ht := memory_wf_tail h
    have hb (y : Nat) (hy : y ≤ i) : memGet r y = emptyByte := memGet_below ht h hy
    simp only [memSet]
    split
    · split
      · grind [memGet]
      · grind [memGet]
    · split
      · grind [memGet]
      · simp only [memGet, ih ht]; grind

/-- Writing bytes keeps the canonical form. -/
theorem memSetBytes_wf (m : List Cell) (a : Nat) (bs : List (BitVec 8)) (h : Memory.wf m = true) :
    Memory.wf (memSetBytes m a bs) = true := by
  induction bs generalizing m a with
  | nil => exact h
  | cons b r ih => exact ih _ _ (memSet_wf m a b h)

/-- Reading a canonical memory after writing bytes: the byte written, or the byte before. -/
theorem memGet_memSetBytes {m : List Cell} (h : Memory.wf m = true) (a : Nat) (bs : List (BitVec 8)) (x : Nat) :
    memGet (memSetBytes m a bs) x = if a ≤ x ∧ x < a + bs.length then bs.getD (x - a) 0 else memGet m x := by
  induction bs generalizing m a with
  | nil => simp [memSetBytes] <;> omega
  | cons b r ih =>
    simp only [memSetBytes, ih (memSet_wf m a b h), memGet_memSet h, List.length_cons]
    by_cases h1 : a = x
    · subst h1; simp <;> (intro h2; omega)
    · by_cases h2 : a + 1 ≤ x ∧ x < a + 1 + r.length
      · rw [if_pos h2, if_pos (by omega)]
        obtain ⟨k, hk⟩ : ∃ k, x - a = k + 1 := ⟨x - a - 1, by omega⟩
        rw [hk, show x - (a + 1) = k by omega]; simp
      · rw [if_neg h2, if_neg h1, if_neg (by omega)]

end Sys2Proof.Machine
end

