-- ==== Sys2Proof/Laws/State.lean ====
section
/-!
SUPPORT. Sys2Proof/Laws/State.lean: each field of the state and of a wave after each of their plain updates.
-/

namespace Sys2Proof.Machine

/-! ### Tables of the device -/

@[simp] theorem State.setFn_mem (s : State) (f : Nat) (x : Fn) : (s.setFn f x).mem = s.mem := rfl
@[simp] theorem State.setFn_poisoned (s : State) (f : Nat) (x : Fn) : (s.setFn f x).poisoned = s.poisoned := rfl
@[simp] theorem State.setFn_codeOld (s : State) (f : Nat) (x : Fn) : (s.setFn f x).codeOld = s.codeOld := rfl
@[simp] theorem State.setFn_blocks (s : State) (f : Nat) (x : Fn) : (s.setFn f x).blocks = s.blocks := rfl
@[simp] theorem State.setFn_cores (s : State) (f : Nat) (x : Fn) : (s.setFn f x).cores = s.cores := rfl
@[simp] theorem State.setFn_clusters (s : State) (f : Nat) (x : Fn) : (s.setFn f x).clusters = s.clusters := rfl
@[simp] theorem State.setFn_cur (s : State) (f : Nat) (x : Fn) : (s.setFn f x).cur = s.cur := rfl
@[simp] theorem State.setFn_forced (s : State) (f : Nat) (x : Fn) : (s.setFn f x).forced = s.forced := rfl
@[simp] theorem State.setFn_agenda (s : State) (f : Nat) (x : Fn) : (s.setFn f x).agenda = s.agenda := rfl
@[simp] theorem State.setFn_args (s : State) (f : Nat) (x : Fn) : (s.setFn f x).args = s.args := rfl
@[simp] theorem State.setFn_data (s : State) (f : Nat) (x : Fn) : (s.setFn f x).data = s.data := rfl
@[simp] theorem State.setFn_clock (s : State) (f : Nat) (x : Fn) : (s.setFn f x).clock = s.clock := rfl
@[simp] theorem State.setFn_tick (s : State) (f : Nat) (x : Fn) : (s.setFn f x).tick = s.tick := rfl
@[simp] theorem State.setFn_serial (s : State) (f : Nat) (x : Fn) : (s.setFn f x).serial = s.serial := rfl
@[simp] theorem State.setFn_clown (s : State) (f : Nat) (x : Fn) : (s.setFn f x).clown = s.clown := rfl
@[simp] theorem State.setFn_spart (s : State) (f : Nat) (x : Fn) : (s.setFn f x).spart = s.spart := rfl
@[simp] theorem State.setFn_tasks (s : State) (f : Nat) (x : Fn) : (s.setFn f x).tasks = s.tasks := rfl
@[simp] theorem State.setFn_conts (s : State) (f : Nat) (x : Fn) : (s.setFn f x).conts = s.conts := rfl
@[simp] theorem State.setFn_stackQ (s : State) (f : Nat) (x : Fn) : (s.setFn f x).stackQ = s.stackQ := rfl
@[simp] theorem State.setFn_units (s : State) (f : Nat) (x : Fn) : (s.setFn f x).units = s.units := rfl
@[simp] theorem State.setFn_versions (s : State) (f : Nat) (x : Fn) : (s.setFn f x).versions = s.versions := rfl
@[simp] theorem State.setFn_launches (s : State) (f : Nat) (x : Fn) : (s.setFn f x).launches = s.launches := rfl
@[simp] theorem State.setFn_restores (s : State) (f : Nat) (x : Fn) : (s.setFn f x).restores = s.restores := rfl
@[simp] theorem State.setFn_draining (s : State) (f : Nat) (x : Fn) : (s.setFn f x).draining = s.draining := rfl
@[simp] theorem State.setFn_events (s : State) (f : Nat) (x : Fn) : (s.setFn f x).events = s.events := rfl
@[simp] theorem State.setFn_former (s : State) (f : Nat) (x : Fn) : (s.setFn f x).former = s.former := rfl
@[simp] theorem State.setFn_grp (s : State) (f : Nat) (x : Fn) : (s.setFn f x).grp = s.grp := rfl
@[simp] theorem State.setFn_member (s : State) (f : Nat) (x : Fn) : (s.setFn f x).member = s.member := rfl
@[simp] theorem State.setFn_egress (s : State) (f : Nat) (x : Fn) : (s.setFn f x).egress = s.egress := rfl
@[simp] theorem State.setFn_inbox (s : State) (f : Nat) (x : Fn) : (s.setFn f x).inbox = s.inbox := rfl
@[simp] theorem State.setFn_channels (s : State) (f : Nat) (x : Fn) : (s.setFn f x).channels = s.channels := rfl
@[simp] theorem State.setFn_msgs (s : State) (f : Nat) (x : Fn) : (s.setFn f x).msgs = s.msgs := rfl
@[simp] theorem State.setFn_inmsgs (s : State) (f : Nat) (x : Fn) : (s.setFn f x).inmsgs = s.inmsgs := rfl
@[simp] theorem State.setFn_seqOut (s : State) (f : Nat) (x : Fn) : (s.setFn f x).seqOut = s.seqOut := rfl
@[simp] theorem State.setFn_seen (s : State) (f : Nat) (x : Fn) : (s.setFn f x).seen = s.seen := rfl
@[simp] theorem State.setFn_rresvs (s : State) (f : Nat) (x : Fn) : (s.setFn f x).rresvs = s.rresvs := rfl
@[simp] theorem State.setFn_marked (s : State) (f : Nat) (x : Fn) : (s.setFn f x).marked = s.marked := rfl
@[simp] theorem State.setFn_ports (s : State) (f : Nat) (x : Fn) : (s.setFn f x).ports = s.ports := rfl
@[simp] theorem State.setFn_rtAct (s : State) (f : Nat) (x : Fn) : (s.setFn f x).rtAct = s.rtAct := rfl
@[simp] theorem State.setFn_rtgrp (s : State) (f : Nat) (x : Fn) : (s.setFn f x).rtgrp = s.rtgrp := rfl
@[simp] theorem State.setFn_rtmem (s : State) (f : Nat) (x : Fn) : (s.setFn f x).rtmem = s.rtmem := rfl
@[simp] theorem State.setFn_rtgrpB (s : State) (f : Nat) (x : Fn) : (s.setFn f x).rtgrpB = s.rtgrpB := rfl
@[simp] theorem State.setFn_rtmemB (s : State) (f : Nat) (x : Fn) : (s.setFn f x).rtmemB = s.rtmemB := rfl
@[simp] theorem State.setFn_dbmap (s : State) (f : Nat) (x : Fn) : (s.setFn f x).dbmap = s.dbmap := rfl
@[simp] theorem State.setFn_sessions (s : State) (f : Nat) (x : Fn) : (s.setFn f x).sessions = s.sessions := rfl
@[simp] theorem State.setFn_moved (s : State) (f : Nat) (x : Fn) : (s.setFn f x).moved = s.moved := rfl
@[simp] theorem State.setFn_calidx (s : State) (f : Nat) (x : Fn) : (s.setFn f x).calidx = s.calidx := rfl
@[simp] theorem State.setFn_calShadow (s : State) (f : Nat) (x : Fn) : (s.setFn f x).calShadow = s.calShadow := rfl
@[simp] theorem State.setFn_cals (s : State) (f : Nat) (x : Fn) : (s.setFn f x).cals = s.cals := rfl
@[simp] theorem State.setFn_calWait (s : State) (f : Nat) (x : Fn) : (s.setFn f x).calWait = s.calWait := rfl
@[simp] theorem State.setFn_mgmt (s : State) (f : Nat) (x : Fn) : (s.setFn f x).mgmt = s.mgmt := rfl
@[simp] theorem State.setFn_faulty (s : State) (f : Nat) (x : Fn) : (s.setFn f x).faulty = s.faulty := rfl

@[simp] theorem State.setBlock_mem (s : State) (b : Nat) (x : Block) : (s.setBlock b x).mem = s.mem := rfl
@[simp] theorem State.setBlock_poisoned (s : State) (b : Nat) (x : Block) : (s.setBlock b x).poisoned = s.poisoned := rfl
@[simp] theorem State.setBlock_codeOld (s : State) (b : Nat) (x : Block) : (s.setBlock b x).codeOld = s.codeOld := rfl
@[simp] theorem State.setBlock_fns (s : State) (b : Nat) (x : Block) : (s.setBlock b x).fns = s.fns := rfl
@[simp] theorem State.setBlock_cores (s : State) (b : Nat) (x : Block) : (s.setBlock b x).cores = s.cores := rfl
@[simp] theorem State.setBlock_clusters (s : State) (b : Nat) (x : Block) : (s.setBlock b x).clusters = s.clusters := rfl
@[simp] theorem State.setBlock_cur (s : State) (b : Nat) (x : Block) : (s.setBlock b x).cur = s.cur := rfl
@[simp] theorem State.setBlock_forced (s : State) (b : Nat) (x : Block) : (s.setBlock b x).forced = s.forced := rfl
@[simp] theorem State.setBlock_agenda (s : State) (b : Nat) (x : Block) : (s.setBlock b x).agenda = s.agenda := rfl
@[simp] theorem State.setBlock_args (s : State) (b : Nat) (x : Block) : (s.setBlock b x).args = s.args := rfl
@[simp] theorem State.setBlock_data (s : State) (b : Nat) (x : Block) : (s.setBlock b x).data = s.data := rfl
@[simp] theorem State.setBlock_clock (s : State) (b : Nat) (x : Block) : (s.setBlock b x).clock = s.clock := rfl
@[simp] theorem State.setBlock_tick (s : State) (b : Nat) (x : Block) : (s.setBlock b x).tick = s.tick := rfl
@[simp] theorem State.setBlock_serial (s : State) (b : Nat) (x : Block) : (s.setBlock b x).serial = s.serial := rfl
@[simp] theorem State.setBlock_clown (s : State) (b : Nat) (x : Block) : (s.setBlock b x).clown = s.clown := rfl
@[simp] theorem State.setBlock_spart (s : State) (b : Nat) (x : Block) : (s.setBlock b x).spart = s.spart := rfl
@[simp] theorem State.setBlock_tasks (s : State) (b : Nat) (x : Block) : (s.setBlock b x).tasks = s.tasks := rfl
@[simp] theorem State.setBlock_conts (s : State) (b : Nat) (x : Block) : (s.setBlock b x).conts = s.conts := rfl
@[simp] theorem State.setBlock_stackQ (s : State) (b : Nat) (x : Block) : (s.setBlock b x).stackQ = s.stackQ := rfl
@[simp] theorem State.setBlock_units (s : State) (b : Nat) (x : Block) : (s.setBlock b x).units = s.units := rfl
@[simp] theorem State.setBlock_versions (s : State) (b : Nat) (x : Block) : (s.setBlock b x).versions = s.versions := rfl
@[simp] theorem State.setBlock_launches (s : State) (b : Nat) (x : Block) : (s.setBlock b x).launches = s.launches := rfl
@[simp] theorem State.setBlock_restores (s : State) (b : Nat) (x : Block) : (s.setBlock b x).restores = s.restores := rfl
@[simp] theorem State.setBlock_draining (s : State) (b : Nat) (x : Block) : (s.setBlock b x).draining = s.draining := rfl
@[simp] theorem State.setBlock_events (s : State) (b : Nat) (x : Block) : (s.setBlock b x).events = s.events := rfl
@[simp] theorem State.setBlock_former (s : State) (b : Nat) (x : Block) : (s.setBlock b x).former = s.former := rfl
@[simp] theorem State.setBlock_grp (s : State) (b : Nat) (x : Block) : (s.setBlock b x).grp = s.grp := rfl
@[simp] theorem State.setBlock_member (s : State) (b : Nat) (x : Block) : (s.setBlock b x).member = s.member := rfl
@[simp] theorem State.setBlock_egress (s : State) (b : Nat) (x : Block) : (s.setBlock b x).egress = s.egress := rfl
@[simp] theorem State.setBlock_inbox (s : State) (b : Nat) (x : Block) : (s.setBlock b x).inbox = s.inbox := rfl
@[simp] theorem State.setBlock_channels (s : State) (b : Nat) (x : Block) : (s.setBlock b x).channels = s.channels := rfl
@[simp] theorem State.setBlock_msgs (s : State) (b : Nat) (x : Block) : (s.setBlock b x).msgs = s.msgs := rfl
@[simp] theorem State.setBlock_inmsgs (s : State) (b : Nat) (x : Block) : (s.setBlock b x).inmsgs = s.inmsgs := rfl
@[simp] theorem State.setBlock_seqOut (s : State) (b : Nat) (x : Block) : (s.setBlock b x).seqOut = s.seqOut := rfl
@[simp] theorem State.setBlock_seen (s : State) (b : Nat) (x : Block) : (s.setBlock b x).seen = s.seen := rfl
@[simp] theorem State.setBlock_rresvs (s : State) (b : Nat) (x : Block) : (s.setBlock b x).rresvs = s.rresvs := rfl
@[simp] theorem State.setBlock_marked (s : State) (b : Nat) (x : Block) : (s.setBlock b x).marked = s.marked := rfl
@[simp] theorem State.setBlock_ports (s : State) (b : Nat) (x : Block) : (s.setBlock b x).ports = s.ports := rfl
@[simp] theorem State.setBlock_rtAct (s : State) (b : Nat) (x : Block) : (s.setBlock b x).rtAct = s.rtAct := rfl
@[simp] theorem State.setBlock_rtgrp (s : State) (b : Nat) (x : Block) : (s.setBlock b x).rtgrp = s.rtgrp := rfl
@[simp] theorem State.setBlock_rtmem (s : State) (b : Nat) (x : Block) : (s.setBlock b x).rtmem = s.rtmem := rfl
@[simp] theorem State.setBlock_rtgrpB (s : State) (b : Nat) (x : Block) : (s.setBlock b x).rtgrpB = s.rtgrpB := rfl
@[simp] theorem State.setBlock_rtmemB (s : State) (b : Nat) (x : Block) : (s.setBlock b x).rtmemB = s.rtmemB := rfl
@[simp] theorem State.setBlock_dbmap (s : State) (b : Nat) (x : Block) : (s.setBlock b x).dbmap = s.dbmap := rfl
@[simp] theorem State.setBlock_sessions (s : State) (b : Nat) (x : Block) : (s.setBlock b x).sessions = s.sessions := rfl
@[simp] theorem State.setBlock_moved (s : State) (b : Nat) (x : Block) : (s.setBlock b x).moved = s.moved := rfl
@[simp] theorem State.setBlock_calidx (s : State) (b : Nat) (x : Block) : (s.setBlock b x).calidx = s.calidx := rfl
@[simp] theorem State.setBlock_calShadow (s : State) (b : Nat) (x : Block) : (s.setBlock b x).calShadow = s.calShadow := rfl
@[simp] theorem State.setBlock_cals (s : State) (b : Nat) (x : Block) : (s.setBlock b x).cals = s.cals := rfl
@[simp] theorem State.setBlock_calWait (s : State) (b : Nat) (x : Block) : (s.setBlock b x).calWait = s.calWait := rfl
@[simp] theorem State.setBlock_mgmt (s : State) (b : Nat) (x : Block) : (s.setBlock b x).mgmt = s.mgmt := rfl
@[simp] theorem State.setBlock_faulty (s : State) (b : Nat) (x : Block) : (s.setBlock b x).faulty = s.faulty := rfl

@[simp] theorem State.setCore_mem (s : State) (c : Nat) (x : Core) : (s.setCore c x).mem = s.mem := rfl
@[simp] theorem State.setCore_poisoned (s : State) (c : Nat) (x : Core) : (s.setCore c x).poisoned = s.poisoned := rfl
@[simp] theorem State.setCore_codeOld (s : State) (c : Nat) (x : Core) : (s.setCore c x).codeOld = s.codeOld := rfl
@[simp] theorem State.setCore_fns (s : State) (c : Nat) (x : Core) : (s.setCore c x).fns = s.fns := rfl
@[simp] theorem State.setCore_blocks (s : State) (c : Nat) (x : Core) : (s.setCore c x).blocks = s.blocks := rfl
@[simp] theorem State.setCore_clusters (s : State) (c : Nat) (x : Core) : (s.setCore c x).clusters = s.clusters := rfl
@[simp] theorem State.setCore_cur (s : State) (c : Nat) (x : Core) : (s.setCore c x).cur = s.cur := rfl
@[simp] theorem State.setCore_forced (s : State) (c : Nat) (x : Core) : (s.setCore c x).forced = s.forced := rfl
@[simp] theorem State.setCore_agenda (s : State) (c : Nat) (x : Core) : (s.setCore c x).agenda = s.agenda := rfl
@[simp] theorem State.setCore_args (s : State) (c : Nat) (x : Core) : (s.setCore c x).args = s.args := rfl
@[simp] theorem State.setCore_data (s : State) (c : Nat) (x : Core) : (s.setCore c x).data = s.data := rfl
@[simp] theorem State.setCore_clock (s : State) (c : Nat) (x : Core) : (s.setCore c x).clock = s.clock := rfl
@[simp] theorem State.setCore_tick (s : State) (c : Nat) (x : Core) : (s.setCore c x).tick = s.tick := rfl
@[simp] theorem State.setCore_serial (s : State) (c : Nat) (x : Core) : (s.setCore c x).serial = s.serial := rfl
@[simp] theorem State.setCore_clown (s : State) (c : Nat) (x : Core) : (s.setCore c x).clown = s.clown := rfl
@[simp] theorem State.setCore_spart (s : State) (c : Nat) (x : Core) : (s.setCore c x).spart = s.spart := rfl
@[simp] theorem State.setCore_tasks (s : State) (c : Nat) (x : Core) : (s.setCore c x).tasks = s.tasks := rfl
@[simp] theorem State.setCore_conts (s : State) (c : Nat) (x : Core) : (s.setCore c x).conts = s.conts := rfl
@[simp] theorem State.setCore_stackQ (s : State) (c : Nat) (x : Core) : (s.setCore c x).stackQ = s.stackQ := rfl
@[simp] theorem State.setCore_units (s : State) (c : Nat) (x : Core) : (s.setCore c x).units = s.units := rfl
@[simp] theorem State.setCore_versions (s : State) (c : Nat) (x : Core) : (s.setCore c x).versions = s.versions := rfl
@[simp] theorem State.setCore_launches (s : State) (c : Nat) (x : Core) : (s.setCore c x).launches = s.launches := rfl
@[simp] theorem State.setCore_restores (s : State) (c : Nat) (x : Core) : (s.setCore c x).restores = s.restores := rfl
@[simp] theorem State.setCore_draining (s : State) (c : Nat) (x : Core) : (s.setCore c x).draining = s.draining := rfl
@[simp] theorem State.setCore_events (s : State) (c : Nat) (x : Core) : (s.setCore c x).events = s.events := rfl
@[simp] theorem State.setCore_former (s : State) (c : Nat) (x : Core) : (s.setCore c x).former = s.former := rfl
@[simp] theorem State.setCore_grp (s : State) (c : Nat) (x : Core) : (s.setCore c x).grp = s.grp := rfl
@[simp] theorem State.setCore_member (s : State) (c : Nat) (x : Core) : (s.setCore c x).member = s.member := rfl
@[simp] theorem State.setCore_egress (s : State) (c : Nat) (x : Core) : (s.setCore c x).egress = s.egress := rfl
@[simp] theorem State.setCore_inbox (s : State) (c : Nat) (x : Core) : (s.setCore c x).inbox = s.inbox := rfl
@[simp] theorem State.setCore_channels (s : State) (c : Nat) (x : Core) : (s.setCore c x).channels = s.channels := rfl
@[simp] theorem State.setCore_msgs (s : State) (c : Nat) (x : Core) : (s.setCore c x).msgs = s.msgs := rfl
@[simp] theorem State.setCore_inmsgs (s : State) (c : Nat) (x : Core) : (s.setCore c x).inmsgs = s.inmsgs := rfl
@[simp] theorem State.setCore_seqOut (s : State) (c : Nat) (x : Core) : (s.setCore c x).seqOut = s.seqOut := rfl
@[simp] theorem State.setCore_seen (s : State) (c : Nat) (x : Core) : (s.setCore c x).seen = s.seen := rfl
@[simp] theorem State.setCore_rresvs (s : State) (c : Nat) (x : Core) : (s.setCore c x).rresvs = s.rresvs := rfl
@[simp] theorem State.setCore_marked (s : State) (c : Nat) (x : Core) : (s.setCore c x).marked = s.marked := rfl
@[simp] theorem State.setCore_ports (s : State) (c : Nat) (x : Core) : (s.setCore c x).ports = s.ports := rfl
@[simp] theorem State.setCore_rtAct (s : State) (c : Nat) (x : Core) : (s.setCore c x).rtAct = s.rtAct := rfl
@[simp] theorem State.setCore_rtgrp (s : State) (c : Nat) (x : Core) : (s.setCore c x).rtgrp = s.rtgrp := rfl
@[simp] theorem State.setCore_rtmem (s : State) (c : Nat) (x : Core) : (s.setCore c x).rtmem = s.rtmem := rfl
@[simp] theorem State.setCore_rtgrpB (s : State) (c : Nat) (x : Core) : (s.setCore c x).rtgrpB = s.rtgrpB := rfl
@[simp] theorem State.setCore_rtmemB (s : State) (c : Nat) (x : Core) : (s.setCore c x).rtmemB = s.rtmemB := rfl
@[simp] theorem State.setCore_dbmap (s : State) (c : Nat) (x : Core) : (s.setCore c x).dbmap = s.dbmap := rfl
@[simp] theorem State.setCore_sessions (s : State) (c : Nat) (x : Core) : (s.setCore c x).sessions = s.sessions := rfl
@[simp] theorem State.setCore_moved (s : State) (c : Nat) (x : Core) : (s.setCore c x).moved = s.moved := rfl
@[simp] theorem State.setCore_calidx (s : State) (c : Nat) (x : Core) : (s.setCore c x).calidx = s.calidx := rfl
@[simp] theorem State.setCore_calShadow (s : State) (c : Nat) (x : Core) : (s.setCore c x).calShadow = s.calShadow := rfl
@[simp] theorem State.setCore_cals (s : State) (c : Nat) (x : Core) : (s.setCore c x).cals = s.cals := rfl
@[simp] theorem State.setCore_calWait (s : State) (c : Nat) (x : Core) : (s.setCore c x).calWait = s.calWait := rfl
@[simp] theorem State.setCore_mgmt (s : State) (c : Nat) (x : Core) : (s.setCore c x).mgmt = s.mgmt := rfl
@[simp] theorem State.setCore_faulty (s : State) (c : Nat) (x : Core) : (s.setCore c x).faulty = s.faulty := rfl

@[simp] theorem State.setCluster_mem (s : State) (k : Nat) (x : Cluster) : (s.setCluster k x).mem = s.mem := rfl
@[simp] theorem State.setCluster_poisoned (s : State) (k : Nat) (x : Cluster) : (s.setCluster k x).poisoned = s.poisoned := rfl
@[simp] theorem State.setCluster_codeOld (s : State) (k : Nat) (x : Cluster) : (s.setCluster k x).codeOld = s.codeOld := rfl
@[simp] theorem State.setCluster_fns (s : State) (k : Nat) (x : Cluster) : (s.setCluster k x).fns = s.fns := rfl
@[simp] theorem State.setCluster_blocks (s : State) (k : Nat) (x : Cluster) : (s.setCluster k x).blocks = s.blocks := rfl
@[simp] theorem State.setCluster_cores (s : State) (k : Nat) (x : Cluster) : (s.setCluster k x).cores = s.cores := rfl
@[simp] theorem State.setCluster_cur (s : State) (k : Nat) (x : Cluster) : (s.setCluster k x).cur = s.cur := rfl
@[simp] theorem State.setCluster_forced (s : State) (k : Nat) (x : Cluster) : (s.setCluster k x).forced = s.forced := rfl
@[simp] theorem State.setCluster_agenda (s : State) (k : Nat) (x : Cluster) : (s.setCluster k x).agenda = s.agenda := rfl
@[simp] theorem State.setCluster_args (s : State) (k : Nat) (x : Cluster) : (s.setCluster k x).args = s.args := rfl
@[simp] theorem State.setCluster_data (s : State) (k : Nat) (x : Cluster) : (s.setCluster k x).data = s.data := rfl
@[simp] theorem State.setCluster_clock (s : State) (k : Nat) (x : Cluster) : (s.setCluster k x).clock = s.clock := rfl
@[simp] theorem State.setCluster_tick (s : State) (k : Nat) (x : Cluster) : (s.setCluster k x).tick = s.tick := rfl
@[simp] theorem State.setCluster_serial (s : State) (k : Nat) (x : Cluster) : (s.setCluster k x).serial = s.serial := rfl
@[simp] theorem State.setCluster_clown (s : State) (k : Nat) (x : Cluster) : (s.setCluster k x).clown = s.clown := rfl
@[simp] theorem State.setCluster_spart (s : State) (k : Nat) (x : Cluster) : (s.setCluster k x).spart = s.spart := rfl
@[simp] theorem State.setCluster_tasks (s : State) (k : Nat) (x : Cluster) : (s.setCluster k x).tasks = s.tasks := rfl
@[simp] theorem State.setCluster_conts (s : State) (k : Nat) (x : Cluster) : (s.setCluster k x).conts = s.conts := rfl
@[simp] theorem State.setCluster_stackQ (s : State) (k : Nat) (x : Cluster) : (s.setCluster k x).stackQ = s.stackQ := rfl
@[simp] theorem State.setCluster_units (s : State) (k : Nat) (x : Cluster) : (s.setCluster k x).units = s.units := rfl
@[simp] theorem State.setCluster_versions (s : State) (k : Nat) (x : Cluster) : (s.setCluster k x).versions = s.versions := rfl
@[simp] theorem State.setCluster_launches (s : State) (k : Nat) (x : Cluster) : (s.setCluster k x).launches = s.launches := rfl
@[simp] theorem State.setCluster_restores (s : State) (k : Nat) (x : Cluster) : (s.setCluster k x).restores = s.restores := rfl
@[simp] theorem State.setCluster_draining (s : State) (k : Nat) (x : Cluster) : (s.setCluster k x).draining = s.draining := rfl
@[simp] theorem State.setCluster_events (s : State) (k : Nat) (x : Cluster) : (s.setCluster k x).events = s.events := rfl
@[simp] theorem State.setCluster_former (s : State) (k : Nat) (x : Cluster) : (s.setCluster k x).former = s.former := rfl
@[simp] theorem State.setCluster_grp (s : State) (k : Nat) (x : Cluster) : (s.setCluster k x).grp = s.grp := rfl
@[simp] theorem State.setCluster_member (s : State) (k : Nat) (x : Cluster) : (s.setCluster k x).member = s.member := rfl
@[simp] theorem State.setCluster_egress (s : State) (k : Nat) (x : Cluster) : (s.setCluster k x).egress = s.egress := rfl
@[simp] theorem State.setCluster_inbox (s : State) (k : Nat) (x : Cluster) : (s.setCluster k x).inbox = s.inbox := rfl
@[simp] theorem State.setCluster_channels (s : State) (k : Nat) (x : Cluster) : (s.setCluster k x).channels = s.channels := rfl
@[simp] theorem State.setCluster_msgs (s : State) (k : Nat) (x : Cluster) : (s.setCluster k x).msgs = s.msgs := rfl
@[simp] theorem State.setCluster_inmsgs (s : State) (k : Nat) (x : Cluster) : (s.setCluster k x).inmsgs = s.inmsgs := rfl
@[simp] theorem State.setCluster_seqOut (s : State) (k : Nat) (x : Cluster) : (s.setCluster k x).seqOut = s.seqOut := rfl
@[simp] theorem State.setCluster_seen (s : State) (k : Nat) (x : Cluster) : (s.setCluster k x).seen = s.seen := rfl
@[simp] theorem State.setCluster_rresvs (s : State) (k : Nat) (x : Cluster) : (s.setCluster k x).rresvs = s.rresvs := rfl
@[simp] theorem State.setCluster_marked (s : State) (k : Nat) (x : Cluster) : (s.setCluster k x).marked = s.marked := rfl
@[simp] theorem State.setCluster_ports (s : State) (k : Nat) (x : Cluster) : (s.setCluster k x).ports = s.ports := rfl
@[simp] theorem State.setCluster_rtAct (s : State) (k : Nat) (x : Cluster) : (s.setCluster k x).rtAct = s.rtAct := rfl
@[simp] theorem State.setCluster_rtgrp (s : State) (k : Nat) (x : Cluster) : (s.setCluster k x).rtgrp = s.rtgrp := rfl
@[simp] theorem State.setCluster_rtmem (s : State) (k : Nat) (x : Cluster) : (s.setCluster k x).rtmem = s.rtmem := rfl
@[simp] theorem State.setCluster_rtgrpB (s : State) (k : Nat) (x : Cluster) : (s.setCluster k x).rtgrpB = s.rtgrpB := rfl
@[simp] theorem State.setCluster_rtmemB (s : State) (k : Nat) (x : Cluster) : (s.setCluster k x).rtmemB = s.rtmemB := rfl
@[simp] theorem State.setCluster_dbmap (s : State) (k : Nat) (x : Cluster) : (s.setCluster k x).dbmap = s.dbmap := rfl
@[simp] theorem State.setCluster_sessions (s : State) (k : Nat) (x : Cluster) : (s.setCluster k x).sessions = s.sessions := rfl
@[simp] theorem State.setCluster_moved (s : State) (k : Nat) (x : Cluster) : (s.setCluster k x).moved = s.moved := rfl
@[simp] theorem State.setCluster_calidx (s : State) (k : Nat) (x : Cluster) : (s.setCluster k x).calidx = s.calidx := rfl
@[simp] theorem State.setCluster_calShadow (s : State) (k : Nat) (x : Cluster) : (s.setCluster k x).calShadow = s.calShadow := rfl
@[simp] theorem State.setCluster_cals (s : State) (k : Nat) (x : Cluster) : (s.setCluster k x).cals = s.cals := rfl
@[simp] theorem State.setCluster_calWait (s : State) (k : Nat) (x : Cluster) : (s.setCluster k x).calWait = s.calWait := rfl
@[simp] theorem State.setCluster_mgmt (s : State) (k : Nat) (x : Cluster) : (s.setCluster k x).mgmt = s.mgmt := rfl
@[simp] theorem State.setCluster_faulty (s : State) (k : Nat) (x : Cluster) : (s.setCluster k x).faulty = s.faulty := rfl

@[simp] theorem State.setWave_mem (s : State) (b w : Nat) (x : Wave) : (s.setWave b w x).mem = s.mem := rfl
@[simp] theorem State.setWave_poisoned (s : State) (b w : Nat) (x : Wave) : (s.setWave b w x).poisoned = s.poisoned := rfl
@[simp] theorem State.setWave_codeOld (s : State) (b w : Nat) (x : Wave) : (s.setWave b w x).codeOld = s.codeOld := rfl
@[simp] theorem State.setWave_fns (s : State) (b w : Nat) (x : Wave) : (s.setWave b w x).fns = s.fns := rfl
@[simp] theorem State.setWave_cores (s : State) (b w : Nat) (x : Wave) : (s.setWave b w x).cores = s.cores := rfl
@[simp] theorem State.setWave_clusters (s : State) (b w : Nat) (x : Wave) : (s.setWave b w x).clusters = s.clusters := rfl
@[simp] theorem State.setWave_cur (s : State) (b w : Nat) (x : Wave) : (s.setWave b w x).cur = s.cur := rfl
@[simp] theorem State.setWave_forced (s : State) (b w : Nat) (x : Wave) : (s.setWave b w x).forced = s.forced := rfl
@[simp] theorem State.setWave_agenda (s : State) (b w : Nat) (x : Wave) : (s.setWave b w x).agenda = s.agenda := rfl
@[simp] theorem State.setWave_args (s : State) (b w : Nat) (x : Wave) : (s.setWave b w x).args = s.args := rfl
@[simp] theorem State.setWave_data (s : State) (b w : Nat) (x : Wave) : (s.setWave b w x).data = s.data := rfl
@[simp] theorem State.setWave_clock (s : State) (b w : Nat) (x : Wave) : (s.setWave b w x).clock = s.clock := rfl
@[simp] theorem State.setWave_tick (s : State) (b w : Nat) (x : Wave) : (s.setWave b w x).tick = s.tick := rfl
@[simp] theorem State.setWave_serial (s : State) (b w : Nat) (x : Wave) : (s.setWave b w x).serial = s.serial := rfl
@[simp] theorem State.setWave_clown (s : State) (b w : Nat) (x : Wave) : (s.setWave b w x).clown = s.clown := rfl
@[simp] theorem State.setWave_spart (s : State) (b w : Nat) (x : Wave) : (s.setWave b w x).spart = s.spart := rfl
@[simp] theorem State.setWave_tasks (s : State) (b w : Nat) (x : Wave) : (s.setWave b w x).tasks = s.tasks := rfl
@[simp] theorem State.setWave_conts (s : State) (b w : Nat) (x : Wave) : (s.setWave b w x).conts = s.conts := rfl
@[simp] theorem State.setWave_stackQ (s : State) (b w : Nat) (x : Wave) : (s.setWave b w x).stackQ = s.stackQ := rfl
@[simp] theorem State.setWave_units (s : State) (b w : Nat) (x : Wave) : (s.setWave b w x).units = s.units := rfl
@[simp] theorem State.setWave_versions (s : State) (b w : Nat) (x : Wave) : (s.setWave b w x).versions = s.versions := rfl
@[simp] theorem State.setWave_launches (s : State) (b w : Nat) (x : Wave) : (s.setWave b w x).launches = s.launches := rfl
@[simp] theorem State.setWave_restores (s : State) (b w : Nat) (x : Wave) : (s.setWave b w x).restores = s.restores := rfl
@[simp] theorem State.setWave_draining (s : State) (b w : Nat) (x : Wave) : (s.setWave b w x).draining = s.draining := rfl
@[simp] theorem State.setWave_events (s : State) (b w : Nat) (x : Wave) : (s.setWave b w x).events = s.events := rfl
@[simp] theorem State.setWave_former (s : State) (b w : Nat) (x : Wave) : (s.setWave b w x).former = s.former := rfl
@[simp] theorem State.setWave_grp (s : State) (b w : Nat) (x : Wave) : (s.setWave b w x).grp = s.grp := rfl
@[simp] theorem State.setWave_member (s : State) (b w : Nat) (x : Wave) : (s.setWave b w x).member = s.member := rfl
@[simp] theorem State.setWave_egress (s : State) (b w : Nat) (x : Wave) : (s.setWave b w x).egress = s.egress := rfl
@[simp] theorem State.setWave_inbox (s : State) (b w : Nat) (x : Wave) : (s.setWave b w x).inbox = s.inbox := rfl
@[simp] theorem State.setWave_channels (s : State) (b w : Nat) (x : Wave) : (s.setWave b w x).channels = s.channels := rfl
@[simp] theorem State.setWave_msgs (s : State) (b w : Nat) (x : Wave) : (s.setWave b w x).msgs = s.msgs := rfl
@[simp] theorem State.setWave_inmsgs (s : State) (b w : Nat) (x : Wave) : (s.setWave b w x).inmsgs = s.inmsgs := rfl
@[simp] theorem State.setWave_seqOut (s : State) (b w : Nat) (x : Wave) : (s.setWave b w x).seqOut = s.seqOut := rfl
@[simp] theorem State.setWave_seen (s : State) (b w : Nat) (x : Wave) : (s.setWave b w x).seen = s.seen := rfl
@[simp] theorem State.setWave_rresvs (s : State) (b w : Nat) (x : Wave) : (s.setWave b w x).rresvs = s.rresvs := rfl
@[simp] theorem State.setWave_marked (s : State) (b w : Nat) (x : Wave) : (s.setWave b w x).marked = s.marked := rfl
@[simp] theorem State.setWave_ports (s : State) (b w : Nat) (x : Wave) : (s.setWave b w x).ports = s.ports := rfl
@[simp] theorem State.setWave_rtAct (s : State) (b w : Nat) (x : Wave) : (s.setWave b w x).rtAct = s.rtAct := rfl
@[simp] theorem State.setWave_rtgrp (s : State) (b w : Nat) (x : Wave) : (s.setWave b w x).rtgrp = s.rtgrp := rfl
@[simp] theorem State.setWave_rtmem (s : State) (b w : Nat) (x : Wave) : (s.setWave b w x).rtmem = s.rtmem := rfl
@[simp] theorem State.setWave_rtgrpB (s : State) (b w : Nat) (x : Wave) : (s.setWave b w x).rtgrpB = s.rtgrpB := rfl
@[simp] theorem State.setWave_rtmemB (s : State) (b w : Nat) (x : Wave) : (s.setWave b w x).rtmemB = s.rtmemB := rfl
@[simp] theorem State.setWave_dbmap (s : State) (b w : Nat) (x : Wave) : (s.setWave b w x).dbmap = s.dbmap := rfl
@[simp] theorem State.setWave_sessions (s : State) (b w : Nat) (x : Wave) : (s.setWave b w x).sessions = s.sessions := rfl
@[simp] theorem State.setWave_moved (s : State) (b w : Nat) (x : Wave) : (s.setWave b w x).moved = s.moved := rfl
@[simp] theorem State.setWave_calidx (s : State) (b w : Nat) (x : Wave) : (s.setWave b w x).calidx = s.calidx := rfl
@[simp] theorem State.setWave_calShadow (s : State) (b w : Nat) (x : Wave) : (s.setWave b w x).calShadow = s.calShadow := rfl
@[simp] theorem State.setWave_cals (s : State) (b w : Nat) (x : Wave) : (s.setWave b w x).cals = s.cals := rfl
@[simp] theorem State.setWave_calWait (s : State) (b w : Nat) (x : Wave) : (s.setWave b w x).calWait = s.calWait := rfl
@[simp] theorem State.setWave_mgmt (s : State) (b w : Nat) (x : Wave) : (s.setWave b w x).mgmt = s.mgmt := rfl
@[simp] theorem State.setWave_faulty (s : State) (b w : Nat) (x : Wave) : (s.setWave b w x).faulty = s.faulty := rfl

@[simp] theorem State.setCtxWave_mem (s : State) (c : Ctx) (x : Wave) : (s.setCtxWave c x).mem = s.mem := rfl
@[simp] theorem State.setCtxWave_poisoned (s : State) (c : Ctx) (x : Wave) : (s.setCtxWave c x).poisoned = s.poisoned := rfl
@[simp] theorem State.setCtxWave_codeOld (s : State) (c : Ctx) (x : Wave) : (s.setCtxWave c x).codeOld = s.codeOld := rfl
@[simp] theorem State.setCtxWave_fns (s : State) (c : Ctx) (x : Wave) : (s.setCtxWave c x).fns = s.fns := rfl
@[simp] theorem State.setCtxWave_cores (s : State) (c : Ctx) (x : Wave) : (s.setCtxWave c x).cores = s.cores := rfl
@[simp] theorem State.setCtxWave_clusters (s : State) (c : Ctx) (x : Wave) : (s.setCtxWave c x).clusters = s.clusters := rfl
@[simp] theorem State.setCtxWave_cur (s : State) (c : Ctx) (x : Wave) : (s.setCtxWave c x).cur = s.cur := rfl
@[simp] theorem State.setCtxWave_forced (s : State) (c : Ctx) (x : Wave) : (s.setCtxWave c x).forced = s.forced := rfl
@[simp] theorem State.setCtxWave_agenda (s : State) (c : Ctx) (x : Wave) : (s.setCtxWave c x).agenda = s.agenda := rfl
@[simp] theorem State.setCtxWave_args (s : State) (c : Ctx) (x : Wave) : (s.setCtxWave c x).args = s.args := rfl
@[simp] theorem State.setCtxWave_data (s : State) (c : Ctx) (x : Wave) : (s.setCtxWave c x).data = s.data := rfl
@[simp] theorem State.setCtxWave_clock (s : State) (c : Ctx) (x : Wave) : (s.setCtxWave c x).clock = s.clock := rfl
@[simp] theorem State.setCtxWave_tick (s : State) (c : Ctx) (x : Wave) : (s.setCtxWave c x).tick = s.tick := rfl
@[simp] theorem State.setCtxWave_serial (s : State) (c : Ctx) (x : Wave) : (s.setCtxWave c x).serial = s.serial := rfl
@[simp] theorem State.setCtxWave_clown (s : State) (c : Ctx) (x : Wave) : (s.setCtxWave c x).clown = s.clown := rfl
@[simp] theorem State.setCtxWave_spart (s : State) (c : Ctx) (x : Wave) : (s.setCtxWave c x).spart = s.spart := rfl
@[simp] theorem State.setCtxWave_tasks (s : State) (c : Ctx) (x : Wave) : (s.setCtxWave c x).tasks = s.tasks := rfl
@[simp] theorem State.setCtxWave_conts (s : State) (c : Ctx) (x : Wave) : (s.setCtxWave c x).conts = s.conts := rfl
@[simp] theorem State.setCtxWave_stackQ (s : State) (c : Ctx) (x : Wave) : (s.setCtxWave c x).stackQ = s.stackQ := rfl
@[simp] theorem State.setCtxWave_units (s : State) (c : Ctx) (x : Wave) : (s.setCtxWave c x).units = s.units := rfl
@[simp] theorem State.setCtxWave_versions (s : State) (c : Ctx) (x : Wave) : (s.setCtxWave c x).versions = s.versions := rfl
@[simp] theorem State.setCtxWave_launches (s : State) (c : Ctx) (x : Wave) : (s.setCtxWave c x).launches = s.launches := rfl
@[simp] theorem State.setCtxWave_restores (s : State) (c : Ctx) (x : Wave) : (s.setCtxWave c x).restores = s.restores := rfl
@[simp] theorem State.setCtxWave_draining (s : State) (c : Ctx) (x : Wave) : (s.setCtxWave c x).draining = s.draining := rfl
@[simp] theorem State.setCtxWave_events (s : State) (c : Ctx) (x : Wave) : (s.setCtxWave c x).events = s.events := rfl
@[simp] theorem State.setCtxWave_former (s : State) (c : Ctx) (x : Wave) : (s.setCtxWave c x).former = s.former := rfl
@[simp] theorem State.setCtxWave_grp (s : State) (c : Ctx) (x : Wave) : (s.setCtxWave c x).grp = s.grp := rfl
@[simp] theorem State.setCtxWave_member (s : State) (c : Ctx) (x : Wave) : (s.setCtxWave c x).member = s.member := rfl
@[simp] theorem State.setCtxWave_egress (s : State) (c : Ctx) (x : Wave) : (s.setCtxWave c x).egress = s.egress := rfl
@[simp] theorem State.setCtxWave_inbox (s : State) (c : Ctx) (x : Wave) : (s.setCtxWave c x).inbox = s.inbox := rfl
@[simp] theorem State.setCtxWave_channels (s : State) (c : Ctx) (x : Wave) : (s.setCtxWave c x).channels = s.channels := rfl
@[simp] theorem State.setCtxWave_msgs (s : State) (c : Ctx) (x : Wave) : (s.setCtxWave c x).msgs = s.msgs := rfl
@[simp] theorem State.setCtxWave_inmsgs (s : State) (c : Ctx) (x : Wave) : (s.setCtxWave c x).inmsgs = s.inmsgs := rfl
@[simp] theorem State.setCtxWave_seqOut (s : State) (c : Ctx) (x : Wave) : (s.setCtxWave c x).seqOut = s.seqOut := rfl
@[simp] theorem State.setCtxWave_seen (s : State) (c : Ctx) (x : Wave) : (s.setCtxWave c x).seen = s.seen := rfl
@[simp] theorem State.setCtxWave_rresvs (s : State) (c : Ctx) (x : Wave) : (s.setCtxWave c x).rresvs = s.rresvs := rfl
@[simp] theorem State.setCtxWave_marked (s : State) (c : Ctx) (x : Wave) : (s.setCtxWave c x).marked = s.marked := rfl
@[simp] theorem State.setCtxWave_ports (s : State) (c : Ctx) (x : Wave) : (s.setCtxWave c x).ports = s.ports := rfl
@[simp] theorem State.setCtxWave_rtAct (s : State) (c : Ctx) (x : Wave) : (s.setCtxWave c x).rtAct = s.rtAct := rfl
@[simp] theorem State.setCtxWave_rtgrp (s : State) (c : Ctx) (x : Wave) : (s.setCtxWave c x).rtgrp = s.rtgrp := rfl
@[simp] theorem State.setCtxWave_rtmem (s : State) (c : Ctx) (x : Wave) : (s.setCtxWave c x).rtmem = s.rtmem := rfl
@[simp] theorem State.setCtxWave_rtgrpB (s : State) (c : Ctx) (x : Wave) : (s.setCtxWave c x).rtgrpB = s.rtgrpB := rfl
@[simp] theorem State.setCtxWave_rtmemB (s : State) (c : Ctx) (x : Wave) : (s.setCtxWave c x).rtmemB = s.rtmemB := rfl
@[simp] theorem State.setCtxWave_dbmap (s : State) (c : Ctx) (x : Wave) : (s.setCtxWave c x).dbmap = s.dbmap := rfl
@[simp] theorem State.setCtxWave_sessions (s : State) (c : Ctx) (x : Wave) : (s.setCtxWave c x).sessions = s.sessions := rfl
@[simp] theorem State.setCtxWave_moved (s : State) (c : Ctx) (x : Wave) : (s.setCtxWave c x).moved = s.moved := rfl
@[simp] theorem State.setCtxWave_calidx (s : State) (c : Ctx) (x : Wave) : (s.setCtxWave c x).calidx = s.calidx := rfl
@[simp] theorem State.setCtxWave_calShadow (s : State) (c : Ctx) (x : Wave) : (s.setCtxWave c x).calShadow = s.calShadow := rfl
@[simp] theorem State.setCtxWave_cals (s : State) (c : Ctx) (x : Wave) : (s.setCtxWave c x).cals = s.cals := rfl
@[simp] theorem State.setCtxWave_calWait (s : State) (c : Ctx) (x : Wave) : (s.setCtxWave c x).calWait = s.calWait := rfl
@[simp] theorem State.setCtxWave_mgmt (s : State) (c : Ctx) (x : Wave) : (s.setCtxWave c x).mgmt = s.mgmt := rfl
@[simp] theorem State.setCtxWave_faulty (s : State) (c : Ctx) (x : Wave) : (s.setCtxWave c x).faulty = s.faulty := rfl

@[simp] theorem State.post_mem (s : State) (i : Instr) (xs : List Nat) (ys : List Byte) : (s.post i xs ys).mem = s.mem := rfl
@[simp] theorem State.post_poisoned (s : State) (i : Instr) (xs : List Nat) (ys : List Byte) : (s.post i xs ys).poisoned = s.poisoned := rfl
@[simp] theorem State.post_codeOld (s : State) (i : Instr) (xs : List Nat) (ys : List Byte) : (s.post i xs ys).codeOld = s.codeOld := rfl
@[simp] theorem State.post_fns (s : State) (i : Instr) (xs : List Nat) (ys : List Byte) : (s.post i xs ys).fns = s.fns := rfl
@[simp] theorem State.post_blocks (s : State) (i : Instr) (xs : List Nat) (ys : List Byte) : (s.post i xs ys).blocks = s.blocks := rfl
@[simp] theorem State.post_cores (s : State) (i : Instr) (xs : List Nat) (ys : List Byte) : (s.post i xs ys).cores = s.cores := rfl
@[simp] theorem State.post_clusters (s : State) (i : Instr) (xs : List Nat) (ys : List Byte) : (s.post i xs ys).clusters = s.clusters := rfl
@[simp] theorem State.post_cur (s : State) (i : Instr) (xs : List Nat) (ys : List Byte) : (s.post i xs ys).cur = s.cur := rfl
@[simp] theorem State.post_forced (s : State) (i : Instr) (xs : List Nat) (ys : List Byte) : (s.post i xs ys).forced = s.forced := rfl
@[simp] theorem State.post_args (s : State) (i : Instr) (xs : List Nat) (ys : List Byte) : (s.post i xs ys).args = s.args := rfl
@[simp] theorem State.post_data (s : State) (i : Instr) (xs : List Nat) (ys : List Byte) : (s.post i xs ys).data = s.data := rfl
@[simp] theorem State.post_clock (s : State) (i : Instr) (xs : List Nat) (ys : List Byte) : (s.post i xs ys).clock = s.clock := rfl
@[simp] theorem State.post_tick (s : State) (i : Instr) (xs : List Nat) (ys : List Byte) : (s.post i xs ys).tick = s.tick := rfl
@[simp] theorem State.post_serial (s : State) (i : Instr) (xs : List Nat) (ys : List Byte) : (s.post i xs ys).serial = s.serial := rfl
@[simp] theorem State.post_clown (s : State) (i : Instr) (xs : List Nat) (ys : List Byte) : (s.post i xs ys).clown = s.clown := rfl
@[simp] theorem State.post_spart (s : State) (i : Instr) (xs : List Nat) (ys : List Byte) : (s.post i xs ys).spart = s.spart := rfl
@[simp] theorem State.post_tasks (s : State) (i : Instr) (xs : List Nat) (ys : List Byte) : (s.post i xs ys).tasks = s.tasks := rfl
@[simp] theorem State.post_conts (s : State) (i : Instr) (xs : List Nat) (ys : List Byte) : (s.post i xs ys).conts = s.conts := rfl
@[simp] theorem State.post_stackQ (s : State) (i : Instr) (xs : List Nat) (ys : List Byte) : (s.post i xs ys).stackQ = s.stackQ := rfl
@[simp] theorem State.post_units (s : State) (i : Instr) (xs : List Nat) (ys : List Byte) : (s.post i xs ys).units = s.units := rfl
@[simp] theorem State.post_versions (s : State) (i : Instr) (xs : List Nat) (ys : List Byte) : (s.post i xs ys).versions = s.versions := rfl
@[simp] theorem State.post_launches (s : State) (i : Instr) (xs : List Nat) (ys : List Byte) : (s.post i xs ys).launches = s.launches := rfl
@[simp] theorem State.post_restores (s : State) (i : Instr) (xs : List Nat) (ys : List Byte) : (s.post i xs ys).restores = s.restores := rfl
@[simp] theorem State.post_draining (s : State) (i : Instr) (xs : List Nat) (ys : List Byte) : (s.post i xs ys).draining = s.draining := rfl
@[simp] theorem State.post_events (s : State) (i : Instr) (xs : List Nat) (ys : List Byte) : (s.post i xs ys).events = s.events := rfl
@[simp] theorem State.post_former (s : State) (i : Instr) (xs : List Nat) (ys : List Byte) : (s.post i xs ys).former = s.former := rfl
@[simp] theorem State.post_grp (s : State) (i : Instr) (xs : List Nat) (ys : List Byte) : (s.post i xs ys).grp = s.grp := rfl
@[simp] theorem State.post_member (s : State) (i : Instr) (xs : List Nat) (ys : List Byte) : (s.post i xs ys).member = s.member := rfl
@[simp] theorem State.post_egress (s : State) (i : Instr) (xs : List Nat) (ys : List Byte) : (s.post i xs ys).egress = s.egress := rfl
@[simp] theorem State.post_inbox (s : State) (i : Instr) (xs : List Nat) (ys : List Byte) : (s.post i xs ys).inbox = s.inbox := rfl
@[simp] theorem State.post_channels (s : State) (i : Instr) (xs : List Nat) (ys : List Byte) : (s.post i xs ys).channels = s.channels := rfl
@[simp] theorem State.post_msgs (s : State) (i : Instr) (xs : List Nat) (ys : List Byte) : (s.post i xs ys).msgs = s.msgs := rfl
@[simp] theorem State.post_inmsgs (s : State) (i : Instr) (xs : List Nat) (ys : List Byte) : (s.post i xs ys).inmsgs = s.inmsgs := rfl
@[simp] theorem State.post_seqOut (s : State) (i : Instr) (xs : List Nat) (ys : List Byte) : (s.post i xs ys).seqOut = s.seqOut := rfl
@[simp] theorem State.post_seen (s : State) (i : Instr) (xs : List Nat) (ys : List Byte) : (s.post i xs ys).seen = s.seen := rfl
@[simp] theorem State.post_rresvs (s : State) (i : Instr) (xs : List Nat) (ys : List Byte) : (s.post i xs ys).rresvs = s.rresvs := rfl
@[simp] theorem State.post_marked (s : State) (i : Instr) (xs : List Nat) (ys : List Byte) : (s.post i xs ys).marked = s.marked := rfl
@[simp] theorem State.post_ports (s : State) (i : Instr) (xs : List Nat) (ys : List Byte) : (s.post i xs ys).ports = s.ports := rfl
@[simp] theorem State.post_rtAct (s : State) (i : Instr) (xs : List Nat) (ys : List Byte) : (s.post i xs ys).rtAct = s.rtAct := rfl
@[simp] theorem State.post_rtgrp (s : State) (i : Instr) (xs : List Nat) (ys : List Byte) : (s.post i xs ys).rtgrp = s.rtgrp := rfl
@[simp] theorem State.post_rtmem (s : State) (i : Instr) (xs : List Nat) (ys : List Byte) : (s.post i xs ys).rtmem = s.rtmem := rfl
@[simp] theorem State.post_rtgrpB (s : State) (i : Instr) (xs : List Nat) (ys : List Byte) : (s.post i xs ys).rtgrpB = s.rtgrpB := rfl
@[simp] theorem State.post_rtmemB (s : State) (i : Instr) (xs : List Nat) (ys : List Byte) : (s.post i xs ys).rtmemB = s.rtmemB := rfl
@[simp] theorem State.post_dbmap (s : State) (i : Instr) (xs : List Nat) (ys : List Byte) : (s.post i xs ys).dbmap = s.dbmap := rfl
@[simp] theorem State.post_sessions (s : State) (i : Instr) (xs : List Nat) (ys : List Byte) : (s.post i xs ys).sessions = s.sessions := rfl
@[simp] theorem State.post_moved (s : State) (i : Instr) (xs : List Nat) (ys : List Byte) : (s.post i xs ys).moved = s.moved := rfl
@[simp] theorem State.post_calidx (s : State) (i : Instr) (xs : List Nat) (ys : List Byte) : (s.post i xs ys).calidx = s.calidx := rfl
@[simp] theorem State.post_calShadow (s : State) (i : Instr) (xs : List Nat) (ys : List Byte) : (s.post i xs ys).calShadow = s.calShadow := rfl
@[simp] theorem State.post_cals (s : State) (i : Instr) (xs : List Nat) (ys : List Byte) : (s.post i xs ys).cals = s.cals := rfl
@[simp] theorem State.post_calWait (s : State) (i : Instr) (xs : List Nat) (ys : List Byte) : (s.post i xs ys).calWait = s.calWait := rfl
@[simp] theorem State.post_mgmt (s : State) (i : Instr) (xs : List Nat) (ys : List Byte) : (s.post i xs ys).mgmt = s.mgmt := rfl
@[simp] theorem State.post_faulty (s : State) (i : Instr) (xs : List Nat) (ys : List Byte) : (s.post i xs ys).faulty = s.faulty := rfl

/-! ### Reading a table of the device after writing it -/

@[simp] theorem State.fn_setFn (s : State) (f g : Nat) (x : Fn) : (s.setFn f x).fn g = if f = g then x else s.fn g := by
  simp [State.fn, State.setFn]
@[simp] theorem State.block_setBlock (s : State) (b d : Nat) (x : Block) :
    (s.setBlock b x).block d = if b = d then x else s.block d := by
  simp [State.block, State.setBlock]
@[simp] theorem State.core_setCore (s : State) (c d : Nat) (x : Core) :
    (s.setCore c x).core d = if c = d then x else s.core d := by
  simp [State.core, State.setCore]
@[simp] theorem State.cluster_setCluster (s : State) (c d : Nat) (x : Cluster) :
    (s.setCluster c x).cluster d = if c = d then x else s.cluster d := by
  simp [State.cluster, State.setCluster]
@[simp] theorem State.fn_setCluster (s : State) (c f : Nat) (x : Cluster) : (s.setCluster c x).fn f = s.fn f := rfl
@[simp] theorem State.block_setCluster (s : State) (c b : Nat) (x : Cluster) : (s.setCluster c x).block b = s.block b := rfl
@[simp] theorem State.core_setCluster (s : State) (c d : Nat) (x : Cluster) : (s.setCluster c x).core d = s.core d := rfl
@[simp] theorem State.wave_setCluster (s : State) (c b w : Nat) (x : Cluster) : (s.setCluster c x).wave b w = s.wave b w := rfl
@[simp] theorem State.fn_setBlock (s : State) (b g : Nat) (x : Block) : (s.setBlock b x).fn g = s.fn g := rfl
@[simp] theorem State.core_setBlock (s : State) (b c : Nat) (x : Block) : (s.setBlock b x).core c = s.core c := rfl
@[simp] theorem State.block_setFn (s : State) (f b : Nat) (x : Fn) : (s.setFn f x).block b = s.block b := rfl
@[simp] theorem State.core_setFn (s : State) (f c : Nat) (x : Fn) : (s.setFn f x).core c = s.core c := rfl
@[simp] theorem State.block_setCore (s : State) (c b : Nat) (x : Core) : (s.setCore c x).block b = s.block b := rfl
@[simp] theorem State.fn_setCore (s : State) (c f : Nat) (x : Core) : (s.setCore c x).fn f = s.fn f := rfl
@[simp] theorem State.fn_setWave (s : State) (b w g : Nat) (x : Wave) : (s.setWave b w x).fn g = s.fn g := rfl
@[simp] theorem State.core_setWave (s : State) (b w c : Nat) (x : Wave) : (s.setWave b w x).core c = s.core c := rfl
@[simp] theorem State.block_setWave (s : State) (b w d : Nat) (x : Wave) :
    (s.setWave b w x).block d = if b = d then { s.block b with waves := (s.block b).waves.set w x } else s.block d := by
  simp [State.setWave]
theorem State.wave_setWave (s : State) (b w d v : Nat) (x : Wave) :
    (s.setWave b w x).wave d v = if b = d ∧ w = v then x else s.wave d v := by
  by_cases hb : b = d
  · subst hb; simp [State.wave]
  · simp [State.wave, hb]
@[simp] theorem State.wave_setWave_self (s : State) (b w : Nat) (x : Wave) : (s.setWave b w x).wave b w = x := by
  simp [State.wave_setWave]
@[simp] theorem State.wave_setFn (s : State) (f b w : Nat) (x : Fn) : (s.setFn f x).wave b w = s.wave b w := rfl
@[simp] theorem State.wave_setCore (s : State) (c b w : Nat) (x : Core) : (s.setCore c x).wave b w = s.wave b w := rfl
@[simp] theorem State.ctxWave_setCtxWave (s : State) (c : Ctx) (x : Wave) : (s.setCtxWave c x).ctxWave c = x := by
  simp [State.ctxWave, State.setCtxWave]
@[simp] theorem State.setCtxWave_setCtxWave (s : State) (c : Ctx) (x y : Wave) :
    (s.setCtxWave c x).setCtxWave c y = s.setCtxWave c y := by
  simp [State.setCtxWave, State.setWave, State.setBlock, State.block]

/-! ### The fields of a wave -/

@[simp] theorem Wave.setLane_idx (w : Wave) (l : Nat) (x : Lane) : (w.setLane l x).idx = w.idx := rfl
@[simp] theorem Wave.setLane_role (w : Wave) (l : Nat) (x : Lane) : (w.setLane l x).role = w.role := rfl
@[simp] theorem Wave.setLane_roleNo (w : Wave) (l : Nat) (x : Lane) : (w.setLane l x).roleNo = w.roleNo := rfl
@[simp] theorem Wave.setLane_stage (w : Wave) (l : Nat) (x : Lane) : (w.setLane l x).stage = w.stage := rfl
@[simp] theorem Wave.setLane_tstamp (w : Wave) (l : Nat) (x : Lane) : (w.setLane l x).tstamp = w.tstamp := rfl
@[simp] theorem Wave.setLane_window (w : Wave) (l : Nat) (x : Lane) : (w.setLane l x).window = w.window := rfl
@[simp] theorem Wave.setLane_emWindow (w : Wave) (l : Nat) (x : Lane) : (w.setLane l x).emWindow = w.emWindow := rfl
@[simp] theorem Wave.setLane_emdepth (w : Wave) (l : Nat) (x : Lane) : (w.setLane l x).emdepth = w.emdepth := rfl
@[simp] theorem Wave.setLane_v (w : Wave) (l : Nat) (x : Lane) : (w.setLane l x).v = w.v := rfl
@[simp] theorem Wave.setLane_s (w : Wave) (l : Nat) (x : Lane) : (w.setLane l x).s = w.s := rfl
@[simp] theorem Wave.setLane_masks (w : Wave) (l : Nat) (x : Lane) : (w.setLane l x).masks = w.masks := rfl
@[simp] theorem Wave.setLane_arrived (w : Wave) (l : Nat) (x : Lane) : (w.setLane l x).arrived = w.arrived := rfl
@[simp] theorem Wave.setLane_forkSerial (w : Wave) (l : Nat) (x : Lane) : (w.setLane l x).forkSerial = w.forkSerial := rfl
@[simp] theorem Wave.setLane_joinlost (w : Wave) (l : Nat) (x : Lane) : (w.setLane l x).joinlost = w.joinlost := rfl
@[simp] theorem Wave.setLane_fpctl (w : Wave) (l : Nat) (x : Lane) : (w.setLane l x).fpctl = w.fpctl := rfl
@[simp] theorem Wave.setLane_ow (w : Wave) (l : Nat) (x : Lane) : (w.setLane l x).ow = w.ow := rfl
@[simp] theorem Wave.setLane_batches (w : Wave) (l : Nat) (x : Lane) : (w.setLane l x).batches = w.batches := rfl
@[simp] theorem Wave.setLane_others (w : Wave) (l : Nat) (x : Lane) : (w.setLane l x).others = w.others := rfl
@[simp] theorem Wave.setLane_frames (w : Wave) (l : Nat) (x : Lane) : (w.setLane l x).frames = w.frames := rfl
@[simp] theorem Wave.setLane_wdCount (w : Wave) (l : Nat) (x : Lane) : (w.setLane l x).wdCount = w.wdCount := rfl
@[simp] theorem Wave.setLane_waits (w : Wave) (l : Nat) (x : Lane) : (w.setLane l x).waits = w.waits := rfl
@[simp] theorem Wave.setLane_nextWait (w : Wave) (l : Nat) (x : Lane) : (w.setLane l x).nextWait = w.nextWait := rfl
@[simp] theorem Wave.setLane_acc (w : Wave) (l : Nat) (x : Lane) : (w.setLane l x).acc = w.acc := rfl
@[simp] theorem Wave.setLane_doneMask (w : Wave) (l : Nat) (x : Lane) : (w.setLane l x).doneMask = w.doneMask := rfl
@[simp] theorem Wave.setLane_doneGrp (w : Wave) (l : Nat) (x : Lane) : (w.setLane l x).doneGrp = w.doneGrp := rfl
@[simp] theorem Wave.setLane_late (w : Wave) (l : Nat) (x : Lane) : (w.setLane l x).late = w.late := rfl
@[simp] theorem Wave.setLane_resv (w : Wave) (l : Nat) (x : Lane) : (w.setLane l x).resv = w.resv := rfl
@[simp] theorem Wave.setLane_rresv (w : Wave) (l : Nat) (x : Lane) : (w.setLane l x).rresv = w.rresv := rfl
@[simp] theorem Wave.setLane_stopped (w : Wave) (l : Nat) (x : Lane) : (w.setLane l x).stopped = w.stopped := rfl
@[simp] theorem Wave.setLane_nextGrp (w : Wave) (l : Nat) (x : Lane) : (w.setLane l x).nextGrp = w.nextGrp := rfl
@[simp] theorem Wave.setLane_scales (w : Wave) (l : Nat) (x : Lane) : (w.setLane l x).scales = w.scales := rfl
@[simp] theorem Wave.setLane_parked (w : Wave) (l : Nat) (x : Lane) : (w.setLane l x).parked = w.parked := rfl
@[simp] theorem Wave.setLane_ended (w : Wave) (l : Nat) (x : Lane) : (w.setLane l x).ended = w.ended := rfl
@[simp] theorem Wave.setLane_evicted (w : Wave) (l : Nat) (x : Lane) : (w.setLane l x).evicted = w.evicted := rfl
@[simp] theorem Wave.setLane_watch (w : Wave) (l : Nat) (x : Lane) : (w.setLane l x).watch = w.watch := rfl
@[simp] theorem Wave.setLane_spec (w : Wave) (l : Nat) (x : Lane) : (w.setLane l x).spec = w.spec := rfl
@[simp] theorem Wave.setLane_tokens (w : Wave) (l : Nat) (x : Lane) : (w.setLane l x).tokens = w.tokens := rfl
@[simp] theorem Wave.setLane_descs (w : Wave) (l : Nat) (x : Lane) : (w.setLane l x).descs = w.descs := rfl
@[simp] theorem Wave.setLane_tagGen (w : Wave) (l : Nat) (x : Lane) : (w.setLane l x).tagGen = w.tagGen := rfl
@[simp] theorem Wave.setLane_elastic (w : Wave) (l : Nat) (x : Lane) : (w.setLane l x).elastic = w.elastic := rfl

@[simp] theorem Wave.setVAt_idx (w : Wave) (r l : Nat) (x : PWord) : (w.setVAt r l x).idx = w.idx := rfl
@[simp] theorem Wave.setVAt_role (w : Wave) (r l : Nat) (x : PWord) : (w.setVAt r l x).role = w.role := rfl
@[simp] theorem Wave.setVAt_roleNo (w : Wave) (r l : Nat) (x : PWord) : (w.setVAt r l x).roleNo = w.roleNo := rfl
@[simp] theorem Wave.setVAt_stage (w : Wave) (r l : Nat) (x : PWord) : (w.setVAt r l x).stage = w.stage := rfl
@[simp] theorem Wave.setVAt_tstamp (w : Wave) (r l : Nat) (x : PWord) : (w.setVAt r l x).tstamp = w.tstamp := rfl
@[simp] theorem Wave.setVAt_window (w : Wave) (r l : Nat) (x : PWord) : (w.setVAt r l x).window = w.window := rfl
@[simp] theorem Wave.setVAt_emWindow (w : Wave) (r l : Nat) (x : PWord) : (w.setVAt r l x).emWindow = w.emWindow := rfl
@[simp] theorem Wave.setVAt_emdepth (w : Wave) (r l : Nat) (x : PWord) : (w.setVAt r l x).emdepth = w.emdepth := rfl
@[simp] theorem Wave.setVAt_lanes (w : Wave) (r l : Nat) (x : PWord) : (w.setVAt r l x).lanes = w.lanes := rfl
@[simp] theorem Wave.setVAt_s (w : Wave) (r l : Nat) (x : PWord) : (w.setVAt r l x).s = w.s := rfl
@[simp] theorem Wave.setVAt_masks (w : Wave) (r l : Nat) (x : PWord) : (w.setVAt r l x).masks = w.masks := rfl
@[simp] theorem Wave.setVAt_arrived (w : Wave) (r l : Nat) (x : PWord) : (w.setVAt r l x).arrived = w.arrived := rfl
@[simp] theorem Wave.setVAt_forkSerial (w : Wave) (r l : Nat) (x : PWord) : (w.setVAt r l x).forkSerial = w.forkSerial := rfl
@[simp] theorem Wave.setVAt_joinlost (w : Wave) (r l : Nat) (x : PWord) : (w.setVAt r l x).joinlost = w.joinlost := rfl
@[simp] theorem Wave.setVAt_fpctl (w : Wave) (r l : Nat) (x : PWord) : (w.setVAt r l x).fpctl = w.fpctl := rfl
@[simp] theorem Wave.setVAt_ow (w : Wave) (r l : Nat) (x : PWord) : (w.setVAt r l x).ow = w.ow := rfl
@[simp] theorem Wave.setVAt_batches (w : Wave) (r l : Nat) (x : PWord) : (w.setVAt r l x).batches = w.batches := rfl
@[simp] theorem Wave.setVAt_others (w : Wave) (r l : Nat) (x : PWord) : (w.setVAt r l x).others = w.others := rfl
@[simp] theorem Wave.setVAt_frames (w : Wave) (r l : Nat) (x : PWord) : (w.setVAt r l x).frames = w.frames := rfl
@[simp] theorem Wave.setVAt_wdCount (w : Wave) (r l : Nat) (x : PWord) : (w.setVAt r l x).wdCount = w.wdCount := rfl
@[simp] theorem Wave.setVAt_waits (w : Wave) (r l : Nat) (x : PWord) : (w.setVAt r l x).waits = w.waits := rfl
@[simp] theorem Wave.setVAt_nextWait (w : Wave) (r l : Nat) (x : PWord) : (w.setVAt r l x).nextWait = w.nextWait := rfl
@[simp] theorem Wave.setVAt_acc (w : Wave) (r l : Nat) (x : PWord) : (w.setVAt r l x).acc = w.acc := rfl
@[simp] theorem Wave.setVAt_doneMask (w : Wave) (r l : Nat) (x : PWord) : (w.setVAt r l x).doneMask = w.doneMask := rfl
@[simp] theorem Wave.setVAt_doneGrp (w : Wave) (r l : Nat) (x : PWord) : (w.setVAt r l x).doneGrp = w.doneGrp := rfl
@[simp] theorem Wave.setVAt_late (w : Wave) (r l : Nat) (x : PWord) : (w.setVAt r l x).late = w.late := rfl
@[simp] theorem Wave.setVAt_resv (w : Wave) (r l : Nat) (x : PWord) : (w.setVAt r l x).resv = w.resv := rfl
@[simp] theorem Wave.setVAt_rresv (w : Wave) (r l : Nat) (x : PWord) : (w.setVAt r l x).rresv = w.rresv := rfl
@[simp] theorem Wave.setVAt_stopped (w : Wave) (r l : Nat) (x : PWord) : (w.setVAt r l x).stopped = w.stopped := rfl
@[simp] theorem Wave.setVAt_nextGrp (w : Wave) (r l : Nat) (x : PWord) : (w.setVAt r l x).nextGrp = w.nextGrp := rfl
@[simp] theorem Wave.setVAt_scales (w : Wave) (r l : Nat) (x : PWord) : (w.setVAt r l x).scales = w.scales := rfl
@[simp] theorem Wave.setVAt_parked (w : Wave) (r l : Nat) (x : PWord) : (w.setVAt r l x).parked = w.parked := rfl
@[simp] theorem Wave.setVAt_ended (w : Wave) (r l : Nat) (x : PWord) : (w.setVAt r l x).ended = w.ended := rfl
@[simp] theorem Wave.setVAt_evicted (w : Wave) (r l : Nat) (x : PWord) : (w.setVAt r l x).evicted = w.evicted := rfl
@[simp] theorem Wave.setVAt_watch (w : Wave) (r l : Nat) (x : PWord) : (w.setVAt r l x).watch = w.watch := rfl
@[simp] theorem Wave.setVAt_spec (w : Wave) (r l : Nat) (x : PWord) : (w.setVAt r l x).spec = w.spec := rfl
@[simp] theorem Wave.setVAt_tokens (w : Wave) (r l : Nat) (x : PWord) : (w.setVAt r l x).tokens = w.tokens := rfl
@[simp] theorem Wave.setVAt_descs (w : Wave) (r l : Nat) (x : PWord) : (w.setVAt r l x).descs = w.descs := rfl
@[simp] theorem Wave.setVAt_tagGen (w : Wave) (r l : Nat) (x : PWord) : (w.setVAt r l x).tagGen = w.tagGen := rfl
@[simp] theorem Wave.setVAt_elastic (w : Wave) (r l : Nat) (x : PWord) : (w.setVAt r l x).elastic = w.elastic := rfl

@[simp] theorem Wave.setS_idx (w : Wave) (r : Nat) (x : PWord) : (w.setS r x).idx = w.idx := rfl
@[simp] theorem Wave.setS_role (w : Wave) (r : Nat) (x : PWord) : (w.setS r x).role = w.role := rfl
@[simp] theorem Wave.setS_roleNo (w : Wave) (r : Nat) (x : PWord) : (w.setS r x).roleNo = w.roleNo := rfl
@[simp] theorem Wave.setS_stage (w : Wave) (r : Nat) (x : PWord) : (w.setS r x).stage = w.stage := rfl
@[simp] theorem Wave.setS_tstamp (w : Wave) (r : Nat) (x : PWord) : (w.setS r x).tstamp = w.tstamp := rfl
@[simp] theorem Wave.setS_window (w : Wave) (r : Nat) (x : PWord) : (w.setS r x).window = w.window := rfl
@[simp] theorem Wave.setS_emWindow (w : Wave) (r : Nat) (x : PWord) : (w.setS r x).emWindow = w.emWindow := rfl
@[simp] theorem Wave.setS_emdepth (w : Wave) (r : Nat) (x : PWord) : (w.setS r x).emdepth = w.emdepth := rfl
@[simp] theorem Wave.setS_lanes (w : Wave) (r : Nat) (x : PWord) : (w.setS r x).lanes = w.lanes := rfl
@[simp] theorem Wave.setS_v (w : Wave) (r : Nat) (x : PWord) : (w.setS r x).v = w.v := rfl
@[simp] theorem Wave.setS_masks (w : Wave) (r : Nat) (x : PWord) : (w.setS r x).masks = w.masks := rfl
@[simp] theorem Wave.setS_arrived (w : Wave) (r : Nat) (x : PWord) : (w.setS r x).arrived = w.arrived := rfl
@[simp] theorem Wave.setS_forkSerial (w : Wave) (r : Nat) (x : PWord) : (w.setS r x).forkSerial = w.forkSerial := rfl
@[simp] theorem Wave.setS_joinlost (w : Wave) (r : Nat) (x : PWord) : (w.setS r x).joinlost = w.joinlost := rfl
@[simp] theorem Wave.setS_fpctl (w : Wave) (r : Nat) (x : PWord) : (w.setS r x).fpctl = w.fpctl := rfl
@[simp] theorem Wave.setS_ow (w : Wave) (r : Nat) (x : PWord) : (w.setS r x).ow = w.ow := rfl
@[simp] theorem Wave.setS_batches (w : Wave) (r : Nat) (x : PWord) : (w.setS r x).batches = w.batches := rfl
@[simp] theorem Wave.setS_others (w : Wave) (r : Nat) (x : PWord) : (w.setS r x).others = w.others := rfl
@[simp] theorem Wave.setS_frames (w : Wave) (r : Nat) (x : PWord) : (w.setS r x).frames = w.frames := rfl
@[simp] theorem Wave.setS_wdCount (w : Wave) (r : Nat) (x : PWord) : (w.setS r x).wdCount = w.wdCount := rfl
@[simp] theorem Wave.setS_waits (w : Wave) (r : Nat) (x : PWord) : (w.setS r x).waits = w.waits := rfl
@[simp] theorem Wave.setS_nextWait (w : Wave) (r : Nat) (x : PWord) : (w.setS r x).nextWait = w.nextWait := rfl
@[simp] theorem Wave.setS_acc (w : Wave) (r : Nat) (x : PWord) : (w.setS r x).acc = w.acc := rfl
@[simp] theorem Wave.setS_doneMask (w : Wave) (r : Nat) (x : PWord) : (w.setS r x).doneMask = w.doneMask := rfl
@[simp] theorem Wave.setS_doneGrp (w : Wave) (r : Nat) (x : PWord) : (w.setS r x).doneGrp = w.doneGrp := rfl
@[simp] theorem Wave.setS_late (w : Wave) (r : Nat) (x : PWord) : (w.setS r x).late = w.late := rfl
@[simp] theorem Wave.setS_resv (w : Wave) (r : Nat) (x : PWord) : (w.setS r x).resv = w.resv := rfl
@[simp] theorem Wave.setS_rresv (w : Wave) (r : Nat) (x : PWord) : (w.setS r x).rresv = w.rresv := rfl
@[simp] theorem Wave.setS_stopped (w : Wave) (r : Nat) (x : PWord) : (w.setS r x).stopped = w.stopped := rfl
@[simp] theorem Wave.setS_nextGrp (w : Wave) (r : Nat) (x : PWord) : (w.setS r x).nextGrp = w.nextGrp := rfl
@[simp] theorem Wave.setS_scales (w : Wave) (r : Nat) (x : PWord) : (w.setS r x).scales = w.scales := rfl
@[simp] theorem Wave.setS_parked (w : Wave) (r : Nat) (x : PWord) : (w.setS r x).parked = w.parked := rfl
@[simp] theorem Wave.setS_ended (w : Wave) (r : Nat) (x : PWord) : (w.setS r x).ended = w.ended := rfl
@[simp] theorem Wave.setS_evicted (w : Wave) (r : Nat) (x : PWord) : (w.setS r x).evicted = w.evicted := rfl
@[simp] theorem Wave.setS_watch (w : Wave) (r : Nat) (x : PWord) : (w.setS r x).watch = w.watch := rfl
@[simp] theorem Wave.setS_spec (w : Wave) (r : Nat) (x : PWord) : (w.setS r x).spec = w.spec := rfl
@[simp] theorem Wave.setS_tokens (w : Wave) (r : Nat) (x : PWord) : (w.setS r x).tokens = w.tokens := rfl
@[simp] theorem Wave.setS_descs (w : Wave) (r : Nat) (x : PWord) : (w.setS r x).descs = w.descs := rfl
@[simp] theorem Wave.setS_tagGen (w : Wave) (r : Nat) (x : PWord) : (w.setS r x).tagGen = w.tagGen := rfl
@[simp] theorem Wave.setS_elastic (w : Wave) (r : Nat) (x : PWord) : (w.setS r x).elastic = w.elastic := rfl

@[simp] theorem Wave.lane_setLane (w : Wave) (l m : Nat) (x : Lane) :
    (w.setLane l x).lane m = if l = m then x else w.lane m := by
  simp [Wave.lane, Wave.setLane]
@[simp] theorem Wave.lane_setVAt (w : Wave) (r l m : Nat) (x : PWord) : (w.setVAt r l x).lane m = w.lane m := rfl
@[simp] theorem Wave.lane_setS (w : Wave) (r m : Nat) (x : PWord) : (w.setS r x).lane m = w.lane m := rfl
@[simp] theorem Wave.sAt_setS (w : Wave) (r q : Nat) (x : PWord) : (w.setS r x).sAt q = if r = q then x else w.sAt q := by
  simp [Wave.sAt, Wave.setS]
@[simp] theorem Wave.sAt_setLane (w : Wave) (l q : Nat) (x : Lane) : (w.setLane l x).sAt q = w.sAt q := rfl
@[simp] theorem Wave.sAt_setVAt (w : Wave) (r l q : Nat) (x : PWord) : (w.setVAt r l x).sAt q = w.sAt q := rfl
@[simp] theorem Wave.vAt_setLane (w : Wave) (l r m : Nat) (x : Lane) : (w.setLane l x).vAt r m = w.vAt r m := rfl
@[simp] theorem Wave.vAt_setS (w : Wave) (q r m : Nat) (x : PWord) : (w.setS q x).vAt r m = w.vAt r m := rfl
/-- A v register of a lane after writing one: lanes are below 32, so the two indices name one place only together. -/
theorem Wave.vAt_setVAt (w : Wave) (r q l m : Nat) (x : PWord) (hl : l < 32) (hm : m < 32) :
    (w.setVAt r l x).vAt q m = if r = q ∧ l = m then x else w.vAt q m := by
  simp only [Wave.vAt, Wave.setVAt, Tab.get_set]
  by_cases h : r = q ∧ l = m
  · rw [if_pos h, if_pos (by omega)]
  · rw [if_neg h, if_neg (by omega)]

end Sys2Proof.Machine
end

