-- ==== Sys2Proof/Laws/Lanes.lean ====
section
/-!
SUPPORT. Sys2Proof/Laws/Lanes.lean: lane masks, and what a change of many lanes leaves in each.
-/

namespace Sys2Proof.Machine

theorem mem_lanesOf (m : BitVec 32) (l : Nat) : l ∈ lanesOf m ↔ m.getLsbD l = true := by
  simp only [lanesOf, List.mem_filter, List.mem_range, and_iff_right_iff_imp]
  exact fun h => BitVec.lt_of_getLsbD h

theorem lanesOf_nodup (m : BitVec 32) : (lanesOf m).Nodup := List.nodup_range.filter _

theorem lanesOf_lt {m : BitVec 32} {l : Nat} (h : l ∈ lanesOf m) : l < 32 := BitVec.lt_of_getLsbD ((mem_lanesOf m l).1 h)

@[simp] theorem laneBit_getLsbD (l k : Nat) (hk : k < 32) : (laneBit l).getLsbD k = decide (l = k) := by
  simp [laneBit, hk]
  by_cases h : l = k <;> simp [h] <;> omega

/-- A fold that adds a lane at a time. -/
theorem foldl_laneBit (ls : List Nat) (m : BitVec 32) (k : Nat) (hk : k < 32) :
    (ls.foldl (fun m l => m ||| laneBit l) m).getLsbD k = (m.getLsbD k || decide (k ∈ ls)) := by
  induction ls generalizing m with
  | nil => simp
  | cons a r ih =>
    simp only [List.foldl_cons, ih, BitVec.getLsbD_or, laneBit_getLsbD _ _ hk, List.mem_cons, Bool.or_assoc]
    congr 1
    by_cases h1 : a = k
    · subst h1; simp
    · have : ¬ k = a := fun h => h1 h.symm
      simp [h1, this]

theorem maskOf_getLsbD (ls : List Nat) (k : Nat) (hk : k < 32) : (maskOf ls).getLsbD k = decide (k ∈ ls) := by
  simp [maskOf, foldl_laneBit _ _ _ hk]

/-- A mask is the mask of its lanes. -/
@[simp] theorem maskOf_lanesOf (m : BitVec 32) : maskOf (lanesOf m) = m := by
  apply BitVec.eq_of_getLsbD_eq
  intro i hi
  rw [maskOf_getLsbD _ _ hi]
  simp [mem_lanesOf]

theorem lanesOf_eq_nil (m : BitVec 32) : lanesOf m = [] ↔ m = 0 := by
  constructor
  · intro h; rw [← maskOf_lanesOf m, h]; rfl
  · rintro rfl; decide

/-- The lowest lane of a mask that is not empty is one of its lanes. -/
theorem lowLane_mem {m : BitVec 32} (h : m ≠ 0) : m.getLsbD (lowLane m) = true := by
  have : lanesOf m ≠ [] := fun hn => h ((lanesOf_eq_nil m).1 hn)
  rw [← mem_lanesOf, lowLane]
  cases hl : lanesOf m with
  | nil => exact absurd hl this
  | cons a r => simp

/-- A fold of per-lane changes over distinct lanes: each lane of the list is changed once. -/
theorem lane_foldl (f : Nat → Lane → Lane) (ls : List Nat) (hd : ls.Nodup) (w : Wave) (l : Nat) :
    (ls.foldl (fun w l => w.setLane l (f l (w.lane l))) w).lane l = if l ∈ ls then f l (w.lane l) else w.lane l := by
  induction ls generalizing w with
  | nil => simp
  | cons a r ih =>
    simp only [List.nodup_cons] at hd
    simp only [List.foldl_cons, ih hd.2, List.mem_cons, Wave.lane_setLane]
    by_cases h1 : a = l
    · subst h1; simp [hd.1]
    · have : ¬ l = a := fun h => h1 h.symm
      simp [h1, this]

/-- A lane after a change of the lanes of a mask. -/
theorem Wave.lane_mapLanes (w : Wave) (m : BitVec 32) (f : Nat → Lane → Lane) (l : Nat) :
    (w.mapLanes m f).lane l = if m.getLsbD l = true then f l (w.lane l) else w.lane l := by
  rw [mapLanes, lane_foldl f _ (lanesOf_nodup m)]
  simp [mem_lanesOf]

/-- A change of lanes changes only the lanes. -/
theorem Wave.mapLanes_rest (w : Wave) (m : BitVec 32) (f : Nat → Lane → Lane) :
    w.mapLanes m f = { w with lanes := (w.mapLanes m f).lanes } := by
  have (ls : List Nat) (u : Wave) : ls.foldl (fun w l => w.setLane l (f l (w.lane l))) u
      = { u with lanes := (ls.foldl (fun w l => w.setLane l (f l (w.lane l))) u).lanes } := by
    induction ls generalizing u with
    | nil => rfl
    | cons a r ih => rw [List.foldl_cons, ih]; rfl
  exact this _ _

/-! ### Writing one lane's results -/

/-- A v result of a lane changes the lane's latches and v registers only. -/
theorem Wave.writeV_rest (w : Wave) (l : Nat) (e : Enc) (xs : List PWord) :
    w.writeV l e xs = { w with lanes := (w.writeV l e xs).lanes, v := (w.writeV l e xs).v } := by
  have (ys : List (PWord × Nat)) (b : Nat) (u : Wave) : ys.foldl (fun w (p : PWord × Nat) => w.setVAt (b + p.2) l p.1) u
      = { u with v := (ys.foldl (fun w (p : PWord × Nat) => w.setVAt (b + p.2) l p.1) u).v } := by
    induction ys generalizing u with
    | nil => rfl
    | cons a r ih => rw [List.foldl_cons, ih]; rfl
  unfold Wave.writeV
  split
  · rfl
  · simp only []
    rw [this]; rfl

/-- The lanes after a v result. -/
theorem Wave.lane_writeV (w : Wave) (l : Nat) (e : Enc) (xs : List PWord) (m : Nat) :
    (w.writeV l e xs).lane m =
      if l = m then { w.lane l with latches := (w.lane l).latches.set e.dlt.toNat (LatchLane.mk (xs.headD {}) e.dst e.nwb true) }
      else w.lane m := by
  have (ys : List (PWord × Nat)) (b : Nat) (u : Wave) :
      (ys.foldl (fun w (p : PWord × Nat) => w.setVAt (b + p.2) l p.1) u).lane m = u.lane m := by
    induction ys generalizing u with
    | nil => rfl
    | cons a r ih => rw [List.foldl_cons, ih]; rfl
  unfold Wave.writeV
  split
  · simp
  · simp only []
    rw [this]; simp

/-- The v registers after consecutive writes in one lane. -/
theorem vAt_foldl_setVAt (l : Nat) (hl : l < 32) (b : Nat) (xs : List PWord) (k : Nat) (w : Wave) (q m : Nat) (hm : m < 32) :
    ((xs.zipIdx k).foldl (fun w (p : PWord × Nat) => w.setVAt (b + p.2) l p.1) w).vAt q m =
      if l = m ∧ b + k ≤ q ∧ q < b + k + xs.length then xs.getD (q - (b + k)) {} else w.vAt q m := by
  induction xs generalizing k w with
  | nil => simp <;> omega
  | cons a r ih =>
    simp only [List.zipIdx_cons, List.foldl_cons, ih, List.length_cons, Wave.vAt_setVAt _ _ _ _ _ _ hl hm]
    by_cases h1 : b + k = q ∧ l = m
    · obtain ⟨rfl, rfl⟩ := h1
      simp <;> (intro h; omega)
    · by_cases h2 : l = m ∧ b + (k + 1) ≤ q ∧ q < b + (k + 1) + r.length
      · obtain ⟨j, hj⟩ : ∃ j, q - (b + k) = j + 1 := ⟨q - (b + k) - 1, by omega⟩
        rw [if_pos h2, if_pos (by omega), hj, show q - (b + (k + 1)) = j by omega]; simp
      · rw [if_neg h2, if_neg h1, if_neg (by omega)]

/-- The v registers after a v result: the words in the destination unless NWB is set (R53). -/
theorem Wave.vAt_writeV (w : Wave) (l : Nat) (hl : l < 32) (e : Enc) (xs : List PWord) (q m : Nat) (hm : m < 32) :
    (w.writeV l e xs).vAt q m =
      if e.nwb = false ∧ l = m ∧ (w.lane l).base + e.dst.toNat ≤ q ∧ q < (w.lane l).base + e.dst.toNat + xs.length
      then xs.getD (q - ((w.lane l).base + e.dst.toNat)) {} else w.vAt q m := by
  unfold Wave.writeV
  split
  · next h => simp [h]
  · next h =>
    simp only []
    rw [vAt_foldl_setVAt l hl _ xs 0 _ q m hm]
    simp [h]

end Sys2Proof.Machine
end

