-- ==== Sys2Proof/Laws/Issue.lean ====
section
/-!
SUPPORT. Sys2Proof/Laws/Issue.lean: the shared frame of wave instructions: what an issue comes to when nothing stands in its way, and
what the end of an issue leaves of the wave.
-/

namespace Sys2Proof.Machine

open Host

/-! ### The batch stays whole (R75) -/

/-- Adding lanes that stand where a group stands keeps one group. -/
theorem groupLanes_extend (w : Wave) (pc : DWord) (base : Nat) (ls : List Nat) (g : BitVec 32) (hg : g ≠ 0)
    (hgl : ∀ l, g.getLsbD l = true → (w.lane l).pc = pc ∧ (w.lane l).base = base)
    (hls : ∀ l ∈ ls, l < 32 ∧ (w.lane l).pc = pc ∧ (w.lane l).base = base) :
    ls.foldl
      (fun gs l =>
        let same (g : BitVec 32) : Bool :=
          (w.lane (lowLane g)).pc == (w.lane l).pc && (w.lane (lowLane g)).base == (w.lane l).base
        if gs.any same then gs.map (fun g => if same g then g ||| laneBit l else g) else gs ++ [laneBit l]) [g]
      = [ls.foldl (fun m l => m ||| laneBit l) g] := by
  induction ls generalizing g with
  | nil => rfl
  | cons a r ih =>
    have ha := hls a (by simp)
    have hlow := hgl _ (lowLane_mem hg)
    have hne : g ||| laneBit a ≠ 0 := by
      intro h0
      have := congrArg (fun m => BitVec.getLsbD m (lowLane g)) h0
      simp [lowLane_mem hg] at this
    simp only [List.foldl_cons]
    rw [← ih (g ||| laneBit a) hne]
    · simp [hlow.1, hlow.2, ha.2.1, ha.2.2]
    · intro l hl
      rw [BitVec.getLsbD_or] at hl
      have hlt : l < 32 := by
        rcases Bool.or_eq_true_iff.1 hl with h | h <;> exact BitVec.lt_of_getLsbD h
      rcases Bool.or_eq_true_iff.1 hl with h | h
      · exact hgl l h
      · rw [laneBit_getLsbD _ _ hlt] at h
        have : a = l := of_decide_eq_true h
        exact this ▸ ha.2
    · exact fun l hl => hls l (by simp [hl])

/-- Lanes that stand at one PC and base form one group. -/
theorem groupLanes_one (w : Wave) (pc : DWord) (base : Nat) (ls : List Nat) (h0 : ls ≠ [])
    (hls : ∀ l ∈ ls, l < 32 ∧ (w.lane l).pc = pc ∧ (w.lane l).base = base) : groupLanes w ls = [maskOf ls] := by
  cases ls with
  | nil => exact absurd rfl h0
  | cons a r =>
    have ha := hls a (by simp)
    have hb : (laneBit a).getLsbD a = true := by rw [laneBit_getLsbD _ _ ha.1]; simp
    have hz : (0 : BitVec 32) ||| laneBit a = laneBit a := BitVec.zero_or
    unfold groupLanes maskOf
    simp only [List.foldl_cons, List.any_nil, Bool.false_eq_true, if_false, List.nil_append, hz]
    apply groupLanes_extend w pc base r (laneBit a)
    · intro h0; rw [h0] at hb; simp at hb
    · intro l hl
      have hlt : l < 32 := BitVec.lt_of_getLsbD hl
      rw [laneBit_getLsbD _ _ hlt] at hl
      have : a = l := of_decide_eq_true hl
      exact this ▸ ha.2
    · exact fun l hl => hls l (by simp [hl])

/-- A batch whose members are runnable and stand at one PC and base stays whole and becomes the most recently issued (R75, R77). -/
theorem repartition_whole (w : Wave) (m : BitVec 32) (pc : DWord) (base : Nat) (hm : m ≠ 0)
    (h : ∀ l, m.getLsbD l = true → (w.lane l).cond = .runnable ∧ (w.lane l).pc = pc ∧ (w.lane l).base = base) :
    w.repartition m m = { w with batches := w.batches.filter (fun b => b.mask &&& m == 0) ++ [⟨m⟩] } := by
  have hf : (lanesOf m).filter (fun l => (w.lane l).cond == .runnable) = lanesOf m := by
    rw [List.filter_eq_self]
    intro l hl
    simp [(h l ((mem_lanesOf m l).1 hl)).1]
  have hg : groupLanes w (lanesOf m) = [m] := by
    rw [groupLanes_one w pc base (lanesOf m) (fun hn => hm ((lanesOf_eq_nil m).1 hn))]
    · simp
    · exact fun l hl => ⟨lanesOf_lt hl, (h l ((mem_lanesOf m l).1 hl)).2⟩
  simp only [Wave.repartition, hf, hg]
  simp

/-! ### No join is due (R79, R80) -/

theorem releaseComplete_none (w : Wave) (h : ∀ n, n < 8 → w.complete n = false) : w.releaseComplete = w := by
  have (ns : List Nat) (hn : ∀ n ∈ ns, n < 8) :
      ns.foldl (fun w n => if w.complete n then w.release n else w) w = w := by
    induction ns with
    | nil => rfl
    | cons a r ih =>
      simp only [List.foldl_cons, h a (hn a (by simp)), Bool.false_eq_true, if_false]
      exact ih (fun n hr => hn n (by simp [hr]))
  exact this _ (fun n hn => List.mem_range.1 hn)

theorem lanesWhere_getLsbD (w : Wave) (p : Cond → Bool) (l : Nat) (hl : l < 32) :
    (w.lanesWhere p).getLsbD l = p (w.lane l).cond := by
  rw [Wave.lanesWhere, maskOf_getLsbD _ _ hl]
  simp [hl]

/-- A wave with a runnable fibre and no complete mask releases nobody. -/
theorem settleJoins_none (w : Wave) (n l : Nat) (h : ∀ n, n < 8 → w.complete n = false) (hl : l < 32)
    (hr : (w.lane l).cond = .runnable) : w.settleJoins n = w := by
  have hp : w.partialRelease = none := by
    unfold Wave.partialRelease
    rw [if_neg]
    intro hc
    simp only [Bool.and_eq_true, beq_iff_eq] at hc
    have h1 := congrArg (fun m => BitVec.getLsbD m l) hc.2
    simp only [Wave.liveHere] at h1
    simp [lanesWhere_getLsbD _ _ _ hl, hr] at h1
  cases n with
  | zero => rw [Wave.settleJoins, releaseComplete_none w h]
  | succ k => rw [Wave.settleJoins, releaseComplete_none w h, hp, Option.elim_none]

/-- A wave with a runnable fibre has a live fibre. -/
theorem liveHere_ne_zero (w : Wave) (l : Nat) (hl : l < 32) (hr : (w.lane l).cond = .runnable) : w.liveHere ≠ 0 := by
  intro h0
  have h1 := congrArg (fun m => BitVec.getLsbD m l) h0
  simp only [Wave.liveHere] at h1
  simp [lanesWhere_getLsbD _ _ _ hl, hr] at h1

/-! ### The end of an issue -/

/-- Where no fibre's condition changed none goes on after a JOIN. -/
theorem afterJoin_none {w w0 : Wave} {m : BitVec 32} (h : ∀ l, (w.lane l).cond = (w0.lane l).cond) : w.afterJoin w0 m = w := by
  unfold Wave.afterJoin
  simp only [h]
  rw [if_neg]
  simp

/-- The wave after an issue whose batch goes on at the next PC. -/
def Wave.stepOn (w : Wave) (c : Ctx) : Wave :=
  let first := match w.batches with | b :: _ => b.mask &&& c.members != 0 | [] => true
  let w1 := w.mapLanes c.members (fun _ x => if x.cond == .runnable then { x with pc := c.nextPc } else x)
  ({ w1 with batches := w.batches.filter (fun b => b.mask &&& c.members == 0) ++ [⟨c.members⟩] } : Wave).issued first

/-- The end of an issue of a wave whose batch is runnable and together, with no join due, is the step to the next PC. -/
theorem finish_stepOn (s : State) (c : Ctx) (base : Nat) (hm : c.members ≠ 0) (he : (s.ctxWave c).ended = false)
    (hj : ∀ n, n < 8 → (s.ctxWave c).complete n = false)
    (h : ∀ l, c.members.getLsbD l = true → ((s.ctxWave c).lane l).cond = .runnable ∧ ((s.ctxWave c).lane l).base = base) :
    s.finish c false 0 = s.setCtxWave c ((s.ctxWave c).stepOn c) := by
  have hlow := lowLane_mem hm
  have hlt : lowLane c.members < 32 := BitVec.lt_of_getLsbD hlow
  unfold State.finish
  simp only [he, Bool.false_eq_true, if_false]
  generalize hw1 : (s.ctxWave c).mapLanes c.members (fun _ x => if x.cond == .runnable then { x with pc := c.nextPc } else x) = w1
  have hlane (l : Nat) (hl : c.members.getLsbD l = true) :
      (w1.lane l).cond = .runnable ∧ (w1.lane l).pc = c.nextPc ∧ (w1.lane l).base = base := by
    rw [← hw1, Wave.lane_mapLanes, if_pos hl]
    simp [h l hl]
  have hrest : w1 = { s.ctxWave c with lanes := w1.lanes } := by rw [← hw1]; exact Wave.mapLanes_rest _ _ _
  have hbat : w1.batches = (s.ctxWave c).batches := by rw [hrest]
  rw [show c.members ||| 0 = c.members from BitVec.or_zero, repartition_whole w1 c.members c.nextPc base hm hlane]
  have hcond : ((({ w1 with batches := w1.batches.filter (fun b => b.mask &&& c.members == 0) ++ [⟨c.members⟩] } : Wave)).lane
      (lowLane c.members)).cond = .runnable := (hlane _ hlow).1
  rw [settleJoins_none _ 9 (lowLane c.members) (by intro n hn; rw [hrest]; exact hj n hn) hlt hcond]
  have hlive : (({ w1 with batches := w1.batches.filter (fun b => b.mask &&& c.members == 0) ++ [⟨c.members⟩] } : Wave).issued
      (match (s.ctxWave c).batches with | b :: _ => b.mask &&& c.members != 0 | [] => true)).liveHere ≠ 0 :=
    liveHere_ne_zero _ (lowLane c.members) hlt hcond
  have hq (f : Bool) : (({ w1 with batches := w1.batches.filter (fun b => b.mask &&& c.members == 0) ++ [⟨c.members⟩] } : Wave).issued f).afterJoin
      w1 c.members = ({ w1 with batches := w1.batches.filter (fun b => b.mask &&& c.members == 0) ++ [⟨c.members⟩] } : Wave).issued f :=
    afterJoin_none (fun _ => rfl)
  rw [hq]
  have hb : (({ w1 with batches := w1.batches.filter (fun b => b.mask &&& c.members == 0) ++ [⟨c.members⟩] } : Wave).issued
      (match (s.ctxWave c).batches with | b :: _ => b.mask &&& c.members != 0 | [] => true)).liveHere != 0 := by
    rw [bne_iff_ne]; exact hlive
  refine (if_pos hb).trans ?_
  unfold Wave.stepOn
  simp only [hw1, hbat] <;> rfl

/-! ### What stands in nobody's way -/

/-- A barrier that holds a contribution is one of the table's. -/
theorem bar_pend_mem {k : Block} {n : Nat} {p : Contrib} (h : p ∈ (k.bar n).pend) : ∃ q ∈ k.bars, p ∈ q.2.pend := by
  unfold Block.bar at h
  revert h
  induction k.bars with
  | nil => intro h; cases h
  | cons a r ih =>
    obtain ⟨i, b⟩ := a
    intro h
    simp only [Tab.get] at h
    split at h
    · exact ⟨(i, b), by simp, h⟩
    · split at h
      · cases h
      · obtain ⟨q, hq, hp⟩ := ih h
        exact ⟨q, by simp [hq], hp⟩

/-- No contribution of the wave is on its way: none has to reach its barrier first (R212). -/
theorem drainArrivals_none (s : State) (blk wave : Nat)
    (hb : ∀ b ∈ (s.block blk).bars, ∀ p ∈ b.2.pend, p.ofWave wave = false) : s.drainArrivals blk wave = s := by
  have h (n : Nat) (p : Contrib) (hp : p ∈ ((s.block blk).bar n).pend) : p.ofWave wave = false := by
    obtain ⟨q, hq, hpq⟩ := bar_pend_mem hp
    exact hb q hq p hpq
  have hb (b : Nat) : s.drainBar blk b (fun c => c.ofWave wave) = s := by
    have : (((s.block blk).bar b).pend.reverse.takeWhile (fun c => !c.ofWave wave)) = ((s.block blk).bar b).pend.reverse := by
      have hl (ps : List Contrib) (hp : ∀ p ∈ ps, p.ofWave wave = false) : ps.takeWhile (fun c => !c.ofWave wave) = ps := by
        induction ps with
        | nil => rfl
        | cons a r ih => simp [hp a (by simp), ih (fun p hr => hp p (by simp [hr]))]
      exact hl _ (fun p hp => h b p (List.mem_reverse.1 hp))
    simp [State.drainBar, this]
  unfold State.drainArrivals
  generalize (s.block blk).bars = bs
  induction bs with
  | nil => rfl
  | cons a r ih => simp only [List.foldl_cons, hb]; exact ih

/-- No access meets the test: none is made to happen. -/
theorem performWhere_none (s : State) (blk wave : Nat) (p : Access → Bool)
    (h : ∀ a ∈ (s.wave blk wave).acc, p a = false) : s.performWhere blk wave p = s := by
  have : (s.wave blk wave).acc.filter p = [] := by
    rw [List.filter_eq_nil_iff]; intro a ha; simp [h a ha]
  simp [State.performWhere, this]

theorem settle_none (s : State) (c : Ctx) (i : Instr) (e : Enc) (h : (s.ctxWave c).quiet c.members i e) :
    s.settle c i e false = s := by
  unfold State.settle
  unfold Wave.quiet at h
  split
  · apply performWhere_none; simp
  · next sh hs =>
    rw [hs] at h
    apply performWhere_none
    intro a ha
    simpa using h a ha

theorem settle_all_none (s : State) (c : Ctx) (i : Instr) (e : Enc) (h : (s.ctxWave c).quiet c.members i e)
    (ha : ∀ a ∈ (s.ctxWave c).acc, a.dst.regs = none) : s.settle c i e true = s := by
  unfold State.settle
  unfold Wave.quiet at h
  split
  · apply performWhere_none; intro a hm; simp [ha a hm]
  · next sh hs =>
    rw [hs] at h
    apply performWhere_none
    intro a hm
    simp [ha a hm, h a hm]

variable {s : State} {i : Instr} {e : Enc} {c : Ctx}

theorem Ready.acting_sub (h : Ready s i e c) {l : Nat} (hl : c.acting.getLsbD l = true) : c.members.getLsbD l = true := by
  have hc := h.issuer
  have hlt := BitVec.lt_of_getLsbD hl
  unfold State.ctx at hc
  split at hc
  · split at hc
    · cases hc
    · simp only [Option.some.injEq] at hc
      subst hc
      simp only [maskOf_getLsbD _ _ hlt, decide_eq_true_eq, List.mem_filter, mem_lanesOf] at hl
      exact hl.1
  · cases hc

/-- Every member stands at the leader's base. -/
theorem Ready.bases (h : Ready s i e c) {l : Nat} (hl : c.members.getLsbD l = true) :
    ((s.ctxWave c).lane l).base = ((s.ctxWave c).lane c.leader).base :=
  h.together _ _ hl (h.acting_sub (lowLane_mem h.acting))

theorem Ready.members_ne (h : Ready s i e c) : c.members ≠ 0 := by
  intro h0
  have := h.acting_sub (lowLane_mem h.acting)
  rw [h0] at this
  simp at this

theorem Ready.acting_runs (h : Ready s i e c) {l : Nat} (hl : c.acting.getLsbD l = true) :
    ((s.ctxWave c).lane l).cond = .runnable := h.runs l (h.acting_sub hl)

/-- A ready instruction issues: its body acts, and the issue ends as the body's result says. -/
theorem issue_ready (h : Ready s i e c) (all : Bool) (ha : all = true → ∀ a ∈ (s.ctxWave c).acc, a.dst.regs = none)
    (hf : (s.ctxWave c).operandFaults c.acting i e = none) (body : State → Ctx → Res) :
    s.issue i e all body = .next (conclude c i (body (if endsClean i then s.unclean c.blk else s) c)) := by
  have hw : ¬((s.ctxWave c).emdepth ≠ 0 ∧ 65536 ≤ (s.ctxWave c).wdCount) := by
    rcases h.count with h1 | h1
    · simp [h1]
    · intro h2; omega
  have hd : (if instrWrites i then s.drainArrivals c.blk c.wave else s) = s := by
    by_cases hi : instrWrites i = true
    · rw [if_pos hi, drainArrivals_none s c.blk c.wave (h.arrivals hi)]
    · rw [if_neg hi]
  have hl : (instrWrites i && s.arrivalsLeft c.blk c.wave) = false := by
    cases hi : instrWrites i with
    | false => rfl
    | true =>
      unfold State.arrivalsLeft
      simp only [Bool.true_and, List.any_eq_false, Bool.not_eq_true]
      exact fun b hb => by simpa using h.arrivals hi b hb
  have hn : s.lateNew s c = false := by
    unfold State.lateNew
    simp only [Bool.and_eq_false_iff, List.any_eq_false]
    exact Or.inr (fun x hx => by simp [hx])
  have hs : s.settle c i e all = s := by
    cases all
    · exact settle_none s c i e h.quiet
    · exact settle_all_none s c i e h.quiet (ha rfl)
  unfold State.issue
  simp only [h.issuer, if_neg hw, hd, h.going.1, Option.isSome_none, hl, Bool.or_false, Bool.false_eq_true, if_false, hs, hn, if_neg h.acting, hf]

/-! ### Per-fibre results -/

/-- Results in every lane: the lanes' list. -/
theorem laneResults_ok (m : BitVec 32) (f : Nat → Except Cause LaneRes) (r : Nat → LaneRes)
    (h : ∀ l, m.getLsbD l = true → f l = .ok (r l)) : laneResults m f = .ok ((lanesOf m).map (fun l => (l, r l))) := by
  unfold laneResults
  simp only []
  split
  · congr 1
    rw [List.filterMap_map, ← List.filterMap_eq_map]
    have hall : ∀ l ∈ lanesOf m, f l = .ok (r l) := fun l hl => h l ((mem_lanesOf m l).1 hl)
    generalize lanesOf m = ls at hall
    induction ls with
    | nil => rfl
    | cons a t ih => simp [hall a (by simp)]; simpa using ih (fun l hl => hall l (by simp [hl]))
  · next p _ heq =>
    have hp := List.mem_of_mem_head? (l := List.filterMap _ _) (by rw [heq]; rfl)
    simp only [List.mem_filterMap, List.mem_map] at hp
    obtain ⟨_, ⟨l, hl, rfl⟩, hx⟩ := hp
    simp [h l ((mem_lanesOf m l).1 hl)] at hx

/-- A lane after the predicates of a result. -/
theorem setQ_fold (ps : List (Nat × Bool)) (x : Lane) :
    ps.foldl (fun (x : Lane) (p : Nat × Bool) => x.setQ p.1 p.2) x =
      { x with pred := ps.foldl (fun m (p : Nat × Bool) =>
          if p.1 == 31 then m else if p.2 then m ||| laneBit p.1 else m &&& ~~~(laneBit p.1)) x.pred } := by
  induction ps generalizing x with
  | nil => rfl
  | cons a r ih =>
    rw [List.foldl_cons, ih]
    unfold Lane.setQ
    split <;> simp_all

/-- A lane after its result, at the PC it had. -/
theorem lane_writeLane (w : Wave) (l : Nat) (e : Enc) (r : LaneRes) (m : Nat) :
    (w.writeLane l e r).lane m = if l = m then (w.lane l).after e r (w.lane l).pc else w.lane m := by
  unfold Wave.writeLane
  simp only [setQ_fold]
  by_cases hm : l = m
  · subst hm
    by_cases hw : r.words.isEmpty = true
    · simp [hw, Lane.after] <;> rfl
    · simp [hw, Lane.after, Wave.lane_writeV] <;> rfl
  · by_cases hw : r.words.isEmpty = true
    · simp [hw, hm]
    · simp [hw, hm, Wave.lane_writeV]

theorem vAt_writeLane (w : Wave) (l : Nat) (hl : l < 32) (e : Enc) (r : LaneRes) (q m : Nat) (hm : m < 32) :
    (w.writeLane l e r).vAt q m =
      if e.nwb = false ∧ l = m ∧ (w.lane l).base + e.dst.toNat ≤ q ∧ q < (w.lane l).base + e.dst.toNat + r.words.length
      then r.words.getD (q - ((w.lane l).base + e.dst.toNat)) {} else w.vAt q m := by
  unfold Wave.writeLane
  by_cases hw : r.words.isEmpty = true
  · have : r.words = [] := by simpa using hw
    simp [this] <;> (intros; omega)
  · simp only [hw, Bool.false_eq_true, if_false, Wave.vAt_setLane]
    exact Wave.vAt_writeV w l hl e r.words q m hm

theorem writeLane_rest (w : Wave) (l : Nat) (e : Enc) (r : LaneRes) :
    w.writeLane l e r = { w with lanes := (w.writeLane l e r).lanes, v := (w.writeLane l e r).v } := by
  unfold Wave.writeLane
  by_cases hw : r.words.isEmpty = true
  · simp only [hw, if_true]; rfl
  · simp only [hw, Bool.false_eq_true, if_false]
    have h := Wave.writeV_rest w l e r.words
    generalize hu : w.writeV l e r.words = u at h ⊢
    rw [h]; rfl

/-- The wave after results in a list of distinct lanes. -/
theorem foldl_writeLane (e : Enc) (r : Nat → LaneRes) (ls : List Nat) (hd : ls.Nodup) (hlt : ∀ l ∈ ls, l < 32) (w : Wave) :
    (∀ m, (ls.foldl (fun w l => w.writeLane l e (r l)) w).lane m =
      if m ∈ ls then (w.lane m).after e (r m) (w.lane m).pc else w.lane m) ∧
    (∀ m, m < 32 → ∀ q, (ls.foldl (fun w l => w.writeLane l e (r l)) w).vAt q m =
      if m ∈ ls ∧ e.nwb = false ∧ (w.lane m).base + e.dst.toNat ≤ q ∧ q < (w.lane m).base + e.dst.toNat + (r m).words.length
      then (r m).words.getD (q - ((w.lane m).base + e.dst.toNat)) {} else w.vAt q m) ∧
    ls.foldl (fun w l => w.writeLane l e (r l)) w =
      { w with lanes := (ls.foldl (fun w l => w.writeLane l e (r l)) w).lanes
               v := (ls.foldl (fun w l => w.writeLane l e (r l)) w).v } := by
  induction ls generalizing w with
  | nil => simp
  | cons a t ih =>
    simp only [List.nodup_cons] at hd
    have iht := ih hd.2 (fun l hl => hlt l (by simp [hl])) (w.writeLane a e (r a))
    simp only [List.foldl_cons]
    refine ⟨fun m => ?_, fun m hm q => ?_, ?_⟩
    · rw [iht.1 m, lane_writeLane]
      by_cases h1 : a = m
      · subst h1; simp [hd.1]
      · have : ¬ m = a := fun h => h1 h.symm
        simp [h1, this]
    · rw [iht.2.1 m hm q, lane_writeLane, vAt_writeLane w a (hlt a (by simp)) e (r a) q m hm]
      by_cases h1 : a = m
      · subst h1; simp [hd.1]
      · have : ¬ m = a := fun h => h1 h.symm
        simp [h1, this]
    · rw [iht.2.2]
      have h := writeLane_rest w a e (r a)
      generalize hu : w.writeLane a e (r a) = u at h ⊢
      rw [h]

end Sys2Proof.Machine
end

