-- ==== Sys2Proof/Laws/Results.lean ====
section
/-!
SUPPORT. Sys2Proof/Laws/Results.lean: what a per-fibre and a uniform computation leave, once for every instruction that is one.
-/

namespace Sys2Proof.Machine

open Host

variable {s : State} {i : Instr} {e : Enc} {c : Ctx}

/-- A change of one wave's value in the state changes only that wave. -/
theorem onlyWave_setCtxWave (s : State) (c : Ctx) (w : Wave) : OnlyWave s (s.setCtxWave c w) c where
  device := rfl
  others b hb := by
    have : ¬ c.blk = b := fun h => hb h.symm
    simp [State.setCtxWave, this]
  block := by simp [State.setCtxWave]
  waves k hk := by
    have : ¬ c.wave = k := fun h => hk h.symm
    simp [State.setCtxWave, State.wave_setWave, this]

/-- Every lane after the step to the next PC. -/
theorem lane_stepOn (w : Wave) (c : Ctx) (l : Nat) :
    (w.stepOn c).lane l = if c.members.getLsbD l = true ∧ (w.lane l).cond = .runnable then { w.lane l with pc := c.nextPc } else w.lane l := by
  have : (w.stepOn c).lane l =
      (w.mapLanes c.members (fun _ x => if x.cond == .runnable then { x with pc := c.nextPc } else x)).lane l := rfl
  rw [this, Wave.lane_mapLanes]
  by_cases h1 : c.members.getLsbD l = true
  · by_cases h2 : (w.lane l).cond = .runnable <;> simp [h1, h2]
  · simp [h1]

theorem stepOn_rest (w : Wave) (c : Ctx) :
    w.stepOn c = { w with lanes := (w.stepOn c).lanes, batches := (w.stepOn c).batches, others := (w.stepOn c).others
                          wdCount := (w.stepOn c).wdCount } := by
  have h := Wave.mapLanes_rest w c.members (fun _ x => if x.cond == .runnable then { x with pc := c.nextPc } else x)
  unfold Wave.stepOn Wave.issued
  generalize hw : w.mapLanes c.members (fun _ x => if x.cond == .runnable then { x with pc := c.nextPc } else x) = w1 at h ⊢
  rw [h]

theorem stepOn_batches (w : Wave) (c : Ctx) :
    (w.stepOn c).batches = w.batches.filter (fun b => b.mask &&& c.members == 0) ++ [⟨c.members⟩] := rfl

/-- A ready instruction whose body gives the batch's wave the value w, the batch's lanes keeping their conditions and bases, ends
with the step to the next PC. -/
theorem finish_ready (h : Ready s i e c) (w : Wave) (he : w.ended = false) (hm : w.masks = (s.ctxWave c).masks)
    (ha : w.arrived = (s.ctxWave c).arrived)
    (hl : ∀ l, c.members.getLsbD l = true →
      (w.lane l).cond = ((s.ctxWave c).lane l).cond ∧ (w.lane l).base = ((s.ctxWave c).lane l).base) :
    (s.setCtxWave c w).finish c false 0 = s.setCtxWave c (w.stepOn c) := by
  rw [finish_stepOn (s.setCtxWave c w) c ((s.ctxWave c).lane c.leader).base h.members_ne]
  · simp
  · simpa using he
  · intro n hn
    simp only [State.ctxWave_setCtxWave]
    have := h.joined n hn
    unfold Wave.complete at this ⊢
    rw [hm, ha]; exact this
  · intro l hml
    simp only [State.ctxWave_setCtxWave]
    exact ⟨(hl l hml).1.trans (h.runs l hml), (hl l hml).2.trans (h.bases hml)⟩

/-- A per-fibre computation that has a result in every acting lane completes, and writes each lane's result and nothing else. -/
theorem issue_lanes (h : Ready s i e c) (all : Bool) (ha : all = true → ∀ a ∈ (s.ctxWave c).acc, a.dst.regs = none)
    (hf : (s.ctxWave c).operandFaults c.acting i e = none) (hc : endsClean i = false)
    (f : Ctx → Wave → Nat → Except Cause LaneRes) (body : State → Ctx → Res) (hb : body s c = lanesBody e f s c) (r : Nat → LaneRes)
    (hr : ∀ l, c.acting.getLsbD l = true → f c (s.ctxWave c) l = .ok (r l)) :
    ∃ t, s.issue i e all body = .next t ∧ WroteLanes s t c e r := by
  rw [issue_ready h all ha hf]
  simp only [hc, Bool.false_eq_true, if_false, hb]
  have hb : lanesBody e f s c =
      Res.next (s.setCtxWave c ((lanesOf c.acting).foldl (fun w l => w.writeLane l e (r l)) (s.ctxWave c))) := by
    unfold lanesBody
    simp only [laneResults_ok _ _ r hr, List.foldl_map]
  have hfold := foldl_writeLane e r (lanesOf c.acting) (lanesOf_nodup _) (fun l hl => lanesOf_lt hl) (s.ctxWave c)
  generalize hw : (lanesOf c.acting).foldl (fun w l => w.writeLane l e (r l)) (s.ctxWave c) = w at hfold hb
  obtain ⟨hlane, hv, hrest⟩ := hfold
  simp only [mem_lanesOf] at hlane hv
  have hcb (l : Nat) : (w.lane l).cond = ((s.ctxWave c).lane l).cond ∧ (w.lane l).base = ((s.ctxWave c).lane l).base := by
    rw [hlane l]; split <;> simp [Lane.after]
  refine ⟨_, rfl, ?_⟩
  rw [hb]
  unfold conclude Res.next
  simp only []
  rw [finish_ready h w (by rw [hrest]; exact h.going.2) (by rw [hrest]) (by rw [hrest]) (fun l _ => hcb l)]
  refine ⟨onlyWave_setCtxWave _ _ _, ⟨?_, ?_, ?_⟩, ?_, ?_, ?_, ?_⟩
  · simp only [State.ctxWave_setCtxWave]
    generalize hw2 : w.stepOn c = w2
    rw [← hw2, stepOn_rest, hrest]
  · simp only [State.ctxWave_setCtxWave, stepOn_batches]; rw [hrest]
  · intro l hl
    have hna : ¬ c.acting.getLsbD l = true := fun hx => by
      have hy := h.acting_sub hx
      rw [hl] at hy; cases hy
    simp [lane_stepOn, hl, hlane, hna]
  · simp only [State.ctxWave_setCtxWave]; rw [stepOn_rest, hrest]
  · intro l hl
    have hm := h.acting_sub hl
    simp only [State.ctxWave_setCtxWave, lane_stepOn, hm, true_and, hlane l, hl, if_true]
    rw [if_pos (by exact h.runs l hm)]
    rfl
  · intro l hm hl
    simp [State.ctxWave_setCtxWave, lane_stepOn, hm, hlane l, hl, h.runs l hm]
  · intro l hl q
    have : ((s.setCtxWave c (w.stepOn c)).ctxWave c).vAt q l = w.vAt q l := by
      simp only [State.ctxWave_setCtxWave]
      rw [stepOn_rest]; rfl
    rw [this, hv l hl q]

/-- Uniform writes change only the s registers. -/
theorem writeS_fold (n : Nat) (xs : List PWord) (k : Nat) (w : Wave) :
    ((xs.zipIdx k).foldl (fun w (p : PWord × Nat) => w.setS (n + p.2) p.1) w) =
      { w with s := ((xs.zipIdx k).foldl (fun w (p : PWord × Nat) => w.setS (n + p.2) p.1) w).s } ∧
    ∀ q, ((xs.zipIdx k).foldl (fun w (p : PWord × Nat) => w.setS (n + p.2) p.1) w).sAt q =
      if n + k ≤ q ∧ q < n + k + xs.length then xs.getD (q - (n + k)) {} else w.sAt q := by
  induction xs generalizing k w with
  | nil => simp <;> omega
  | cons a r ih =>
    have h := ih (k + 1) (w.setS (n + k) a)
    simp only [List.zipIdx_cons, List.foldl_cons, List.length_cons]
    refine ⟨h.1, fun q => ?_⟩
    rw [h.2 q, Wave.sAt_setS]
    by_cases h1 : n + k = q
    · subst h1; simp <;> (intro h2; omega)
    · by_cases h2 : n + (k + 1) ≤ q ∧ q < n + (k + 1) + r.length
      · obtain ⟨j, hj⟩ : ∃ j, q - (n + k) = j + 1 := ⟨q - (n + k) - 1, by omega⟩
        rw [if_pos h2, if_pos (by omega), hj, show q - (n + (k + 1)) = j by omega]; simp
      · rw [if_neg h2, if_neg h1, if_neg (by omega)]

/-- A uniform computation that has a result completes, and writes the s registers of its destination and nothing else. -/
theorem issue_uniform (h : Ready s i e c) (hf : (s.ctxWave c).operandFaults c.acting i e = none) (hc : endsClean i = false)
    (f : Ctx → Wave → Except Cause (List PWord)) (body : State → Ctx → Res) (hb : body s c = uniBody e f s c) (xs : List PWord)
    (hr : f c (s.ctxWave c) = .ok xs) :
    ∃ t, s.issue i e false body = .next t ∧ WroteUniform s t c e xs := by
  rw [issue_ready h false (by simp) hf]
  simp only [hc, Bool.false_eq_true, if_false, hb]
  have hbd : uniBody e f s c = Res.next (s.setCtxWave c ((s.ctxWave c).writeS e.dst xs)) := by
    unfold uniBody; simp only [hr]
  have hw := writeS_fold (e.dst.toNat - 192) xs 0 (s.ctxWave c)
  have hdef : (s.ctxWave c).writeS e.dst xs =
      (xs.zipIdx).foldl (fun w (p : PWord × Nat) => w.setS (e.dst.toNat - 192 + p.2) p.1) (s.ctxWave c) := rfl
  rw [← hdef] at hw
  generalize (s.ctxWave c).writeS e.dst xs = w at hw hbd
  obtain ⟨hrest, hs⟩ := hw
  have hlane (l : Nat) : w.lane l = (s.ctxWave c).lane l := by rw [hrest]; rfl
  refine ⟨_, rfl, ?_⟩
  rw [hbd]
  unfold conclude Res.next
  simp only []
  rw [finish_ready h w (by rw [hrest]; exact h.going.2) (by rw [hrest]) (by rw [hrest]) (fun l _ => by simp [hlane l])]
  refine ⟨onlyWave_setCtxWave _ _ _, ⟨?_, ?_, ?_⟩, ?_, ?_, ?_⟩
  · simp only [State.ctxWave_setCtxWave]
    generalize hw2 : w.stepOn c = w2
    rw [← hw2, stepOn_rest, hrest]
  · simp only [State.ctxWave_setCtxWave, stepOn_batches]; rw [hrest]
  · intro l hl; simp [lane_stepOn, hl, hlane l]
  · intro l hm; simp [lane_stepOn, hm, hlane l, h.runs l hm]
  · simp only [State.ctxWave_setCtxWave]; rw [stepOn_rest, hrest]
  · intro q
    have : ((s.setCtxWave c (w.stepOn c)).ctxWave c).sAt q = w.sAt q := by
      simp only [State.ctxWave_setCtxWave]
      rw [stepOn_rest]; rfl
    have h2 := hs q
    rw [Nat.add_zero] at h2
    exact this.trans h2

end Sys2Proof.Machine
end

