-- ==== Sys2Proof/Laws/Regroup.lean ====
section
/-!
SUPPORT. Sys2Proof/Laws/Regroup.lean: the parts of a batch by PC and base (R75), and the end of an issue that sets PCs and bases itself.
-/

namespace Sys2Proof.Machine

open Host

/-- Where a lane stands: its PC and window base. -/
def Wave.standsAt (w : Wave) (l : Nat) : DWord × Nat := ((w.lane l).pc, (w.lane l).base)

/-- The groups gs are the lanes of ls parted by where they stand. -/
structure Parts (w : Wave) (ls : List Nat) (gs : List (BitVec 32)) : Prop where
  nonempty : ∀ g ∈ gs, g ≠ 0
  together : ∀ g ∈ gs, ∀ k l, g.getLsbD k = true → g.getLsbD l = true → w.standsAt k = w.standsAt l
  apart : ∀ g ∈ gs, ∀ h ∈ gs, ∀ k l, g.getLsbD k = true → h.getLsbD l = true → w.standsAt k = w.standsAt l → g = h
  covered : ∀ l, l < 32 → (l ∈ ls ↔ ∃ g ∈ gs, g.getLsbD l = true)

theorem parts_step (w : Wave) (seen : List Nat) (gs : List (BitVec 32)) (a : Nat) (ha : a < 32) (h : Parts w seen gs) :
    Parts w (seen ++ [a]) (if gs.any (fun g => (w.lane (lowLane g)).pc == (w.lane a).pc && (w.lane (lowLane g)).base == (w.lane a).base)
      then gs.map (fun g => if (w.lane (lowLane g)).pc == (w.lane a).pc && (w.lane (lowLane g)).base == (w.lane a).base
        then g ||| laneBit a else g)
      else gs ++ [laneBit a]) := by
  have hsame (g : BitVec 32) : ((w.lane (lowLane g)).pc == (w.lane a).pc && (w.lane (lowLane g)).base == (w.lane a).base) =
      decide (w.standsAt (lowLane g) = w.standsAt a) := by
    simp [Wave.standsAt, Bool.decide_and]
    rfl
  have hlow (g) (hg : g ∈ gs) (k : Nat) (hk : g.getLsbD k = true) : w.standsAt k = w.standsAt (lowLane g) :=
    h.together g hg k _ hk (lowLane_mem (h.nonempty g hg))
  simp only [hsame]
  split
  · next hany =>
    simp only [List.any_eq_true, decide_eq_true_eq] at hany
    obtain ⟨g0, hg0, hs0⟩ := hany
    have huniq (g) (hg : g ∈ gs) (hs : w.standsAt (lowLane g) = w.standsAt a) : g = g0 :=
      h.apart g hg g0 hg0 _ _ (lowLane_mem (h.nonempty g hg)) (lowLane_mem (h.nonempty g0 hg0)) (hs.trans hs0.symm)
    have hbit (g : BitVec 32) (k : Nat) (hk : (g ||| laneBit a).getLsbD k = true) : g.getLsbD k = true ∨ a = k := by
      have hlt := BitVec.lt_of_getLsbD hk
      simpa only [BitVec.getLsbD_or, laneBit_getLsbD a k hlt, Bool.or_eq_true, decide_eq_true_eq] using hk
    refine ⟨?_, ?_, ?_, ?_⟩
    · intro g hg
      simp only [List.mem_map] at hg
      obtain ⟨x, hx, rfl⟩ := hg
      split
      · intro h0
        have := congrArg (fun m => BitVec.getLsbD m a) h0
        simp only [BitVec.getLsbD_or, laneBit_getLsbD a a ha, BitVec.ofNat_eq_ofNat, BitVec.getLsbD_zero] at this
        simp at this
      · exact h.nonempty x hx
    · intro g hg k l hk hl
      simp only [List.mem_map] at hg
      obtain ⟨x, hx, rfl⟩ := hg
      split at hk
      · next hs =>
        simp only [decide_eq_true_eq] at hs
        rw [if_pos (by simpa using hs)] at hl
        have h1 : w.standsAt k = w.standsAt a := by
          rcases hbit _ _ hk with h1 | h1
          · rw [hlow x hx k h1, hs]
          · rw [h1]
        have h2 : w.standsAt l = w.standsAt a := by
          rcases hbit _ _ hl with h1 | h1
          · rw [hlow x hx l h1, hs]
          · rw [h1]
        rw [h1, h2]
      · next hs =>
        rw [if_neg hs] at hl
        exact h.together x hx k l hk hl
    · intro g hg g' hg' k l hk hl heq
      simp only [List.mem_map] at hg hg'
      obtain ⟨x, hx, rfl⟩ := hg
      obtain ⟨y, hy, rfl⟩ := hg'
      have hat (x) (hx : x ∈ gs) (k) (hk : (if decide (w.standsAt (lowLane x) = w.standsAt a) = true then x ||| laneBit a else x).getLsbD k = true) :
          w.standsAt k = w.standsAt (lowLane x) := by
        split at hk
        · next hs =>
          simp only [decide_eq_true_eq] at hs
          rcases hbit _ _ hk with h1 | h1
          · exact hlow x hx k h1
          · rw [← h1, hs]
        · exact hlow x hx k hk
      have hk' := hat x hx k hk
      have hl' := hat y hy l hl
      have : x = y := h.apart x hx y hy _ _ (lowLane_mem (h.nonempty x hx)) (lowLane_mem (h.nonempty y hy))
        (by rw [← hk', ← hl', heq])
      rw [this]
    · intro l hl
      simp only [List.mem_append, List.mem_singleton, List.mem_map]
      constructor
      · rintro (h1 | h1)
        · obtain ⟨g, hg, hgl⟩ := (h.covered l hl).1 h1
          refine ⟨_, ⟨g, hg, rfl⟩, ?_⟩
          split <;> simp [hgl]
        · subst h1
          refine ⟨_, ⟨g0, hg0, rfl⟩, ?_⟩
          rw [if_pos (by simpa using hs0)]; simp only [BitVec.getLsbD_or, laneBit_getLsbD _ _ hl]; simp
      · rintro ⟨g, ⟨x, hx, rfl⟩, hgl⟩
        split at hgl
        · rcases hbit _ _ hgl with h1 | h1
          · exact .inl ((h.covered l hl).2 ⟨x, hx, h1⟩)
          · exact .inr h1.symm
        · exact .inl ((h.covered l hl).2 ⟨x, hx, hgl⟩)
  · next hany =>
    have hno (g) (hg : g ∈ gs) (k) (hk : g.getLsbD k = true) : w.standsAt k ≠ w.standsAt a := by
      intro h1
      apply hany
      simp only [List.any_eq_true, decide_eq_true_eq]
      exact ⟨g, hg, by rw [← hlow g hg k hk, h1]⟩
    have hbit (k : Nat) (hk : (laneBit a).getLsbD k = true) : a = k := by
      have hlt := BitVec.lt_of_getLsbD hk
      simpa only [laneBit_getLsbD a k hlt, decide_eq_true_eq] using hk
    refine ⟨?_, ?_, ?_, ?_⟩
    · intro g hg
      simp only [List.mem_append, List.mem_singleton] at hg
      rcases hg with hg | rfl
      · exact h.nonempty g hg
      · intro h0
        have := congrArg (fun m => BitVec.getLsbD m a) h0
        simp only [laneBit_getLsbD a a ha, BitVec.ofNat_eq_ofNat, BitVec.getLsbD_zero] at this
        simp at this
    · intro g hg k l hk hl
      simp only [List.mem_append, List.mem_singleton] at hg
      rcases hg with hg | rfl
      · exact h.together g hg k l hk hl
      · rw [← hbit k hk, ← hbit l hl]
    · intro g hg g' hg' k l hk hl heq
      simp only [List.mem_append, List.mem_singleton] at hg hg'
      rcases hg with hg | rfl <;> rcases hg' with hg' | rfl
      · exact h.apart g hg g' hg' k l hk hl heq
      · rw [← hbit l hl] at heq; exact absurd heq (hno g hg k hk)
      · rw [← hbit k hk] at heq; exact absurd heq.symm (hno g' hg' l hl)
      · rfl
    · intro l hl
      simp only [List.mem_append, List.mem_singleton]
      constructor
      · rintro (h1 | h1)
        · obtain ⟨g, hg, hgl⟩ := (h.covered l hl).1 h1
          exact ⟨g, .inl hg, hgl⟩
        · subst h1; exact ⟨_, .inr rfl, by simp only [laneBit_getLsbD _ _ hl]; simp⟩
      · rintro ⟨g, hg | rfl, hgl⟩
        · exact .inl ((h.covered l hl).2 ⟨g, hg, hgl⟩)
        · exact .inr (hbit l hgl).symm

/-- The groups of a list of lanes are its parts. -/
theorem groupLanes_parts (w : Wave) (ls : List Nat) (hl : ∀ l ∈ ls, l < 32) : Parts w ls (groupLanes w ls) := by
  have (ls : List Nat) (hl : ∀ l ∈ ls, l < 32) (seen : List Nat) (gs) (h : Parts w seen gs) :
      Parts w (seen ++ ls) (ls.foldl (fun gs a =>
        if gs.any (fun g => (w.lane (lowLane g)).pc == (w.lane a).pc && (w.lane (lowLane g)).base == (w.lane a).base)
        then gs.map (fun g => if (w.lane (lowLane g)).pc == (w.lane a).pc && (w.lane (lowLane g)).base == (w.lane a).base
          then g ||| laneBit a else g)
        else gs ++ [laneBit a]) gs) := by
    induction ls generalizing seen gs with
    | nil => simpa using h
    | cons a r ih =>
      have := ih (fun l hr => hl l (by simp [hr])) (seen ++ [a]) _ (parts_step w seen gs a (hl a (by simp)) h)
      rw [show seen ++ a :: r = seen ++ [a] ++ r by simp]
      exact this
  have := this ls hl [] [] ⟨by simp, by simp, by simp, by simp⟩
  exact this

/-- Where lanes stand decides their groups. -/
theorem groupLanes_congr (w u : Wave) (ls : List Nat) (h : ∀ l, w.standsAt l = u.standsAt l) : groupLanes w ls = groupLanes u ls := by
  have hp (l : Nat) : (w.lane l).pc = (u.lane l).pc ∧ (w.lane l).base = (u.lane l).base := by
    have := h l
    simp only [Wave.standsAt, Prod.mk.injEq] at this
    exact this
  unfold groupLanes
  simp only [hp]

/-- The end of an issue whose body set the PCs: the batch parts by PC and base, nobody is released. -/
theorem finish_jumped {s : State} {i : Instr} {e : Enc} {c : Ctx} (h : Ready s i e c) (w : Wave)
    (hrest : w = { s.ctxWave c with lanes := w.lanes, v := w.v })
    (hrun : ∀ l, c.members.getLsbD l = true → (w.lane l).cond = .runnable)
    (hout : ∀ l, c.members.getLsbD l = false → w.lane l = (s.ctxWave c).lane l) :
    Regrouped s ((s.setCtxWave c w).finish c true 0) c w.lane (groupLanes w (lanesOf c.members)) ∧
      (((s.setCtxWave c w).finish c true 0).ctxWave c).v = w.v := by
  have hrep : w.repartition c.members c.members =
      { (if (groupLanes w (lanesOf c.members) == [c.members]) = true then w else w.mapLanes c.members (fun _ x => x.loseLatches)) with
        batches := w.batches.filter (fun b => b.mask &&& c.members == 0) ++ (groupLanes w (lanesOf c.members)).map (fun g => ⟨g⟩) } := by
    have hf : (lanesOf c.members).filter (fun l => (w.lane l).cond == .runnable) = lanesOf c.members := by
      rw [List.filter_eq_self]
      intro l hl
      simp [hrun l ((mem_lanesOf _ l).1 hl)]
    have hne : (lanesOf c.members).isEmpty = false := by
      rw [List.isEmpty_eq_false_iff]
      exact fun hn => h.members_ne ((lanesOf_eq_nil _).1 hn)
    unfold Wave.repartition
    simp only [hf, hne, Bool.false_and, Bool.or_false]
  have hlow := lowLane_mem h.members_ne
  have hlt : lowLane c.members < 32 := BitVec.lt_of_getLsbD hlow
  have hmr := Wave.mapLanes_rest w c.members (fun _ x => x.loseLatches)
  have hml := Wave.lane_mapLanes w c.members (fun _ x => x.loseLatches)
  generalize hw1 : (if (groupLanes w (lanesOf c.members) == [c.members]) = true then w else
    w.mapLanes c.members (fun _ x => x.loseLatches)) = w1 at hrep
  have hr1 : w1 = { w with lanes := w1.lanes } := by
    rw [← hw1]; split
    · rfl
    · exact hmr
  have hl1 (l : Nat) : w1.lane l = if c.members.getLsbD l = true then
      (if groupLanes w (lanesOf c.members) = [c.members] then w.lane l else (w.lane l).loseLatches) else w.lane l := by
    rw [← hw1]
    by_cases hg : groupLanes w (lanesOf c.members) = [c.members]
    · rw [if_pos (by simpa using hg), if_pos hg]; simp
    · rw [if_neg (by simpa using hg), if_neg hg, hml]
  have hst (l : Nat) : w1.standsAt l = w.standsAt l := by
    unfold Wave.standsAt
    rw [hl1]
    split
    · split <;> rfl
    · rfl
  have hcond (l : Nat) : (w1.lane l).cond = (w.lane l).cond := by
    rw [hl1]
    split
    · split <;> rfl
    · rfl
  have hfin : ∃ k n, (s.setCtxWave c w).finish c true 0 = s.setCtxWave c
      { w1 with
        batches := w.batches.filter (fun b => b.mask &&& c.members == 0) ++ (groupLanes w (lanesOf c.members)).map (fun g => ⟨g⟩)
        others := k, wdCount := n } := by
    unfold State.finish
    simp only [State.ctxWave_setCtxWave]
    have hend : w.ended = false := by rw [hrest]; exact h.going.2
    simp only [hend, Bool.false_eq_true, if_false, if_true]
    rw [show c.members ||| 0 = c.members from BitVec.or_zero, hrep]
    have hj : ∀ n, n < 8 → ({ w1 with
        batches := w.batches.filter (fun b => b.mask &&& c.members == 0) ++ (groupLanes w (lanesOf c.members)).map (fun g => ⟨g⟩) } : Wave).complete n = false := by
      intro n hn
      have := h.joined n hn
      unfold Wave.complete at this ⊢
      rw [hr1, hrest]
      exact this
    have hrun1 : (({ w1 with
        batches := w.batches.filter (fun b => b.mask &&& c.members == 0) ++ (groupLanes w (lanesOf c.members)).map (fun g => ⟨g⟩) } : Wave).lane
          (lowLane c.members)).cond = .runnable := (hcond _).trans (hrun _ hlow)
    rw [settleJoins_none _ 9 (lowLane c.members) hj hlt hrun1]
    have hlive := liveHere_ne_zero _ (lowLane c.members) hlt hrun1
    generalize hw2 : ({ w1 with
        batches := w.batches.filter (fun b => b.mask &&& c.members == 0) ++ (groupLanes w (lanesOf c.members)).map (fun g => ⟨g⟩) } : Wave) = w2 at hlive
    have ha (first : Bool) : (w2.issued first).afterJoin w c.members = w2.issued first :=
      afterJoin_none (fun l => by rw [← hw2]; exact hcond l)
    have hl2 (first : Bool) : ((w2.issued first).liveHere != 0) = true := by rw [bne_iff_ne]; exact hlive
    simp only [ha, hl2, if_true, State.setCtxWave_setCtxWave]
    exact ⟨_, _, by rw [← hw2]; rfl⟩
  obtain ⟨k, n, hfin⟩ := hfin
  rw [hfin]
  have hp := groupLanes_parts w (lanesOf c.members) (fun l hl => lanesOf_lt hl)
  have hlane (l : Nat) : ((s.setCtxWave c
      { w1 with
        batches := w.batches.filter (fun b => b.mask &&& c.members == 0) ++ (groupLanes w (lanesOf c.members)).map (fun g => ⟨g⟩)
        others := k, wdCount := n }).ctxWave c).lane l = w1.lane l := by
    simp only [State.ctxWave_setCtxWave]; rfl
  refine ⟨⟨onlyWave_setCtxWave _ _ _, ?_, ?_, ?_, ?_, ?_, ?_⟩, ?_⟩
  · simp only [State.ctxWave_setCtxWave]
    rw [hr1, hrest]
  · intro l hl; rw [hlane, hl1, if_pos hl]
  · intro l hl; rw [hlane, hl1, if_neg (by simp [hl])]; exact hout l hl
  · simp only [State.ctxWave_setCtxWave]; rw [hrest]
  · intro l
    by_cases hl : l < 32
    · rw [← mem_lanesOf, hp.covered l hl]
    · have hbig (m : BitVec 32) : m.getLsbD l = false := BitVec.getLsbD_of_ge m l (by omega)
      simp [hbig]
  · intro g hg g' hg' a b ha hb
    simp only [hlane]
    have hs := hst a
    have hs' := hst b
    simp only [Wave.standsAt, Prod.mk.injEq] at hs hs'
    rw [hs.1, hs.2, hs'.1, hs'.2]
    constructor
    · rintro rfl
      have := hp.together g hg a b ha hb
      simpa [Wave.standsAt] using this
    · intro heq
      exact hp.apart g hg g' hg' a b ha hb (by simp [Wave.standsAt, heq])
  · simp only [State.ctxWave_setCtxWave]; rw [hr1]

end Sys2Proof.Machine
end

