-- ==== Sys2Proof/Laws/Control.lean ====
section
/-!
SUPPORT. Sys2Proof/Laws/Control.lean: what a control transfer leaves (R86).
-/

namespace Sys2Proof.Machine

open Host

/-- A legal target raises nothing (R86). -/
theorem pcFault_none (t : DWord) (h : t.toNat < 2 ^ 55 ∧ t.toNat % 4 = 0 ∧ t.toNat % 32 ≠ 28) : pcFault t = none := by
  unfold pcFault
  have h1 : t &&& 3#64 = 0#64 := by
    apply BitVec.eq_of_toNat_eq
    simp [BitVec.toNat_and, Nat.and_two_pow_sub_one_eq_mod t.toNat 2]
    exact h.2.1
  have h2 : (t &&& 0x1F).toNat = t.toNat % 32 := by
    simp [BitVec.toNat_and, Nat.and_two_pow_sub_one_eq_mod t.toNat 5]
  rw [if_neg (fun h0 => h0 (Nat.div_eq_of_lt h.1)), if_neg (by simp [h1]), if_neg]
  intro h3
  have h3 : t &&& 0x1F = 0x1C := by simpa using h3
  rw [h3] at h2
  exact h.2.2 h2.symm

/-- The target of a relative transfer. -/
theorem relTarget_eq (c : Ctx) (e : Enc) : c.pc + branchOffset e = c.pc + 4 * (if e.len = .l128 then e.imm32.signExtend 64 else e.imm16.signExtend 64) := by
  unfold branchOffset
  have (x : DWord) : x <<< 2 = 4 * x := by rw [BitVec.shiftLeft_eq_mul_twoPow, BitVec.mul_comm]; rfl
  split
  · next h => rw [h]; simp [this]
  · next h => rw [if_neg h]; simp [this]

/-- The change of one lane that a transfer makes. -/
def jumpLane (lose : Bool) (j : Nat → Jump) (w : Wave) (l : Nat) : Wave :=
        let x := w.lane l
        let x1 := { (if lose then x.loseLatches else x) with pc := (j l).target, base := (j l).base }
        let w := w.setLane l x1
        match (j l).link with
        | none => w
        | some (a, b) => (w.setVAt (j l).base l ⟨a, false⟩).setVAt ((j l).base + 1) l ⟨b, false⟩

/-- The lanes after one lane's transfer. -/
theorem lane_jumpLane (lose j w l m) : (jumpLane lose j w l).lane m =
   if l = m then { (if lose then (w.lane l).loseLatches else w.lane l) with pc := (j l).target, base := (j l).base } else w.lane m := by
  unfold jumpLane
  simp only
  split <;> simp

/-- The v registers after one lane's transfer. -/
theorem v_jumpLane (lose j w) (l : Nat) (hl : l < 32) (m : Nat) (hm : m < 32) (q : Nat) : (jumpLane lose j w l).vAt q m =
   if l = m then (match (j l).link with | none => w.vAt q m | some (a, b) => if q = (j l).base then ⟨a, false⟩ else if q = (j l).base + 1 then ⟨b, false⟩ else w.vAt q m) else w.vAt q m := by
  unfold jumpLane
  simp only
  split
  · simp
  · simp only [Wave.vAt_setVAt _ _ _ _ _ _ hl hm, Wave.vAt_setLane]
    by_cases h : l = m
    · subst h; simp only [and_true, if_true, eq_comm (a := q)]; grind
    · simp [h]

/-- A transfer changes lanes and v registers only. -/
theorem rest_jumpLane (lose j w) (l : Nat) : jumpLane lose j w l = { w with lanes := (jumpLane lose j w l).lanes, v := (jumpLane lose j w l).v } := by
  unfold jumpLane
  simp only
  split <;> rfl

/-- The wave after transfers in distinct lanes. -/
theorem fold_jumpLane (lose) (j : Nat → Jump) (ls : List Nat) (hd : ls.Nodup) (hlt : ∀ l ∈ ls, l < 32) (w : Wave) :
    (∀ m, (ls.foldl (jumpLane lose j) w).lane m = if m ∈ ls then { (if lose then (w.lane m).loseLatches else w.lane m) with pc := (j m).target, base := (j m).base } else w.lane m) ∧
    (∀ m, m < 32 → ∀ q, (ls.foldl (jumpLane lose j) w).vAt q m = if m ∈ ls then (match (j m).link with | none => w.vAt q m | some (a, b) => if q = (j m).base then ⟨a, false⟩ else if q = (j m).base + 1 then ⟨b, false⟩ else w.vAt q m) else w.vAt q m) ∧
    ls.foldl (jumpLane lose j) w = { w with lanes := (ls.foldl (jumpLane lose j) w).lanes, v := (ls.foldl (jumpLane lose j) w).v } := by
  induction ls generalizing w with
  | nil => simp
  | cons a t ih =>
    simp only [List.nodup_cons] at hd
    have iht := ih hd.2 (fun l hl => hlt l (by simp [hl])) (jumpLane lose j w a)
    simp only [List.foldl_cons]
    refine ⟨fun m => ?_, fun m hm q => ?_, ?_⟩
    · rw [iht.1 m, lane_jumpLane]
      by_cases h1 : a = m
      · subst h1; simp [hd.1]
      · have : ¬ m = a := fun h => h1 h.symm
        simp [h1, this]
    · rw [iht.2.1 m hm q, v_jumpLane _ _ _ a (hlt a (by simp)) m hm]
      by_cases h1 : a = m
      · subst h1; simp [hd.1]
      · have : ¬ m = a := fun h => h1 h.symm
        simp [h1, this]
    · rw [iht.2.2]
      have h := rest_jumpLane lose j w a
      generalize hu : jumpLane lose j w a = u at h ⊢
      rw [h]

/-- The body of a transfer whose targets are legal. -/
theorem jump_body (s : State) (c : Ctx) (f) (lose : Bool) (j : Nat → Jump) (hsub : ∀ l, c.acting.getLsbD l = true → c.members.getLsbD l = true)
    (hf : ∀ l, c.acting.getLsbD l = true → f c (s.ctxWave c) l = .ok (j l) ∧ pcFault (j l).target = none) :
    ∃ w2 : Wave, jumpBody f lose s c = .ok (s.setCtxWave c w2) true 0 ∧
    (∀ m, w2.lane m = if c.acting.getLsbD m then { (if lose then ((s.ctxWave c).lane m).loseLatches else (s.ctxWave c).lane m) with pc := (j m).target, base := (j m).base }
       else if c.members.getLsbD m then { (s.ctxWave c).lane m with pc := c.nextPc } else (s.ctxWave c).lane m) ∧
    (∀ m, m < 32 → ∀ q, w2.vAt q m = if c.acting.getLsbD m then (match (j m).link with | none => (s.ctxWave c).vAt q m | some (a, b) => if q = (j m).base then ⟨a, false⟩ else if q = (j m).base + 1 then ⟨b, false⟩ else (s.ctxWave c).vAt q m) else (s.ctxWave c).vAt q m) ∧
    w2 = { s.ctxWave c with lanes := w2.lanes, v := w2.v } := by
  have hfold := fold_jumpLane lose j (lanesOf c.acting) (lanesOf_nodup _) (fun l hl => lanesOf_lt hl) ((s.ctxWave c).mapLanes c.members (fun _ x => { x with pc := c.nextPc }))
  refine ⟨(lanesOf c.acting).foldl (jumpLane lose j) ((s.ctxWave c).mapLanes c.members (fun _ x => { x with pc := c.nextPc })), ?_, ?_, ?_, ?_⟩
  · unfold jumpBody
    simp only []
    generalize hR : List.map _ (lanesOf c.acting) = rs
    have hrs : rs = (lanesOf c.acting).map (fun l => (l, Except.ok (j l))) := by
      rw [← hR]
      apply List.map_congr_left
      intro l hl
      have := hf l ((mem_lanesOf _ _).1 hl)
      simp only [this.1, this.2]
    subst hrs
    split
    · next p heq =>
       have : ∀ (ls : List Nat), (ls.map (fun l => (l, (Except.ok (j l) : Except Cause Jump)))).filterMap (fun x => match x.2 with | .error k => some (x.1, k) | .ok _ => none) = [] := by
         intro ls; simp [List.filterMap_eq_nil_iff]
       have := (this _).symm.trans heq
       cases this
    · simp only [List.foldl_map]; rfl
  · intro m
    rw [hfold.1 m, Wave.lane_mapLanes]
    simp only [mem_lanesOf]
    by_cases h : c.acting.getLsbD m = true
    · simp only [h, if_true, hsub m h]; cases lose <;> rfl
    · simp [h]
  · intro m hm q
    rw [hfold.2.1 m hm q]
    simp only [mem_lanesOf]
    have : ((s.ctxWave c).mapLanes c.members (fun _ x => { x with pc := c.nextPc })).vAt q m = (s.ctxWave c).vAt q m := by
      rw [Wave.mapLanes_rest]; rfl
    rw [this]
  · rw [hfold.2.2]
    generalize (lanesOf c.acting).foldl (jumpLane lose j) _ = u
    rw [Wave.mapLanes_rest]

/-- A ready transfer whose targets are legal completes. -/
theorem issue_jump {s : State} {i : Instr} {e : Enc} {c : Ctx} (h : Ready s i e c) (all : Bool) (ha : all = true → ∀ a ∈ (s.ctxWave c).acc, a.dst.regs = none)
  (hf : (s.ctxWave c).operandFaults c.acting i e = none) (hc : endsClean i = false)
  (f) (lose : Bool) (j : Nat → Jump) (hf2 : ∀ l, c.acting.getLsbD l = true → f c (s.ctxWave c) l = .ok (j l) ∧ pcFault (j l).target = none)
  (x : Nat → Lane) (hx : ∀ l, x l = if c.acting.getLsbD l then { (if lose then ((s.ctxWave c).lane l).loseLatches else (s.ctxWave c).lane l) with pc := (j l).target, base := (j l).base } else { (s.ctxWave c).lane l with pc := c.nextPc }) :
  ∃ t gs, s.issue i e all (jumpBody f lose) = .next t ∧ Regrouped s t c x gs ∧ 
    (∀ m, m < 32 → ∀ q, (t.ctxWave c).vAt q m = if c.acting.getLsbD m then (match (j m).link with | none => (s.ctxWave c).vAt q m | some (a, b) => if q = (j m).base then ⟨a, false⟩ else if q = (j m).base + 1 then ⟨b, false⟩ else (s.ctxWave c).vAt q m) else (s.ctxWave c).vAt q m) ∧
    (∃ w2 : Wave, jumpBody f lose s c = .ok (s.setCtxWave c w2) true 0 ∧ (t.ctxWave c).v = w2.v) := by
  obtain ⟨w2, hb, hl, hv, hr⟩ := jump_body s c f lose j (fun l hl => h.acting_sub hl) hf2
  rw [issue_ready h all ha hf]
  simp only [hc, Bool.false_eq_true, if_false, hb, conclude]
  have hfin := finish_jumped h w2 hr (by
      intro l hm; rw [hl]; simp only [hm, if_true]; have := h.runs l hm
      split
      · cases lose <;> exact this
      · exact this) (by
      intro l hm; rw [hl]; simp only [hm]
      have : ¬ c.acting.getLsbD l = true := fun hx => by have := h.acting_sub hx; rw [hm] at this; cases this
      simp [this])
  refine ⟨_, groupLanes w2 (lanesOf c.members), rfl, ?_, ?_, w2, rfl, hfin.2⟩
  · have := hfin.1
    refine ⟨this.only, this.rest, ?_, this.outside, this.batches, this.covered, this.parts⟩
    intro l hm
    rw [this.inside l hm, hx, hl]; simp only [hm, if_true]
  · intro m hm q
    rw [← hv m hm q]
    unfold Wave.vAt
    rw [hfin.2]

/-- A transfer without link words keeps the v registers. -/
theorem v_jump_none (f lose) (j : Nat → Jump) (s c) (w2 : Wave) (hj : ∀ l, (j l).link = none)
   (hf : ∀ l, c.acting.getLsbD l = true → f c (s.ctxWave c) l = .ok (j l) ∧ pcFault (j l).target = none)
   (hb : jumpBody f lose s c = .ok (s.setCtxWave c w2) true 0) : w2.v = (s.ctxWave c).v := by
  have hv (ls : List Nat) (w : Wave) : (ls.foldl (jumpLane lose j) w).v = w.v := by
    induction ls generalizing w with
    | nil => rfl
    | cons a r ih => rw [List.foldl_cons, ih]; unfold jumpLane; simp only [hj]; rfl
  unfold jumpBody at hb
  simp only [] at hb
  generalize hR : List.map _ (lanesOf c.acting) = rs at hb
  have hrs : rs = (lanesOf c.acting).map (fun l => (l, Except.ok (j l))) := by
      rw [← hR]
      apply List.map_congr_left
      intro l hl
      have := hf l ((mem_lanesOf _ _).1 hl)
      simp only [this.1, this.2]
  subst hrs
  split at hb
  · cases hb
  · simp only [List.foldl_map, Res.ok.injEq] at hb
    have h1 := congrArg (fun t => (t.ctxWave c).v) hb.1
    simp only [State.ctxWave_setCtxWave] at h1
    rw [← h1]
    refine (hv _ _).trans ?_
    rw [Wave.mapLanes_rest]

/-- A ready transfer without link words completes and keeps the v registers. -/
theorem issue_jump_none {s : State} {i : Instr} {e : Enc} {c : Ctx} (h : Ready s i e c) (all : Bool) (ha : all = true → ∀ a ∈ (s.ctxWave c).acc, a.dst.regs = none)
  (hf : (s.ctxWave c).operandFaults c.acting i e = none) (hc : endsClean i = false)
  (f) (lose : Bool) (j : Nat → Jump) (hj : ∀ l, (j l).link = none) (hf2 : ∀ l, c.acting.getLsbD l = true → f c (s.ctxWave c) l = .ok (j l) ∧ pcFault (j l).target = none)
  (x : Nat → Lane) (hx : ∀ l, x l = if c.acting.getLsbD l then { (if lose then ((s.ctxWave c).lane l).loseLatches else (s.ctxWave c).lane l) with pc := (j l).target, base := (j l).base } else { (s.ctxWave c).lane l with pc := c.nextPc }) :
  ∃ t gs, s.issue i e all (jumpBody f lose) = .next t ∧ (t.ctxWave c).v = (s.ctxWave c).v ∧ Regrouped s t c x gs := by
  obtain ⟨t, gs, h1, h2, h3, w2, h4, h5⟩ := issue_jump h all ha hf hc f lose j hf2 x hx
  exact ⟨t, gs, h1, h5.trans (v_jump_none f lose j s c w2 hj hf2 h4), h2⟩

/-- Only per-fibre register instructions, SEL and memory instructions check their operands before their body. -/
theorem operandFaults_none (w : Wave) (m) (e) (i : Instr) (h : Instr.perFibreRegs i = false)
    (ho : ∀ opc x, i.form = some (opc, x) → opc ≠ 0x33 ∧ leaderOpcode opc = false ∧ memOpcode opc = false) : w.operandFaults m i e = none := by
  unfold Wave.operandFaults
  split
  · rfl
  · simp only [h, Bool.false_eq_true, if_false]
    split
    · next opc x hx =>
      obtain ⟨h1, h2, h3⟩ := ho opc x hx
      simp only [h2, h3, Bool.false_eq_true, if_false]
      rw [if_neg (by simpa using h1)]
    · rfl

end Sys2Proof.Machine
end

