-- ==== Sys2Proof/Laws/Elems.lean ====
section
/-!
SUPPORT. Sys2Proof/Laws/Elems.lean: elements of a register: what a pattern made element by element holds, and numbers as words.
-/

namespace Sys2Proof.Machine

/-- The partial sums of `mapElems` stay below the elements that are still to come. -/
theorem mapElems_sum (w : Nat) (f : Nat → Nat) (n : Nat) :
    (List.range n).foldl (fun acc k => acc + f k % 2 ^ w * 2 ^ (w * k)) 0 < 2 ^ (w * n) ∧
    ∀ k, k < n → (List.range n).foldl (fun acc k => acc + f k % 2 ^ w * 2 ^ (w * k)) 0 / 2 ^ (w * k) % 2 ^ w = f k % 2 ^ w := by
  induction n with
  | zero => simp
  | succ n ih =>
    obtain ⟨hlt, hk⟩ := ih
    simp only [List.range_succ, List.foldl_append, List.foldl_cons, List.foldl_nil]
    generalize (List.range n).foldl (fun acc k => acc + f k % 2 ^ w * 2 ^ (w * k)) 0 = t at hlt hk
    have hpos : 0 < 2 ^ w := Nat.two_pow_pos w
    have hx : f n % 2 ^ w < 2 ^ w := Nat.mod_lt _ hpos
    have hsplit : 2 ^ (w * (n + 1)) = 2 ^ w * 2 ^ (w * n) := by rw [Nat.mul_succ, Nat.pow_add, Nat.mul_comm]
    constructor
    · rw [hsplit]
      have : f n % 2 ^ w * 2 ^ (w * n) + 2 ^ (w * n) ≤ 2 ^ w * 2 ^ (w * n) := by
        rw [← Nat.succ_mul]; exact Nat.mul_le_mul_right _ hx
      omega
    · intro k hkn
      by_cases h : k = n
      · subst h
        rw [Nat.add_mul_div_right _ _ (Nat.two_pow_pos _), Nat.div_eq_of_lt hlt, Nat.zero_add, Nat.mod_mod]
      · have hkn' : k < n := by omega
        rw [← hk k hkn']
        have hsp : 2 ^ (w * n) = 2 ^ (w * k) * (2 ^ w * 2 ^ (w * (n - k - 1))) := by
          rw [← Nat.pow_add, ← Nat.pow_add]; congr 1
          have : n = k + 1 + (n - k - 1) := by omega
          conv => lhs; rw [this]
          simp [Nat.mul_add, Nat.add_assoc]
        rw [show f n % 2 ^ w * 2 ^ (w * n) = 2 ^ (w * k) * (2 ^ w * (2 ^ (w * (n - k - 1)) * (f n % 2 ^ w))) by
          rw [hsp]; simp [Nat.mul_comm, Nat.mul_left_comm]]
        rw [Nat.add_mul_div_left _ _ (Nat.two_pow_pos _), Nat.add_mul_mod_self_left]

/-- A pattern made element by element lies below 2^(n). -/
theorem mapElems_lt (w n : Nat) (f : Nat → Nat) : mapElems w n f < 2 ^ n :=
  Nat.lt_of_lt_of_le (mapElems_sum w f (n / w)).1 (Nat.pow_le_pow_right (by omega) (Nat.mul_div_le n w))

/-- Element k of a pattern made element by element. -/
theorem elemAt_mapElems (w n k : Nat) (f : Nat → Nat) (hk : w * (k + 1) ≤ n) (hw : 0 < w) :
    elemAt w (mapElems w n f) k = f k % 2 ^ w :=
  (mapElems_sum w f (n / w)).2 k ((Nat.le_div_iff_mul_le hw).2 (by rw [Nat.mul_comm]; exact hk))

/-- An element of a word made element by element. -/
theorem elemAt_word (w k : Nat) (f : Nat → Nat) (hk : w * (k + 1) ≤ 32) (hw : 0 < w) :
    elemAt w (wordsNat [BitVec.ofNat 32 (mapElems w 32 f)]) k = f k % 2 ^ w := by
  have : wordsNat [BitVec.ofNat 32 (mapElems w 32 f)] = mapElems w 32 f := by
    simp only [wordsNat, List.foldr_cons, List.foldr_nil, BitVec.toNat_ofNat, Nat.mul_zero, Nat.add_zero]
    exact Nat.mod_eq_of_lt (mapElems_lt w 32 f)
  rw [this, elemAt_mapElems w 32 k f hk hw]

/-- The two words of a 64-bit value are the value. -/
theorem wordsNat_dwords (x : DWord) : wordsNat (dwords x) = x.toNat := by
  simp only [wordsNat, dwords, List.foldr_cons, List.foldr_nil, BitVec.toNat_setWidth, BitVec.toNat_ushiftRight,
    Nat.shiftRight_eq_div_pow]
  have := x.isLt
  omega

/-- The one element of a 64-bit pattern. -/
theorem elemAt_dwords (n k : Nat) (hk : 64 * (k + 1) ≤ 64) : elemAt 64 (wordsNat (dwords (BitVec.ofNat 64 n))) k = n % 2 ^ 64 := by
  have : k = 0 := by omega
  subst this
  rw [wordsNat_dwords]
  simp [elemAt]

theorem itBits_cases (it : Nat) : itBits it = 32 ∨ itBits it = 16 ∨ itBits it = 8 ∨ itBits it = 64 := by
  unfold itBits; split <;> simp

theorem itBits_pos (it : Nat) : 0 < itBits it := by rcases itBits_cases it with h | h | h | h <;> omega

end Sys2Proof.Machine
end

