-- ==== Sys2Proof/Laws/Memory.lean ====
section
/-!
SUPPORT. Sys2Proof/Laws/Memory.lean: the memory operations keep the memory's canonical form, and what a cleared range reads as. The form under
single and several bytes is in Laws/Tab.lean.
-/

namespace Sys2Proof.Machine

/-- In a canonical memory every listed byte differs from what an unlisted address reads as. -/
theorem memory_wf_iff (m : List Host.Cell) :
    Memory.wf m = true ↔ m.Pairwise (fun a b => a.1 < b.1) ∧ ∀ p ∈ m, p.2 ≠ emptyByte := by
  induction m with
  | nil => simp [Memory.wf]
  | cons p r ih =>
    obtain ⟨i, b⟩ := p
    cases r with
    | nil => simp [Memory.wf]
    | cons q r =>
      obtain ⟨j, c⟩ := q
      simp only [Memory.wf, Bool.and_eq_true, decide_eq_true_eq, ih]
      constructor
      · rintro ⟨⟨hb, hij⟩, hp, hr⟩
        refine ⟨List.pairwise_cons.2 ⟨fun q hq => ?_, hp⟩, fun q hq => ?_⟩
        · rcases List.mem_cons.1 hq with rfl | hq
          · exact hij
          · exact Nat.lt_trans hij ((List.pairwise_cons.1 hp).1 q hq)
        · rcases List.mem_cons.1 hq with rfl | hq
          · exact hb
          · exact hr q hq
      · rintro ⟨hp, hr⟩
        exact ⟨⟨hr _ (List.mem_cons_self ..), (List.pairwise_cons.1 hp).1 _ (List.mem_cons_self ..)⟩, (List.pairwise_cons.1 hp).2,
          fun q hq => hr q (List.mem_cons_of_mem _ hq)⟩

/-- Clearing a range keeps the canonical form. -/
theorem memClear_wf (m : List Host.Cell) (a n : Nat) (h : Memory.wf m = true) : Memory.wf (memClear m a n) = true := by
  rw [memory_wf_iff] at h ⊢
  exact ⟨h.1.filter _, fun p hp => h.2 p (List.mem_filter.1 hp).1⟩

/-- The bytes of a memory and of an image written over it keep the form. -/
theorem memSet_foldl_wf (xs : List (Nat × Byte)) (m : List Host.Cell) (a : Nat) (h : Memory.wf m = true) :
    Memory.wf (xs.foldl (fun m (o, x) => memSet m (a + o) x) m) = true := by
  induction xs generalizing m with
  | nil => exact h
  | cons p r ih => exact ih _ (memSet_wf m _ _ h)

end Sys2Proof.Machine
end

