-- ==== Sys2Proof/Laws/Walk.lean ====
section
/-!
SUPPORT. Sys2Proof/Laws/Walk.lean: translation through entries whose A bits, and D bits for a write, are set: whatever the TLBs hold of
earlier such translations, it gives the leaves' page and changes nothing but what the TLBs hold (R397 to R402).
-/

namespace Sys2Proof.Machine

/-! ### A walk reads tables and no block, core or cluster -/

/-- The state with other draws, cores, clusters and blocks. -/
def State.recast (s : State) (n : Nat) (cs : Tab Core) (ks : Tab Cluster) (bs : Tab Block) : State :=
  { s with tick := n, cores := cs, clusters := ks, blocks := bs }

section
variable (s : State) (n : Nat) (cs : Tab Core) (ks : Tab Cluster) (bs : Tab Block)

theorem s2Walk_recast (ls : List (Nat × Nat)) (t g : Nat) (a : Bool) : s2Walk (s.recast n cs ks bs) ls t g a = s2Walk s ls t g a := by
  induction ls generalizing t with
  | nil => rfl
  | cons p r ih => unfold s2Walk; simp only [ih]; rfl

theorem s2Translate_recast (fn g : Nat) (a : Bool) : s2Translate (s.recast n cs ks bs) fn g a = s2Translate s fn g a := by
  unfold s2Translate
  simp only [s2Walk_recast]
  rfl

theorem s2Reads_recast (ls : List (Nat × Nat)) (t g : Nat) (a : Bool) : s2Reads (s.recast n cs ks bs) ls t g a = s2Reads s ls t g a := by
  induction ls generalizing t with
  | nil => rfl
  | cons p r ih => unfold s2Reads; simp only [ih]; rfl

theorem s2Trace_recast (fn g : Nat) (a : Bool) : s2Trace (s.recast n cs ks bs) fn g a = s2Trace s fn g a := by
  unfold s2Trace
  simp only [s2Reads_recast]
  rfl

theorem tableLeaf_recast (fn g : Nat) (held : List TlbLeaf) (tr : WalkTrace) :
    tableLeaf (s.recast n cs ks bs) fn g held tr = tableLeaf s fn g held tr := by
  unfold tableLeaf
  simp only [s2Trace_recast, s2Translate_recast]

theorem s1Walk_recast (fn va : Nat) (held : List TlbLeaf) (ls : List (Nat × Nat)) (t : Nat) (tr : WalkTrace) :
    s1Walk (s.recast n cs ks bs) fn va held ls t tr = s1Walk s fn va held ls t tr := by
  induction ls generalizing t tr with
  | nil => rfl
  | cons p r ih => unfold s1Walk; simp only [ih, tableLeaf_recast]; rfl

theorem s1Translate_recast (fn va : Nat) (held : List TlbLeaf) :
    s1Translate (s.recast n cs ks bs) fn va held = s1Translate s fn va held := by
  unfold s1Translate
  simp only [s1Walk_recast]
  rfl

end

/-! ### Stage 2 sees the page alone -/

theorem div_page {g h sh : Nat} (hg : g / 65536 = h / 65536) (hs : 16 ≤ sh) : g / 2 ^ sh = h / 2 ^ sh := by
  obtain ⟨k, rfl⟩ := Nat.exists_eq_add_of_le hs
  rw [Nat.pow_add, ← Nat.div_div_eq_div_mul, ← Nat.div_div_eq_div_mul]
  exact congrArg (· / 2 ^ k) hg

theorem s2Walk_page (s : State) {g h : Nat} (hg : g / 65536 = h / 65536) (a : Bool) (ls : List (Nat × Nat)) (hl : ∀ p ∈ ls, 16 ≤ p.2) (t : Nat) :
    s2Walk s ls t g a = s2Walk s ls t h a := by
  induction ls generalizing t with
  | nil => rfl
  | cons p r ih =>
    unfold s2Walk
    simp only [div_page hg (hl p (by simp)), ih (fun q hq => hl q (by simp [hq]))]

theorem walkLevels_low : ∀ p ∈ walkLevels, 16 ≤ p.2 := by decide

theorem s2Translate_page (s : State) (fn : Nat) {g h : Nat} (hg : g / 65536 = h / 65536) (a : Bool) :
    s2Translate s fn g a = s2Translate s fn h a := by
  unfold s2Translate
  simp only [s2Walk_page s hg a walkLevels walkLevels_low]

/-! ### Held leaves of the tables that say what the tables say -/

/-- Each held leaf of a function is the leaf that a walk of its guest page finds. -/
def heldOk (s : State) (fn : Nat) (held : List TlbLeaf) : Prop :=
  ∀ x ∈ held, x.fn = fn → ∃ p, s2Translate s fn (x.gpage * 65536) false = .ok p ∧ x.leaf = p.val ∧ x.level = p.level

/-- The table's leaf is the walk's but for its address, and what was walked and read is among what a walk without held leaves did. -/
theorem tableLeaf_held {s : State} {fn g : Nat} {held : List TlbLeaf} (h : heldOk s fn held) {tr tr0 : WalkTrace} {p : Pte} {tr2 : WalkTrace}
    (hn : tableLeaf s fn g [] tr0 = (.ok p, tr2)) (hu : ∀ x ∈ tr.used, x ∈ tr0.used) (hr : ∀ x ∈ tr.reads, x ∈ tr0.reads) :
    ∃ q tr1, tableLeaf s fn g held tr = (.ok q, tr1) ∧ q.val = p.val ∧ q.level = p.level ∧
      (∀ x ∈ tr1.used, x ∈ tr2.used) ∧ (∀ x ∈ tr1.reads, x ∈ tr2.reads) := by
  unfold tableLeaf at hn
  simp only [List.find?_nil] at hn
  split at hn
  · cases hn
  · rename_i p' hp
    simp only [Prod.mk.injEq, Except.ok.injEq] at hn
    obtain ⟨rfl, rfl⟩ := hn
    unfold tableLeaf
    split
    · rename_i x hx
      have hm := List.mem_of_find?_eq_some hx
      have hq := List.find?_some hx
      simp only [Bool.and_eq_true, beq_iff_eq] at hq
      obtain ⟨p1, h1, h2, h3⟩ := h x hm hq.1
      rw [s2Translate_page s fn (h := g) (by rw [Nat.mul_div_cancel _ (by decide)]; exact hq.2)] at h1
      rw [hp] at h1
      cases h1
      exact ⟨_, _, rfl, h2, h3, fun y hy => by simp [hu y hy], fun y hy => by simp [hr y hy]⟩
    · refine ⟨p', { used := tr.used ++ [(g / 65536, p')], reads := tr.reads ++ s2Trace s fn g false }, by simp only [hp], rfl, rfl, ?_, ?_⟩
      · intro y hy
        simp only [List.mem_append, List.mem_singleton] at hy ⊢
        exact hy.imp (hu y) id
      · intro y hy
        simp only [List.mem_append] at hy ⊢
        exact hy.imp (hr y) id

theorem leafOut_eq {p q : Pte} (hv : p.val = q.val) (hl : p.level = q.level) (a : Nat) : leafOut p a = leafOut q a := by
  unfold leafOut; rw [hv, hl]

/-- A walk that finds its leaf without held leaves finds it with them. -/
theorem s1Walk_held {s : State} {fn va : Nat} {held : List TlbLeaf} (h : heldOk s fn held) (ls : List (Nat × Nat)) :
    ∀ (t : Nat) (tr tr0 tr2 : WalkTrace) (l : Pte), s1Walk s fn va [] ls t tr0 = (.ok l, tr2) → (∀ x ∈ tr.used, x ∈ tr0.used) →
      (∀ x ∈ tr.reads, x ∈ tr0.reads) → ∃ tr1, s1Walk s fn va held ls t tr = (.ok l, tr1) ∧ (∀ x ∈ tr1.used, x ∈ tr2.used) ∧
        (∀ x ∈ tr1.reads, x ∈ tr2.reads) := by
  induction ls with
  | nil => intro t tr tr0 tr2 l hn; simp [s1Walk] at hn
  | cons p r ih =>
    intro t tr tr0 tr2 l hn hu hr
    obtain ⟨lv, sh⟩ := p
    unfold s1Walk at hn ⊢
    simp only [] at hn ⊢
    split at hn
    · cases hn
    · rename_i hg
      rw [if_neg hg]
      split at hn
      · cases hn
      · rename_i p2 trA hA
        obtain ⟨q, trB, hB, hv, hl, hu1, hr1⟩ := tableLeaf_held h hA hu hr
        rw [hB]
        simp only []
        split at hn
        · cases hn
        · rename_i hR
          rw [if_neg (by rw [hv]; exact hR), leafOut_eq hv hl]
          split at hn
          · cases hn
          · rename_i hS
            rw [if_neg hS]
            split at hn
            · cases hn
            · rename_i hP
              rw [if_neg hP]
              have hr2 : ∀ x ∈ ({ trB with reads := trB.reads ++ [leafOut p2 (t + 8 * (va / 2 ^ sh % 8192))] } : WalkTrace).reads,
                  x ∈ ({ trA with reads := trA.reads ++ [leafOut p2 (t + 8 * (va / 2 ^ sh % 8192))] } : WalkTrace).reads := by
                intro y hy
                simp only [List.mem_append] at hy ⊢
                exact hy.imp (hr1 y) id
              split at hn
              · cases hn
              · cases hn
              · rename_i hk
                simp only [Prod.mk.injEq, Except.ok.injEq] at hn
                obtain ⟨rfl, rfl⟩ := hn
                exact ⟨_, rfl, hu1, hr2⟩
              · rename_i t' hk
                exact ih t' _ _ tr2 l hn hu1 hr2

/-! ### Marked entries -/

/-- The entry's A bit, and its D bit where asked for, are set. -/
def State.pteMarked (s : State) (p : Pte) (d : Bool) : Bool :=
  s.dwordAt p.addr ||| 0x10 ||| (if d then 0x20 else 0) == s.dwordAt p.addr && p.val == s.dwordAt p.addr

theorem markPte_marked {s : State} {p : Pte} {d : Bool} (fn : Nat) (h : s.pteMarked p d = true) : s.markPte fn p d = s := by
  unfold State.markPte
  unfold State.pteMarked at h
  simp only [Bool.and_eq_true] at h
  simp only [h.1, if_true]

theorem marked_val {s : State} {p : Pte} {d : Bool} (h : s.pteMarked p d = true) : (p.marked d).val = p.val := by
  unfold State.pteMarked at h
  simp only [Bool.and_eq_true, beq_iff_eq] at h
  unfold Pte.marked
  rw [h.2]
  exact h.1

theorem markAll_marked {s : State} (fn : Nat) {ps : List (Nat × Pte)} (h : ∀ p ∈ ps, s.pteMarked p.2 false = true) :
    ps.foldl (fun s p => s.markPte fn p.2 false) s = s := by
  induction ps with
  | nil => rfl
  | cons a r ih =>
    rw [List.foldl_cons, markPte_marked fn (h a (by simp))]
    exact ih (fun p hp => h p (by simp [hp]))

/-- Where no unit has an error, entries that are not poisoned meet none. -/
theorem meetPtes_clean {s : State} (fn : Nat) (hf : s.faulty = []) {l : List Nat} (h : ∀ a ∈ l, s.poisonAt a 8 = false) : s.meetPtes fn l = s := by
  unfold State.meetPtes
  induction l with
  | nil => rfl
  | cons a r ih =>
    rw [List.foldl_cons, h a (by simp)]
    simp only [Bool.false_and, Bool.false_eq_true, if_false]
    rw [show s.meet fn a 8 = s by unfold State.meet; rw [hf]; rfl]
    exact ih (fun x hx => h x (by simp [hx]))

/-! ### What translation leaves -/

theorem walked_refl (s : State) : s.walked s := ⟨rfl, fun _ => rfl⟩

theorem walked_trans {s t u : State} (h : s.walked t) (g : t.walked u) : s.walked u := by
  refine ⟨?_, fun k => ?_⟩
  · rw [g.device, h.device]
  · rw [g.cores k, h.cores k]

theorem walked_both {s t u : State} (h : s.walked t) (g : s.walked u) : t.walked u := by
  refine ⟨?_, fun k => ?_⟩
  · rw [g.device, h.device]
  · rw [g.cores k, h.cores k]

theorem walked_tick (s : State) (n : Nat) : s.walked { s with tick := n } := ⟨rfl, fun _ => rfl⟩

theorem walked_setCluster (s : State) (k : Nat) (x : Cluster) : s.walked (s.setCluster k x) := ⟨rfl, fun _ => rfl⟩

theorem walked_setTlb (s : State) (core : Nat) (l : List TlbEntry) : s.walked (s.setCore core { s.core core with tlb := l }) where
  device := rfl
  cores k := by
    rw [State.core_setCore]
    split
    · rename_i h; subst h; rfl
    · rfl

theorem walked_drawBool (s : State) : s.walked s.drawBool.2 := ⟨rfl, fun _ => rfl⟩

theorem walked_drawKeep (s : State) (l : List TlbEntry) (t : TlbEntry) : s.walked (s.drawKeep l t).2 := by
  unfold State.drawKeep
  split
  · exact walked_drawBool s
  · exact walked_refl s

theorem walked_fillTlb (s : State) (core : Nat) (t : TlbEntry) : s.walked (s.fillTlb core t) :=
  walked_trans (walked_drawKeep s _ t) (walked_setTlb _ core _)

theorem walked_fillL2 (s : State) (core : Nat) (t : TlbEntry) : s.walked (s.fillL2 core t) :=
  walked_trans (walked_drawKeep s _ t) (walked_setCluster _ _ _)

theorem walked_fillLeaves (s : State) (core fn : Nat) (used : List (Nat × Pte)) : s.walked (s.fillLeaves core fn used) := by
  unfold State.fillLeaves
  split
  · exact walked_refl s
  · exact walked_setCluster _ _ _

/-- Dropping held leaves draws, and does nothing else. -/
theorem heldLeaves_tick (s : State) (core fn : Nat) : ∃ n, (s.heldLeaves core fn).2 = s.recast n s.cores s.clusters s.blocks := by
  unfold State.heldLeaves
  generalize List.filter _ _ = l
  suffices ∀ (l : List TlbLeaf) (a : List TlbLeaf) (t : State), (∃ n, t = s.recast n s.cores s.clusters s.blocks) →
      ∃ n, (l.foldl (fun (acc : List TlbLeaf × State) x =>
        let (drop, s1) := acc.2.drawBool
        (if drop then acc.1 else acc.1 ++ [x], s1)) (a, t)).2 = s.recast n s.cores s.clusters s.blocks from this l [] s ⟨s.tick, rfl⟩
  intro l
  induction l with
  | nil => intro a t h; exact h
  | cons y r ih => intro a t ⟨n, h⟩; exact ih _ _ ⟨n + 1, by rw [h]; rfl⟩

/-- The leaves that are held after drops are among those held. -/
theorem heldLeaves_sub (s : State) (core fn : Nat) : ∀ x ∈ (s.heldLeaves core fn).1, x ∈ (s.cluster (core / 8)).leaves := by
  unfold State.heldLeaves
  have hs : ∀ x ∈ (s.cluster (core / 8)).leaves.filter (fun x => x.fn == fn), x ∈ (s.cluster (core / 8)).leaves :=
    fun x hx => (List.mem_filter.1 hx).1
  suffices ∀ (l : List TlbLeaf) (a : List TlbLeaf) (t : State), (∀ x ∈ l, x ∈ (s.cluster (core / 8)).leaves) →
      (∀ x ∈ a, x ∈ (s.cluster (core / 8)).leaves) →
      ∀ x ∈ (l.foldl (fun (acc : List TlbLeaf × State) x =>
        let (drop, s1) := acc.2.drawBool
        (if drop then acc.1 else acc.1 ++ [x], s1)) (a, t)).1, x ∈ (s.cluster (core / 8)).leaves from this _ [] s hs (by simp)
  intro l
  induction l with
  | nil => intro a t _ ha; exact ha
  | cons y r ih =>
    intro a t hl ha
    simp only [List.foldl_cons]
    refine ih _ _ (fun x hx => hl x (by simp [hx])) (fun x hx => ?_)
    split at hx
    · exact ha x hx
    · simp only [List.mem_append, List.mem_singleton] at hx
      rcases hx with h | h
      · exact ha x h
      · exact h ▸ hl y (by simp)

/-- `walked` from a state that lists no core, as a test. -/
def walkedB (s t : State) : Bool :=
  decide (t = { s with tick := t.tick, cores := t.cores, clusters := t.clusters }) && s.cores.isEmpty &&
    t.cores.all (fun p => decide (p.2 = { ({} : Core) with tlb := p.2.tlb }))

/-- A core that no entry of the list gives is the empty one. -/
theorem core_plain {t : State} (h : ∀ p ∈ t.cores, p.2 = { ({} : Core) with tlb := p.2.tlb }) (k : Nat) :
    t.core k = { ({} : Core) with tlb := (t.core k).tlb } := by
  unfold State.core
  revert h
  induction t.cores with
  | nil => intro _; rfl
  | cons a r ih =>
    obtain ⟨i, x⟩ := a
    intro h
    simp only [Tab.get]
    split
    · exact h (i, x) (by simp)
    · split
      · rfl
      · exact ih (fun p hp => h p (by simp [hp]))

theorem walked_of {s t : State} (h : walkedB s t = true) : s.walked t := by
  simp only [walkedB, Bool.and_eq_true, decide_eq_true_eq, List.isEmpty_iff, List.all_eq_true] at h
  obtain ⟨⟨hd, hs⟩, ht⟩ := h
  refine ⟨hd, fun k => ?_⟩
  rw [core_plain ht k]
  simp [State.core, hs]

/-- A walked state is the first with other draws, cores and clusters. -/
theorem walked_recast {s t : State} (h : s.walked t) : t = s.recast t.tick t.cores t.clusters s.blocks := h.device

/-! ### Pages whose entries are marked -/

/-- The leaves that a walk of a page finds, where every entry it reads is clean and every table's leaf is marked. -/
def State.pageLeaves (s : State) (fn va : Nat) : Option (Pte × Option Pte) :=
  match s1Translate s fn va [] with
  | (.error _, _) => none
  | (.ok l1, tr) =>
    if tr.used.all (fun p => s.pteMarked p.2 false && (match s2Translate s fn (p.1 * 65536) false with | .ok y => decide (y = p.2) | .error _ => false)) &&
        tr.reads.all (fun a => !s.poisonAt a 8) && s.pteMarked l1 false then
      let g := s1Out l1 va
      if (rangeOf g).walked then
        match s2Translate s fn g (rangeOf g).permOnly with
        | .error _ => none
        | .ok l2 => if (s2Trace s fn g (rangeOf g).permOnly).all (fun a => !s.poisonAt a 8) && s.pteMarked l2 false then some (l1, some l2) else none
      else some (l1, none)
    else none

/-- What a TLB entry holds of two leaves. -/
def TlbEntry.holds (t : TlbEntry) (l1 : Pte) (l2 : Option Pte) : Bool :=
  t.leaf1 == l1.val && t.level1 == l1.level && t.leaf2 == (l2.map (·.val)).getD 0 && t.level2 == (l2.map (·.level)).getD 0 &&
    (match l2 with | some p => p.val != 0 | none => true)

/-- The pages that claims translate: each entry that a TLB holds of one is what its walk finds, and so is each held leaf of a table. -/
structure Coherent (s : State) (fn : Nat) (vas : List Nat) : Prop where
  clean : s.faulty = []
  pages : ∀ a ∈ vas, ∀ b ∈ vas, a / 65536 = b / 65536 → s.pageLeaves fn a = s.pageLeaves fn b
  cores : ∀ k, ∀ t ∈ (s.core k).tlb, ∀ va ∈ vas, t.isFor fn va = true → ∃ l1 l2, s.pageLeaves fn va = some (l1, l2) ∧ t.holds l1 l2 = true
  clusters : ∀ k, ∀ t ∈ (s.cluster k).tlb, ∀ va ∈ vas, t.isFor fn va = true → ∃ l1 l2, s.pageLeaves fn va = some (l1, l2) ∧ t.holds l1 l2 = true
  leaves : ∀ k, heldOk s fn (s.cluster k).leaves

/-- The address translates for the access by marked leaves. -/
def State.xlatB (s : State) (q : XReq) (va : Nat) (acc : Acc) (x : Xlat) : Bool :=
  match s.pageLeaves q.fn va with
  | none => false
  | some (l1, l2) =>
    decide (va < 2 ^ 55) && s.pteMarked l1 acc.writes && (match l2 with | some p => s.pteMarked p acc.writes && p.val != 0 | none => true) &&
    (match combine s q va acc l1 l2 with | .ok y => decide (y = x) | .error _ => false) && (!acc.writes || x.dirty)

theorem pageLeaves_recast (s : State) (n : Nat) (cs : Tab Core) (ks : Tab Cluster) (bs : Tab Block) (fn va : Nat) :
    (s.recast n cs ks bs).pageLeaves fn va = s.pageLeaves fn va := by
  unfold State.pageLeaves
  simp only [s1Translate_recast, s2Translate_recast, s2Trace_recast]
  rfl

theorem heldOk_recast {s : State} {fn : Nat} {held : List TlbLeaf} (h : heldOk s fn held) (n : Nat) (cs : Tab Core) (ks : Tab Cluster) (bs : Tab Block) :
    heldOk (s.recast n cs ks bs) fn held := by
  intro x hx hf
  rw [s2Translate_recast]
  exact h x hx hf

/-- With TLBs whose entries say what the tables say, a walked state stays coherent. -/
theorem coherent_recast {s : State} {fn : Nat} {vas : List Nat} (h : Coherent s fn vas) (n : Nat) (cs : Tab Core) (ks : Tab Cluster) (bs : Tab Block)
    (hcs : ∀ k, ∀ t ∈ ((s.recast n cs ks bs).core k).tlb, ∀ va ∈ vas, t.isFor fn va = true → ∃ l1 l2, s.pageLeaves fn va = some (l1, l2) ∧ t.holds l1 l2 = true)
    (hks : ∀ k, ∀ t ∈ ((s.recast n cs ks bs).cluster k).tlb, ∀ va ∈ vas, t.isFor fn va = true →
      ∃ l1 l2, s.pageLeaves fn va = some (l1, l2) ∧ t.holds l1 l2 = true)
    (hl : ∀ k, heldOk s fn ((s.recast n cs ks bs).cluster k).leaves) : Coherent (s.recast n cs ks bs) fn vas where
  clean := h.clean
  pages a ha b hb hp := by rw [pageLeaves_recast, pageLeaves_recast]; exact h.pages a ha b hb hp
  cores k t ht va hv hi := by rw [pageLeaves_recast]; exact hcs k t ht va hv hi
  clusters k t ht va hv hi := by rw [pageLeaves_recast]; exact hks k t ht va hv hi
  leaves k := heldOk_recast (hl k) n cs ks bs

theorem coherent_tick {s : State} {fn : Nat} {vas : List Nat} (h : Coherent s fn vas) (n : Nat) : Coherent { s with tick := n } fn vas :=
  coherent_recast h n s.cores s.clusters s.blocks h.cores h.clusters h.leaves

theorem coherent_setBlock {s : State} {fn : Nat} {vas : List Nat} (h : Coherent s fn vas) (i : Nat) (b : Block) : Coherent (s.setBlock i b) fn vas :=
  coherent_recast h s.tick s.cores s.clusters (s.blocks.set i b) h.cores h.clusters h.leaves

theorem mem_tlbTake {l : List TlbEntry} {cap : Nat} {t x : TlbEntry} {keep : Bool} (h : x ∈ tlbTake l cap t keep) : x = t ∨ x ∈ l := by
  unfold tlbTake at h
  split at h
  · exact Or.inr h
  · have := List.mem_of_mem_take h
    simp only [List.mem_cons, List.mem_filter] at this
    exact this.imp id (·.1)

theorem coherent_drawKeep {s : State} {fn : Nat} {vas : List Nat} (h : Coherent s fn vas) (l : List TlbEntry) (t : TlbEntry) :
    Coherent (s.drawKeep l t).2 fn vas := by
  unfold State.drawKeep
  split
  · exact coherent_tick h _
  · exact h

/-- The entry says what the walks of its pages find. -/
def Says (s : State) (fn : Nat) (vas : List Nat) (t : TlbEntry) : Prop :=
  ∀ va ∈ vas, t.isFor fn va = true → ∃ l1 l2, s.pageLeaves fn va = some (l1, l2) ∧ t.holds l1 l2 = true

theorem says_drawKeep {s : State} {fn : Nat} {vas : List Nat} {t : TlbEntry} (h : Says s fn vas t) (l : List TlbEntry) (u : TlbEntry) :
    Says (s.drawKeep l u).2 fn vas t := by
  unfold State.drawKeep
  split
  · intro va hv hi
    have := pageLeaves_recast s (s.drawBool.2).tick s.cores s.clusters s.blocks fn va
    rw [show s.drawBool.2 = s.recast (s.drawBool.2).tick s.cores s.clusters s.blocks from rfl, this]
    exact h va hv hi
  · exact h

theorem coherent_fillTlb {s : State} {fn : Nat} {vas : List Nat} {t : TlbEntry} (h : Coherent s fn vas) (core : Nat) (ht : Says s fn vas t) :
    Coherent (s.fillTlb core t) fn vas := by
  have h1 := coherent_drawKeep h (s.core core).tlb t
  have h2 := says_drawKeep ht (s.core core).tlb t
  unfold State.fillTlb
  generalize s.drawKeep (s.core core).tlb t = d at h1 h2
  obtain ⟨keep, s1⟩ := d
  refine coherent_recast (s := s1) h1 s1.tick (s1.cores.set core { s1.core core with tlb := tlbTake (s1.core core).tlb 384 t keep }) s1.clusters s1.blocks
    ?_ h1.clusters h1.leaves
  intro k x hx
  change x ∈ ((s1.setCore core _).core k).tlb at hx
  rw [State.core_setCore] at hx
  split at hx
  · rcases mem_tlbTake hx with hx | hx
    · subst hx; exact h2
    · exact h1.cores core x hx
  · exact h1.cores k x hx

theorem coherent_setCluster {s : State} {fn : Nat} {vas : List Nat} (h : Coherent s fn vas) (k : Nat) (x : Cluster)
    (ht : ∀ t ∈ x.tlb, Says s fn vas t) (hl : heldOk s fn x.leaves) : Coherent (s.setCluster k x) fn vas := by
  refine coherent_recast h s.tick s.cores (s.clusters.set k x) s.blocks h.cores ?_ ?_
  · intro j t hj
    change t ∈ ((s.setCluster k x).cluster j).tlb at hj
    rw [State.cluster_setCluster] at hj
    split at hj
    · exact ht t hj
    · exact h.clusters j t hj
  · intro j
    change heldOk s fn ((s.setCluster k x).cluster j).leaves
    rw [State.cluster_setCluster]
    split
    · exact hl
    · exact h.leaves j

theorem coherent_fillL2 {s : State} {fn : Nat} {vas : List Nat} {t : TlbEntry} (h : Coherent s fn vas) (core : Nat) (ht : Says s fn vas t) :
    Coherent (s.fillL2 core t) fn vas := by
  have h1 := coherent_drawKeep h (s.cluster (core / 8)).tlb t
  have h2 := says_drawKeep ht (s.cluster (core / 8)).tlb t
  unfold State.fillL2
  generalize s.drawKeep (s.cluster (core / 8)).tlb t = d at h1 h2
  obtain ⟨keep, s1⟩ := d
  refine coherent_setCluster h1 _ _ (fun x hx => ?_) (h1.leaves _)
  rcases mem_tlbTake hx with hx | hx
  · subst hx; exact h2
  · exact h1.clusters _ x hx

theorem says_walked {s u : State} {fn : Nat} {vas : List Nat} {t : TlbEntry} (h : Says s fn vas t) (hw : s.walked u) : Says u fn vas t := by
  intro va hv hi
  rw [walked_recast hw, pageLeaves_recast]
  exact h va hv hi

theorem coherent_fillLeaves {s : State} {fn : Nat} {vas : List Nat} (h : Coherent s fn vas) (core : Nat) {used : List (Nat × Pte)}
    (hu : ∀ p ∈ used, s.pteMarked p.2 false = true ∧ s2Translate s fn (p.1 * 65536) false = .ok p.2) : Coherent (s.fillLeaves core fn used) fn vas := by
  unfold State.fillLeaves
  split
  · exact h
  · refine coherent_setCluster h _ _ (h.clusters _) (fun x hx hf => ?_)
    have hx' := List.mem_of_mem_take hx
    clear hx
    revert hx'
    suffices ∀ (us : List (Nat × Pte)) (l : List TlbLeaf), (∀ p ∈ us, s.pteMarked p.2 false = true ∧ s2Translate s fn (p.1 * 65536) false = .ok p.2) →
        heldOk s fn l → heldOk s fn (us.foldl (fun (l : List TlbLeaf) (p : Nat × Pte) =>
          { fn := fn, gpage := p.1, leaf := (p.2.marked false).val, level := p.2.level } ::
            l.filter (fun x => !(x.fn == fn && x.gpage == p.1))) l) from
      fun hx' => this used _ hu (h.leaves _) x hx' hf
    intro us
    induction us with
    | nil => intro l _ hl; exact hl
    | cons a r ih =>
      intro l ha hl
      refine ih _ (fun p hp => ha p (by simp [hp])) (fun y hy hyf => ?_)
      simp only [List.mem_cons, List.mem_filter] at hy
      rcases hy with hy | hy
      · subst hy
        have := ha a (by simp)
        exact ⟨a.2, this.2, marked_val this.1, rfl⟩
      · exact hl y hy.1 hyf

/-! ### Translation of such pages -/

/-- A leaf of the same value and level translates as another. -/
theorem combine_leaf (s : State) (q : XReq) (va : Nat) (acc : Acc) {l1 m1 : Pte} {l2 m2 : Option Pte} (hv : m1.val = l1.val)
    (hl : m1.level = l1.level) (h2 : m2.map (fun p => (p.val, p.level)) = l2.map (fun p => (p.val, p.level))) :
    combine s q va acc m1 m2 = combine s q va acc l1 l2 := by
  cases l1; cases m1
  simp only at hv hl
  subst hv hl
  cases l2 with
  | none => cases m2 with
    | none => rfl
    | some p => simp at h2
  | some p => cases m2 with
    | none => simp at h2
    | some y =>
      cases p; cases y
      simp only [Option.map_some, Option.some.injEq, Prod.mk.injEq] at h2
      obtain ⟨rfl, rfl⟩ := h2
      rfl

/-- The walk of a page whose entries are marked finds its leaves. -/
theorem walkLeaves_coherent {s : State} {q : XReq} {va : Nat} {vas : List Nat} {l1 : Pte} {l2 : Option Pte} (h : Coherent s q.fn vas)
    (hp : s.pageLeaves q.fn va = some (l1, l2)) :
    ∃ u, walkLeaves s q va = (.ok ⟨l1, l2, false⟩, u) ∧ s.walked u ∧ Coherent u q.fn vas := by
  have hsub := heldLeaves_sub s q.core q.fn
  obtain ⟨n, hn⟩ := heldLeaves_tick s q.core q.fn
  unfold walkLeaves
  generalize s.heldLeaves q.core q.fn = d at hsub hn
  obtain ⟨held, s0⟩ := d
  simp only at hsub hn
  subst hn
  have hheld : heldOk s q.fn held := fun x hx => h.leaves _ x (hsub x hx)
  have hcoh : Coherent (s.recast n s.cores s.clusters s.blocks) q.fn vas := coherent_tick h n
  unfold State.pageLeaves at hp
  split at hp
  · cases hp
  · rename_i m1 tr h1
    split at hp
    · rename_i hc
      simp only [Bool.and_eq_true, List.all_eq_true, Bool.not_eq_true'] at hc
      obtain ⟨⟨hcu, hcr⟩, hcm⟩ := hc
      have hroot : ∃ tr1, s1Translate s q.fn va held = (.ok m1, tr1) ∧ (∀ x ∈ tr1.used, x ∈ tr.used) ∧ (∀ x ∈ tr1.reads, x ∈ tr.reads) := by
        unfold s1Translate at h1 ⊢
        simp only [] at h1 ⊢
        split at h1
        · rename_i hr
          rw [if_pos hr]
          exact s1Walk_held hheld walkLevels _ {} {} tr m1 h1 (fun x hx => hx) (fun x hx => hx)
        · cases h1
      obtain ⟨tr1, hs1, hu1, hr1⟩ := hroot
      have hu : ∀ p ∈ tr1.used, s.pteMarked p.2 false = true ∧ s2Translate s q.fn (p.1 * 65536) false = .ok p.2 := by
        intro p hp'
        obtain ⟨ha, hb⟩ := hcu p (hu1 p hp')
        refine ⟨ha, ?_⟩
        split at hb
        · rename_i y hy
          rw [hy, of_decide_eq_true hb]
        · cases hb
      simp only [s1Translate_recast, hs1]
      rw [meetPtes_clean (s := s.recast n s.cores s.clusters s.blocks) q.fn h.clean (fun a ha => hcr a (hr1 a ha)),
        markAll_marked (s := s.recast n s.cores s.clusters s.blocks) q.fn (fun p hp' => (hu p hp').1)]
      have hcohU : Coherent ((s.recast n s.cores s.clusters s.blocks).fillLeaves q.core q.fn tr1.used) q.fn vas :=
        coherent_fillLeaves (s := s.recast n s.cores s.clusters s.blocks) hcoh q.core (fun p hp' => by rw [s2Translate_recast]; exact hu p hp')
      have hwU : s.walked ((s.recast n s.cores s.clusters s.blocks).fillLeaves q.core q.fn tr1.used) :=
        walked_trans (walked_tick s n) (walked_fillLeaves _ _ _ _)
      dsimp only at hp
      split at hp
      · rename_i hrw
        split at hp
        · cases hp
        · rename_i m2 h2
          split at hp
          · rename_i hc2
            simp only [Option.some.injEq, Prod.mk.injEq] at hp
            obtain ⟨rfl, rfl⟩ := hp
            simp only [Bool.and_eq_true, List.all_eq_true, Bool.not_eq_true'] at hc2
            rw [if_pos hrw, s2Translate_recast, s2Trace_recast, h2]
            simp only []
            rw [meetPtes_clean (s := s.recast n s.cores s.clusters s.blocks) q.fn h.clean (fun a ha => hc2.1 a ha)]
            exact ⟨_, rfl, hwU, hcohU⟩
          · cases hp
      · rename_i hrw
        simp only [Option.some.injEq, Prod.mk.injEq] at hp
        obtain ⟨rfl, rfl⟩ := hp
        rw [if_neg hrw]
        exact ⟨_, rfl, hwU, hcohU⟩
    · cases hp

/-- An access by the leaves of a page, read by a walk or held. -/
theorem useLeaves_coherent {s : State} {q : XReq} {va : Nat} {vas : List Nat} {acc : Acc} {x : Xlat} {l1 : Pte} {l2 : Option Pte} {y : Leaves}
    (h : Coherent s q.fn vas) (hm : va ∈ vas) (hp : s.pageLeaves q.fn va = some (l1, l2)) (h1 : s.pteMarked l1 acc.writes = true)
    (h2 : ∀ p, l2 = some p → s.pteMarked p acc.writes = true ∧ p.val ≠ 0) (hc : combine s q va acc l1 l2 = .ok x)
    (hd : acc.writes = true → x.dirty = true)
    (hy : y = ⟨l1, l2, false⟩ ∨ (y.held = true ∧ y.l1.val = l1.val ∧ y.l1.level = l1.level ∧
      y.l2.map (fun p => (p.val, p.level)) = l2.map (fun p => (p.val, p.level)))) :
    ∃ u, useLeaves s q va acc y = (.ok x, u) ∧ s.walked u ∧ Coherent u q.fn vas := by
  have hleaf (m1 : Pte) (m2 : Option Pte) (e1 : m1.val = l1.val) (e2 : m1.level = l1.level)
      (e3 : m2.map (fun p => (p.val, p.level)) = l2.map (fun p => (p.val, p.level))) (g : Nat) :
      Says s q.fn vas (tlbOf q.fn va g (m1.marked acc.writes) (m2.map (·.marked acc.writes))) := by
    intro vb hb hi
    have hpage : vb / 65536 = va / 65536 := by
      unfold TlbEntry.isFor tlbOf at hi
      simp only [Bool.and_eq_true, beq_iff_eq] at hi
      exact hi.2.symm
    refine ⟨l1, l2, by rw [h.pages vb hb va hm hpage]; exact hp, ?_⟩
    have k1 : (m1.marked acc.writes).val = l1.val := by
      rw [← marked_val h1]; unfold Pte.marked; rw [e1]
    have k2 : (m1.marked acc.writes).level = l1.level := e2
    unfold TlbEntry.holds tlbOf
    simp only [k1, k2, beq_self_eq_true, Bool.true_and]
    cases m2 with
    | none =>
      cases l2 with
      | none => rfl
      | some p => simp at e3
    | some z =>
      cases l2 with
      | none => simp at e3
      | some p =>
        simp only [Option.map_some, Option.some.injEq, Prod.mk.injEq] at e3
        have k3 : (z.marked acc.writes).val = p.val := by
          rw [← marked_val (h2 p rfl).1]; unfold Pte.marked; rw [e3.1]
        have k4 : (z.marked acc.writes).level = p.level := e3.2
        simp only [Option.map_some, Option.getD_some, k3, k4, beq_self_eq_true, Bool.true_and, bne_iff_ne]
        exact (h2 p rfl).2
  unfold useLeaves
  rcases hy with rfl | ⟨hh, e1, e2, e3⟩
  · simp only [hc]
    rw [markPte_marked q.fn h1]
    have hx : (x.dirty || acc.writes) = x.dirty := by
      cases hw : acc.writes with
      | false => simp
      | true => simp [hd hw]
    have hs := hleaf l1 l2 rfl rfl rfl (s1Out l1 va)
    have fin (t : TlbEntry) (ht : Says s q.fn vas t) :
        s.walked ((s.fillTlb q.core t).fillL2 q.core t) ∧ Coherent ((s.fillTlb q.core t).fillL2 q.core t) q.fn vas :=
      ⟨walked_trans (walked_fillTlb s _ _) (walked_fillL2 _ _ _), coherent_fillL2 (coherent_fillTlb h _ ht) _ (says_walked ht (walked_fillTlb s _ _))⟩
    simp only [Bool.false_eq_true, if_false, hx]
    cases l2 with
    | none => exact ⟨_, rfl, fin _ hs⟩
    | some p =>
      dsimp only
      rw [markPte_marked q.fn (h2 p rfl).1]
      exact ⟨_, rfl, fin _ hs⟩
  · rw [combine_leaf s q va acc e1 e2 e3, hc]
    simp only [hh, if_true]
    have hs := hleaf y.l1 y.l2 e1 e2 e3 (s1Out y.l1 va)
    split
    · exact ⟨s, rfl, walked_refl s, h⟩
    · exact ⟨_, rfl, walked_fillTlb s _ _, coherent_fillTlb h _ hs⟩

/-- Where the TLBs say what the tables say, an address whose entries are marked translates as its walk does, and they still say so. -/
theorem translate_coherent {s : State} {q : XReq} {va : Nat} {vas : List Nat} {acc : Acc} {x : Xlat} (h : Coherent s q.fn vas) (hm : va ∈ vas)
    (hx : s.xlatB q va acc x = true) : ∃ u, translate s q va acc = (.ok x, u) ∧ s.walked u ∧ Coherent u q.fn vas := by
  unfold State.xlatB at hx
  split at hx
  · cases hx
  · rename_i l1 l2 hp
    simp only [Bool.and_eq_true, decide_eq_true_eq] at hx
    obtain ⟨⟨⟨⟨hv, h1⟩, h2⟩, hc⟩, hd⟩ := hx
    have h2' : ∀ p, l2 = some p → s.pteMarked p acc.writes = true ∧ p.val ≠ 0 := by
      intro p hl; subst hl
      simp only [Bool.and_eq_true, bne_iff_ne] at h2
      exact h2
    have hc' : combine s q va acc l1 l2 = .ok x := by
      split at hc
      · rename_i y hy; rw [hy, of_decide_eq_true hc]
      · cases hc
    have hd' : acc.writes = true → x.dirty = true := by
      intro hw; rw [hw] at hd; simpa using hd
    have walk (n : Nat) : ∃ u, translateBy (walkLeaves { s with tick := n } q va).2 q va acc (walkLeaves { s with tick := n } q va).1 = (.ok x, u) ∧ s.walked u ∧
        Coherent u q.fn vas := by
      obtain ⟨u, hu, hw, hcoh⟩ := walkLeaves_coherent (coherent_tick h n) (q := q) (va := va) (l1 := l1) (l2 := l2)
        ((pageLeaves_recast s n s.cores s.clusters s.blocks q.fn va).trans hp)
      have hw' := walked_trans (walked_tick s n) hw
      rw [hu]
      have e := walked_recast hw'
      have hpu : u.pageLeaves q.fn va = some (l1, l2) := by rw [e, pageLeaves_recast]; exact hp
      have hmk (p : Pte) (d : Bool) : u.pteMarked p d = s.pteMarked p d := by rw [e]; rfl
      have hcu : combine u q va acc l1 l2 = .ok x := by rw [e]; exact hc'
      obtain ⟨v, g1, g2, g3⟩ := useLeaves_coherent hcoh hm hpu (by rw [hmk]; exact h1) (fun p hl => by rw [hmk]; exact h2' p hl) hcu hd' (Or.inl rfl)
      exact ⟨v, g1, walked_trans hw' g2, g3⟩
    have hit (n : Nat) (t : TlbEntry) (ht : t.holds l1 l2 = true) :
        ∃ u, translateBy { s with tick := n } q va acc (.ok t.leaves) = (.ok x, u) ∧ s.walked u ∧ Coherent u q.fn vas := by
      unfold TlbEntry.holds at ht
      simp only [Bool.and_eq_true, beq_iff_eq] at ht
      obtain ⟨⟨⟨⟨e1, e2⟩, e3⟩, e4⟩, e5⟩ := ht
      obtain ⟨v, g1, g2, g3⟩ := useLeaves_coherent (s := { s with tick := n }) (q := q) (va := va) (acc := acc) (x := x) (l1 := l1) (l2 := l2)
        (y := t.leaves) (coherent_tick h n) hm ((pageLeaves_recast s n s.cores s.clusters s.blocks q.fn va).trans hp) h1 h2' hc' hd'
        (Or.inr ⟨rfl, e1, e2, by
          unfold TlbEntry.leaves
          rw [e3, e4]
          cases l2 with
          | none => rfl
          | some p =>
            simp only [bne_iff_ne] at e5
            simp only [Option.map_some, Option.getD_some, beq_iff_eq, if_neg e5]⟩)
      exact ⟨v, g1, walked_trans (walked_tick s n) g2, g3⟩
    have holds (t : TlbEntry) (ht : t ∈ s.tlbHits q va acc) : t.holds l1 l2 = true := by
      unfold State.tlbHits at ht
      simp only [List.mem_filter, List.mem_append] at ht
      have hi : t.isFor q.fn va = true := by
        have := ht.2
        unfold TlbEntry.serves at this
        simp only [Bool.and_eq_true] at this
        exact this.1
      have : ∃ l1 l2, s.pageLeaves q.fn va = some (l1, l2) ∧ t.holds l1 l2 = true := by
        rcases ht.1 with hc | hc
        · exact h.cores _ t hc va hm hi
        · exact h.clusters _ t hc va hm hi
      obtain ⟨m1, m2, hp', hh⟩ := this
      rw [hp] at hp'
      simp only [Option.some.injEq, Prod.mk.injEq] at hp'
      rw [hp'.1, hp'.2]; exact hh
    unfold translate
    rw [if_neg (by omega)]
    show ∃ u, translateBy (pageXlat s q va acc).2 q va acc (pageXlat s q va acc).1 = (.ok x, u) ∧ s.walked u ∧ Coherent u q.fn vas
    unfold pageXlat
    cases hts : s.tlbHits q va acc with
    | nil => exact walk s.tick
    | cons a r =>
      unfold State.drawPick
      dsimp only
      cases ho : (a :: r)[Config.freePick s.tick % ((a :: r).length + 1)]? with
      | none => exact walk _
      | some t => exact hit _ t (holds t (by rw [hts]; exact List.mem_of_getElem? ho))

/-! ### Tests of such translations on a concrete state -/

/-- No core and no cluster holds a translation, and pages named twice are walked alike. -/
def State.coherentB (s : State) (fn : Nat) (vas : List Nat) : Bool :=
  s.faulty.isEmpty && s.cores.all (fun p => p.2.tlb.isEmpty) && s.clusters.all (fun p => p.2.tlb.isEmpty && p.2.leaves.isEmpty) &&
    vas.all (fun a => vas.all (fun b => a / 65536 != b / 65536 || decide (s.pageLeaves fn a = s.pageLeaves fn b)))

/-- What holds of every value of a table and of the default holds of what is read. -/
theorem get_all {α : Type} {P : α → Prop} {d : α} (hd : P d) {t : Tab α} (h : ∀ p ∈ t, P p.2) (k : Nat) : P (t.get d k) := by
  induction t with
  | nil => exact hd
  | cons a r ih =>
    obtain ⟨i, x⟩ := a
    simp only [Tab.get]
    split
    · exact h (i, x) (by simp)
    · split
      · exact hd
      · exact ih (fun p hp => h p (by simp [hp]))

theorem coherent_of {s : State} {fn : Nat} {vas : List Nat} (h : s.coherentB fn vas = true) : Coherent s fn vas := by
  simp only [State.coherentB, Bool.and_eq_true, List.isEmpty_iff, List.all_eq_true, Bool.or_eq_true, bne_iff_ne, decide_eq_true_eq] at h
  obtain ⟨⟨⟨h1, h2⟩, h3⟩, h4⟩ := h
  have hc (k : Nat) : (s.core k).tlb = [] := get_all (P := fun x : Core => x.tlb = []) rfl (fun p hp => h2 p hp) k
  have hk (k : Nat) : (s.cluster k).tlb = [] ∧ (s.cluster k).leaves = [] :=
    get_all (P := fun x : Cluster => x.tlb = [] ∧ x.leaves = []) ⟨rfl, rfl⟩ (fun p hp => h3 p hp) k
  refine ⟨h1, fun a ha b hb hp => (h4 a ha b hb).resolve_left (fun hn => hn hp), fun k t ht => ?_, fun k t ht => ?_, fun k x hx => ?_⟩
  · rw [hc] at ht; cases ht
  · rw [(hk k).1] at ht; cases ht
  · rw [(hk k).2] at hx; cases hx

/-- The tests of translations see no draws, cores or clusters. -/
theorem xlatB_walked {s u : State} (h : s.walked u) (q : XReq) (va : Nat) (acc : Acc) (x : Xlat) : u.xlatB q va acc x = s.xlatB q va acc x := by
  rw [walked_recast h]
  unfold State.xlatB
  rw [pageLeaves_recast]
  rfl

/-- The translation of a page of HBM, from the tables alone. -/
def State.hbmXlat (s : State) (fn core va : Nat) (acc : Acc) : Option Xlat :=
  match s.pageLeaves fn va with
  | none => none
  | some (l1, l2) =>
    if rangeOf (s1Out l1 va) == .hbm then
      match combine s ⟨fn, none, core⟩ va acc l1 l2 with
      | .ok x => if s.xlatB ⟨fn, none, core⟩ va acc x then some x else none
      | .error _ => none
    else none

/-- It depends on no block and on no requester's block. -/
theorem hbmXlat_xlatB {s : State} {fn core va : Nat} {acc : Acc} {x : Xlat} (h : s.hbmXlat fn core va acc = some x) (i : Nat) (b : Block)
    (blk : Option Nat) : (s.setBlock i b).xlatB ⟨fn, blk, core⟩ va acc x = true ∧ s.xlatB ⟨fn, blk, core⟩ va acc x = true := by
  unfold State.hbmXlat at h
  split at h
  · cases h
  · rename_i l1 l2 hp
    split at h
    · rename_i hr
      split at h
      · rename_i y hy
        split at h
        · rename_i hx
          cases h
          have hr' := eq_of_beq hr
          have hp' : (s.setBlock i b).pageLeaves fn va = some (l1, l2) :=
            (pageLeaves_recast s s.tick s.cores s.clusters (s.blocks.set i b) fn va).trans hp
          have hc (q : Option Nat) (t : State) (ht : t.mgmt = s.mgmt) : combine t ⟨fn, q, core⟩ va acc l1 l2 = combine s ⟨fn, none, core⟩ va acc l1 l2 := by
            unfold combine placeOf
            simp only [hr']
            unfold State.frameReady State.stackReady
            rw [ht]
          unfold State.xlatB at hx ⊢
          simp only [hp, hp'] at hx ⊢
          rw [hc blk (s.setBlock i b) rfl, hc blk s rfl]
          exact ⟨hx, hx⟩
        · cases h
      · cases h
    · cases h

/-- A page of HBM translates so, whatever the requester. -/
theorem translate_hbm {s : State} {fn core va : Nat} {acc : Acc} {x : Xlat} {vas : List Nat} (hc : Coherent s fn vas) (hm : va ∈ vas)
    (h : s.hbmXlat fn core va acc = some x) (blk : Option Nat) :
    ∃ u, translate s ⟨fn, blk, core⟩ va acc = (.ok x, u) ∧ s.walked u ∧ Coherent u fn vas :=
  translate_coherent (q := ⟨fn, blk, core⟩) hc hm (hbmXlat_xlatB h 0 {} blk).2

/-- The same for every block the requester's may become. -/
theorem translate_block {s : State} {c : Ctx} {va : Nat} {acc : Acc} {x : Xlat} {vas : List Nat} (hc : Coherent s (s.block c.blk).fn vas) (hm : va ∈ vas)
    (h : s.hbmXlat (s.block c.blk).fn (s.coreOf c.blk) va acc = some x) (b : Block) (hf : b.fn = (s.block c.blk).fn)
    (hcore : b.core = (s.block c.blk).core) :
    ∃ u, translate (s.setBlock c.blk b) ((s.setBlock c.blk b).xreq c.blk) va acc = (.ok x, u) ∧ (s.setBlock c.blk b).walked u ∧
      Coherent u (s.block c.blk).fn vas := by
  have hq : (s.setBlock c.blk b).xreq c.blk = ⟨(s.block c.blk).fn, some c.blk, s.coreOf c.blk⟩ := by
    simp [State.xreq, State.coreOf, hf, hcore]
  rw [hq]
  exact translate_coherent (q := ⟨(s.block c.blk).fn, some c.blk, s.coreOf c.blk⟩) (coherent_setBlock hc c.blk b) hm (hbmXlat_xlatB h c.blk b (some c.blk)).1

/-- `mapsTo` from its tests. -/
theorem mapsTo_dec {s : State} {c : Ctx} {va : DWord} {acc : Acc} {x : Xlat} (hc : s.coherentB (s.block c.blk).fn [va.toNat] = true)
    (h : s.hbmXlat (s.block c.blk).fn (s.coreOf c.blk) va.toNat acc = some x) : s.mapsTo c va acc x := by
  intro b hf hcore _
  obtain ⟨u, h1, h2, _⟩ := translate_block (coherent_of hc) (by simp) h b hf hcore
  exact ⟨u, h1, h2⟩

/-- `readsAs` from its tests, for bytes within one page. -/
theorem readsAs_dec {s : State} {c : Ctx} {va : DWord} {n h : Nat} {x : Xlat} (hp : pagePieces va.toNat n = [(va.toNat, n)])
    (hc : s.coherentB (s.block c.blk).fn [va.toNat] = true)
    (hx : s.hbmXlat (s.block c.blk).fn (s.coreOf c.blk) va.toNat .read = some x) (hh : x.place = .hbm h)
    (hb : s.poisonAt h n = false) : s.readsAs c va n (s.bytesAt h n) := by
  intro b hf hcore _
  obtain ⟨u, h1, h2, h3⟩ := translate_block (coherent_of hc) (by simp) hx b hf hcore
  refine ⟨u, ?_, h2⟩
  have hd := h2.device
  have hmeet (f : Nat) : u.meet f h n = u := by
    unfold State.meet; rw [h3.clean]; rfl
  have hbytes : u.bytesAt h n = s.bytesAt h n := by rw [hd]; rfl
  have hpois : u.poisonAt h n = s.poisonAt h n := by rw [hd]; rfl
  unfold State.readVA
  rw [hp]
  simp only [List.foldl_cons, List.foldl_nil, h1, hh, Place.host, Place.covers, Place.room, if_true, hmeet, hbytes, hpois, hb,
    List.nil_append, Bool.or_self]

/-- The record that an address of HBM names, in the block's place. -/
theorem futurePlace_dec {s : State} {c : Ctx} {va : DWord} {acc : Acc} {a fn core : Nat} {x : Xlat} {vas : List Nat} (hc : Coherent s fn vas)
    (hm : va.toNat ∈ vas) (hv : va.toNat % 16 = 0) (hf : s.ctxFn c = fn) (hk : s.coreOf c.blk = core)
    (hx : s.xlatB ⟨fn, some c.blk, core⟩ va.toNat acc x = true) (hh : x.place = .hbm a) (hs : x.sc = false) :
    ∃ u, s.futurePlace c va acc = (.ok ⟨x.gpa, a, (s.homeCore fn x.gpa x.place core).getD 0⟩, u) ∧ s.walked u ∧ Coherent u fn vas := by
  have hq : s.xreq c.blk = ⟨fn, some c.blk, core⟩ := by
    unfold State.xreq; rw [hk]; rw [← hf]; rfl
  obtain ⟨u, h1, h2, h3⟩ := translate_coherent (q := ⟨fn, some c.blk, core⟩) hc hm hx
  refine ⟨u, ?_, h2, h3⟩
  have hd := h2.device
  have hmeet (f b n : Nat) : u.meet f b n = u := by
    unfold State.meet; rw [h3.clean]; rfl
  have e1 : u.ctxFn c = fn := by rw [hd]; exact hf
  have e2 : u.coreOf c.blk = core := by rw [hd]; exact hk
  have e3 : u.homeCore fn x.gpa (.hbm a) core = s.homeCore fn x.gpa x.place core := by rw [hd, hh]; rfl
  unfold State.futurePlace
  rw [if_neg (by simp [hv]), hq, h1]
  simp only [hs, Bool.false_eq_true, if_false, hh, hmeet, e1, e2, ite_self]
  rw [hh] at e3
  rw [e3]

/-- `futureAt` from its tests. -/
theorem futureAt_dec {s : State} {c : Ctx} {va : DWord} {acc : Acc} {a : Nat} {x : Xlat} (hv : va.toNat % 16 = 0)
    (hc : s.coherentB (s.block c.blk).fn [va.toNat] = true)
    (hx : s.hbmXlat (s.block c.blk).fn (s.coreOf c.blk) va.toNat acc = some x) (hh : x.place = .hbm a) (hs : x.sc = false) :
    s.futureAt c va acc ⟨x.gpa, a, (s.homeCore (s.block c.blk).fn x.gpa x.place (s.coreOf c.blk)).getD 0⟩ := by
  intro b hf hcore _
  obtain ⟨u, h1, h2, _⟩ := futurePlace_dec (s := s.setBlock c.blk b) (c := c) (fn := (s.block c.blk).fn) (core := s.coreOf c.blk)
    (coherent_setBlock (coherent_of hc) c.blk b) (by simp) hv (by simp [State.ctxFn, hf]) (by simp [State.coreOf, hcore])
    (hbmXlat_xlatB hx c.blk b (some c.blk)).1 hh hs
  exact ⟨u, h1, h2⟩

/-- `futuresAt` from its tests. -/
theorem futuresAt_dec {s : State} {c : Ctx} {va vb : DWord} {a b : Nat} {x y : Xlat} (hv : va.toNat % 16 = 0) (hw : vb.toNat % 16 = 0)
    (hc : s.coherentB (s.block c.blk).fn [va.toNat, vb.toNat] = true)
    (hx : s.hbmXlat (s.block c.blk).fn (s.coreOf c.blk) va.toNat .readWrite = some x) (hh : x.place = .hbm a)
    (hs : x.sc = false) (hy : s.hbmXlat (s.block c.blk).fn (s.coreOf c.blk) vb.toNat .readWrite = some y)
    (hb : y.place = .hbm b) (ht : y.sc = false) :
    s.futuresAt c va vb ⟨x.gpa, a, (s.homeCore (s.block c.blk).fn x.gpa x.place (s.coreOf c.blk)).getD 0⟩
      ⟨y.gpa, b, (s.homeCore (s.block c.blk).fn y.gpa y.place (s.coreOf c.blk)).getD 0⟩ := by
  intro k hf hcore _
  obtain ⟨u, h1, h2, h3⟩ := futurePlace_dec (s := s.setBlock c.blk k) (c := c) (fn := (s.block c.blk).fn) (core := s.coreOf c.blk)
    (coherent_setBlock (coherent_of hc) c.blk k) (by simp) hv (by simp [State.ctxFn, hf]) (by simp [State.coreOf, hcore])
    (hbmXlat_xlatB hx c.blk k (some c.blk)).1 hh hs
  obtain ⟨v, g1, g2, _⟩ := futurePlace_dec (s := u) (c := c) (fn := (s.block c.blk).fn) (core := s.coreOf c.blk) h3 (by simp) hw
    (by rw [h2.device]; simp [State.ctxFn, State.setBlock, State.block] at hf ⊢; exact hf)
    (by rw [h2.device]; simp [State.coreOf, State.setBlock, State.block] at hcore ⊢; rw [hcore])
    ((xlatB_walked h2 _ _ _ _).trans (hbmXlat_xlatB hy c.blk k (some c.blk)).1) hb ht
  refine ⟨u, v, h1, ?_, h2, g2⟩
  rw [g1, h2.device]
  rfl

/-- A panel of one page, from its translation. -/
theorem panelXlat_coherent {s : State} {blk off n fn core : Nat} {m : Stream} {acc : Acc} {x : Xlat} {vas : List Nat} (hc : Coherent s fn vas)
    (hq : s.xreq blk = ⟨fn, some blk, core⟩) (hm : m.mwb.toNat + off ∈ vas) (hp : pagePieces (m.mwb.toNat + off) n = [(m.mwb.toNat + off, n)])
    (hx : s.xlatB ⟨fn, some blk, core⟩ (m.mwb.toNat + off) acc x = true) (hg : x.gpa = localBase + off) (hs : x.stk = false) :
    ∃ u, s.panelXlat blk m off n acc = (.ok { fmt := x.fmt, blk := x.blk, sgrp := x.sgrp }, u) ∧ s.walked u ∧ Coherent u fn vas := by
  obtain ⟨u, h1, h2, h3⟩ := translate_coherent (q := ⟨fn, some blk, core⟩) hc hm hx
  refine ⟨u, ?_, h2, h3⟩
  unfold State.panelXlat
  rw [hp]
  simp only [List.foldl_cons, List.foldl_nil, hq, h1, Nat.add_sub_cancel_left, hg, hs, ne_eq, not_true_eq_false, Bool.false_eq_true, or_self,
    if_false, Option.getD_some]

/-- A requester's block is as before a translation. -/
theorem xreq_walked {s u : State} (h : s.walked u) (blk : Nat) : u.xreq blk = s.xreq blk := by
  rw [h.device]; rfl

/-- A panel without scales, read within one page. -/
theorem readPanels_coherent {s : State} {blk off n rows fn core : Nat} {m : Stream} {x : Xlat} {vas : List Nat} (hc : Coherent s fn vas)
    (hq : s.xreq blk = ⟨fn, some blk, core⟩) (hm : m.mwb.toNat + off ∈ vas) (hp : pagePieces (m.mwb.toNat + off) n = [(m.mwb.toNat + off, n)])
    (hx : s.xlatB ⟨fn, some blk, core⟩ (m.mwb.toNat + off) .read x = true) (hg : x.gpa = localBase + off) (hs : x.stk = false) (hb : x.blk = 0) :
    ∃ u, s.readPanels blk m [off] n rows = (.ok [⟨off, { fmt := x.fmt, blk := x.blk, sgrp := x.sgrp }, []⟩], u) ∧ s.walked u ∧ Coherent u fn vas := by
  obtain ⟨u, h1, h2, h3⟩ := panelXlat_coherent hc hq hm hp hx hg hs
  refine ⟨u, ?_, h2, h3⟩
  unfold State.readPanels
  simp only [List.foldl_cons, List.foldl_nil, h1, State.panelScales, hb, decide_true, Bool.true_or, if_true, List.nil_append]

/-- A row of a stack-resident page, from its translation. -/
theorem rowXlat_dec {s : State} {blk r h : Nat} {d : Desc} {x : Xlat} {vas : List Nat} (hc : Coherent s (s.block blk).fn vas) (hm : d.rowVa r ∈ vas)
    (hp : d.rowVa r % 65536 + d.rowBytes ≤ 65536)
    (hx : s.hbmXlat (s.block blk).fn (s.coreOf blk) (d.rowVa r) .read = some x) (hh : x.place = .hbm h)
    (hk : x.stk = true) (hf : x.fmt = d.fmt) :
    ∃ u, s.rowXlat blk d r = .ok u (stackOf h) h x ∧ s.walked u ∧ Coherent u (s.block blk).fn vas := by
  obtain ⟨u, h1, h2, h3⟩ := translate_hbm hc hm hx (some blk)
  refine ⟨u, ?_, h2, h3⟩
  unfold State.rowXlat
  simp only [if_neg (show ¬(d.rowVa r % 65536 + d.rowBytes > 65536) by omega)]
  rw [show s.xreq blk = ⟨(s.block blk).fn, some blk, s.coreOf blk⟩ from rfl, h1]
  simp only [hh, hk, hf, ne_eq, not_true_eq_false, if_false, Bool.not_true, Bool.false_eq_true]

end Sys2Proof.Machine
end

