-- ==== Sys2Proof/Laws/Witness.lean ====
section
/-!
SUPPORT. Sys2Proof/Laws/Witness.lean: the premises of claims as tests that evaluate on a concrete state, and small states to try them on.
-/

namespace Sys2Proof.Machine

/-- What holds of every lane of a mask, from its list of lanes. -/
theorem onLanes {m : BitVec 32} {P : Nat → Prop} (h : ∀ l ∈ lanesOf m, P l) : ∀ l, m.getLsbD l = true → P l :=
  fun l hl => h l ((mem_lanesOf m l).2 hl)

/-- What holds of lane 0 holds of every lane of the mask 1. -/
theorem onLane0 {P : Nat → Prop} (h : P 0) : ∀ l, (1 : BitVec 32).getLsbD l = true → P l :=
  onLanes (m := 1) (fun l hl => by
    have : lanesOf (1 : BitVec 32) = [0] := by decide
    rw [this] at hl
    simp only [List.mem_singleton] at hl
    exact hl ▸ h)

/-- `Wave.quiet` as a test. -/
def Wave.quietB (w : Wave) (members : BitVec 32) (i : Instr) (e : Enc) : Bool :=
  match i.shape with
  | none => true
  | some h => w.acc.all (fun a => !w.waitsFor members e h a)

/-- `Stands` as a test. -/
def standsB (s : State) (i : Instr) (e : Enc) (c : Ctx) : Bool :=
  let w := s.ctxWave c
  let ls := lanesOf c.members
  (match i.form with | some (_, x) => x == e | none => false) && s.ctx e == some c &&
  ls.all (fun l => (w.lane l).cond == .runnable && (w.lane l).pc == c.pc && ls.all (fun k => (w.lane k).base == (w.lane l).base)) &&
  (List.range 8).all (fun n => !w.complete n) && w.stopped.isNone && !w.ended && (w.emdepth == 0 || decide (w.wdCount < 65536)) &&
  w.quietB c.members i e && (!instrWrites i || (s.block c.blk).bars.all (fun p => p.2.pend.all (fun q => !q.ofWave c.wave)))

theorem stands_of {s : State} {i : Instr} {e : Enc} {c : Ctx} (h : standsB s i e c = true) : Stands s i e c := by
  simp only [standsB, Bool.and_eq_true, List.all_eq_true, beq_iff_eq, decide_eq_true_eq, Bool.or_eq_true, Option.isNone_iff_eq_none,
    Bool.not_eq_true'] at h
  obtain ⟨⟨⟨⟨⟨⟨⟨⟨hf, hi⟩, hl⟩, hj⟩, hst⟩, he⟩, hc⟩, hq⟩, ha⟩ := h
  have ml {l : Nat} (hm : c.members.getLsbD l = true) := hl l ((mem_lanesOf _ l).2 hm)
  refine ⟨?_, hi, fun l hm => (ml hm).1.1, fun l hm => (ml hm).1.2, fun k l hk hm => (ml hm).2 k ((mem_lanesOf _ k).2 hk),
    fun n hn => hj n (List.mem_range.2 hn), ⟨hst, he⟩, hc, ?_, ?_⟩
  · revert hf
    split
    · rename_i o x hx; intro hxe; exact ⟨o, by rw [hx, eq_of_beq hxe]⟩
    · intro h; cases h
  · unfold Wave.quiet
    unfold Wave.quietB at hq
    split
    · trivial
    · rename_i sh hs
      simp only [hs, List.all_eq_true, Bool.not_eq_true'] at hq
      exact hq
  · intro hw b hb p hp
    rcases ha with ha | ha
    · rw [hw] at ha; cases ha
    · simpa using ha b hb p hp

/-- `Ready` from its test. -/
theorem ready_of {s : State} {i : Instr} {e : Enc} {c : Ctx} (h : standsB s i e c = true) (ha : c.acting ≠ 0) : Ready s i e c :=
  ⟨stands_of h, ha⟩

/-- A list of instructions that are all ready and can read their operands. -/
theorem all_ready {s : State} {is : List Instr} {e : Enc} {c : Ctx}
    (h : is.all (fun i => standsB s i e c && ((s.ctxWave c).operandFaults c.acting i e).isNone) = true) (ha : c.acting ≠ 0) :
    ∀ i ∈ is, Ready s i e c ∧ CanRead s i c e := by
  intro i hi
  have := List.all_eq_true.1 h i hi
  simp only [Bool.and_eq_true, Option.isNone_iff_eq_none] at this
  exact ⟨ready_of this.1 ha, this.2⟩

/-- One fibre acts, as `OneFibre`. -/
theorem oneFibre_of {s : State} {i : Instr} {e : Enc} {c : Ctx} {l : Nat}
    (h : (standsB s i e c && decide (l < 32) && c.acting == laneBit l && (s.ctxWave c).spec.sid.isNone && (s.ctxWave c).acc.isEmpty &&
      (s.ctxWave c).doneMask == 0 && (s.ctxWave c).late.isEmpty) = true) : OneFibre s i e c l := by
  simp only [Bool.and_eq_true, beq_iff_eq, decide_eq_true_eq, Option.isNone_iff_eq_none, List.isEmpty_iff] at h
  obtain ⟨⟨⟨⟨⟨⟨h1, h2⟩, h3⟩, h4⟩, h5⟩, h6⟩, h7⟩ := h
  refine ⟨ready_of h1 ?_, ⟨h2, h3⟩, h4, h5, h6, h7⟩
  intro h0
  have := congrArg (fun m => BitVec.getLsbD m l) (h3 ▸ h0 : laneBit l = 0)
  simp [laneBit_getLsbD l l h2] at this

/-- The computation answers the value. -/
def answersB {ε α : Type} [DecidableEq α] (x : Except ε α) (v : α) : Bool :=
  match x with
  | .ok y => y == v
  | .error _ => false

theorem ok_of {ε α : Type} [DecidableEq α] {x : Except ε α} {v : α} (h : answersB x v = true) : x = .ok v := by
  cases x with
  | error e => cases h
  | ok y => exact congrArg Except.ok (eq_of_beq h)

/-! ### Small states -/

/-- A wave of one fibre at PC 0. -/
def wave0 : Wave := { lanes := [(0, { cond := .runnable })], batches := [⟨1⟩], window := 64 }

/-- The block b with the wave w on core 0, w's batch issuing. -/
def on0 (b : Block) (w : Wave) : State := { blocks := [(0, { b with core := some 0, waves := [(0, w)] })], cur := some (.wave 0 0 0) }

/-- The context of an instruction of a length in it. -/
def ctx0 (l : Len) : Ctx := { blk := 0, wave := 0, pc := 0, nextPc := seqPc 0 l, members := 1, acting := 1 }

end Sys2Proof.Machine
end

