-- ==== Sys2Proof/Tests/Slice0.lean ====
section
/-!
SUPPORT. Sys2Proof/Tests/Slice0.lean: words of each family and what they decode to, terms that are no instructions, and for each claim with
premises a state and operands that meet them (`wit_<claim>`).
-/

namespace Sys2Proof.Tests

open Sys2Proof.Machine

set_option Elab.async false

/-! ### Decoding: one word of each family, its fields in the order of R43 and R44, the highest first -/

/-- The padding NOP of R47 decodes to NOP. -/
theorem test_decode_nop : decodeTableWord 64 0x01F0000000000000 = some (.nop {}) := by decide

/-- SPLIT m3 under the complement of q2 (R63, R90; the fields as R43 places them). -/
theorem test_decode_split :
    decodeTableWord 64 0b000000_1_00010_00000000_0_00000000_0_00000011_0_00_0_0000_000000_00001000_00_00 =
      some (.split { dst := 3, prd := 2, pneg := true }) := by decide +kernel

/-- LAUNCH: the ticket to s8, the record at the pair in s2, the queue in s1 (R388). -/
theorem test_decode_launch :
    decodeTableWord 64 0b000000_0_11111_11000001_0_11000010_0_11001000_0_00_0_0000_000000_00011100_00_00 =
      some (.launch { dst := 200, src0 := 194, src1 := 193 }) := by decide +kernel

/-- IADD.N8.SAT v5, v3, v4 (R148). -/
theorem test_decode_iadd :
    decodeTableWord 64 0b000001_0_11111_00000100_0_00000011_0_00000101_0_00_0_0000_000101_00100000_00_00 =
      some (.iadd { fn := 5, dst := 5, src0 := 3, src1 := 4, mod := 1 }) := by decide +kernel

/-- FADD.F32.RDN v5, v3, an IMM16 of 0x3F80 (R44, R157). -/
theorem test_decode_fadd :
    decodeTableWord 96 0b00111111100000000000000_00000000_0_000010_0_11111_00000000_0_00000011_0_00000101_0_00_0_0000_000000_00111000_00_01 =
      some (.fadd { len := .l96, dst := 5, src0 := 3, mod := 2, ext := 0x1FC000 }) := by decide +kernel

/-- DDIV of pairs (R170). -/
theorem test_decode_ddiv :
    decodeTableWord 64 0b000000_0_11111_00000100_0_00000010_0_00000110_0_00_0_0000_000011_01011011_00_00 =
      some (.ddiv { fn := 3, dst := 6, src0 := 2, src1 := 4 }) := by decide +kernel

/-- CVT to format 9 under the second rounding from type 0 (R190). -/
theorem test_decode_cvt :
    decodeTableWord 64 0b000100_0_11111_00000000_0_00000001_0_00000111_0_00_0_0000_001001_01100000_00_00 =
      some (.cvt { fn := 9, dst := 7, src0 := 1, mod := 4 }) := by decide +kernel

/-- LD.D.ACQ to the pair in v8 from the pair in v2 (R112). -/
theorem test_decode_ld :
    decodeTableWord 64 0b010000_0_11111_00000000_0_00000010_0_00001000_0_00_0_0000_000011_01110000_00_00 =
      some (.ld { fn := 3, dst := 8, src0 := 2, mod := 16 }) := by decide +kernel

/-- BARINIT b9 with the count in s3 (R211). -/
theorem test_decode_barinit :
    decodeTableWord 64 0b000000_0_11111_11000011_0_00001001_0_00000000_0_00_0_0000_000000_10010000_00_00 =
      some (.barinit { src0 := 9, src1 := 195 }) := by decide +kernel

/-- CPY of s6 bytes on token 5 (R235). -/
theorem test_decode_cpy :
    decodeTableWord 96 0b00000000000000000000000_11000110_0_000101_0_11111_11000100_0_11000010_0_00000000_0_00_0_0000_000000_10100000_00_01 =
      some (.cpy { len := .l96, src0 := 194, src1 := 196, src2 := 198, mod := 5 }) := by decide +kernel

/-- MMA of four steps into tile 1 from rings 2 and 3 (R263). -/
theorem test_decode_mma :
    decodeTableWord 96 0b00000000001000000100011_00000000_0_001111_0_11111_00000011_0_00000010_0_00000001_0_00_0_0000_000000_10110000_00_01 =
      some (.mma { len := .l96, dst := 1, src0 := 2, src1 := 3, mod := 15, ext := 0x1023 }) := by decide +kernel

/-- SMV of nine rows of descriptor 1, accumulating, on barrier 7 (R286). -/
theorem test_decode_smv :
    decodeTableWord 96 0b00000000000010010000111_11000010_0_000101_0_11111_11000001_0_11000000_0_11001000_0_00_0_0000_000000_11000000_00_01 =
      some (.smv { len := .l96, dst := 200, src0 := 192, src1 := 193, src2 := 194, mod := 5, ext := 0x487 }) := by decide +kernel

/-- TSPAWN two words back, its group from s0 (R301). -/
theorem test_decode_tspawn :
    decodeTableWord 96 0b11111111111111100000000_00000000_0_000000_0_11111_00000000_0_11000000_0_11001000_0_00_0_0000_000000_11001000_00_01 =
      some (.tspawn { len := .l96, dst := 200, src0 := 192, ext := 0x7FFF00 }) := by decide +kernel

/-- RBEGIN.SER with retry predicate q4 (R341). -/
theorem test_decode_rbegin_ser :
    decodeTableWord 64 0b000000_0_11111_00000000_0_00000000_0_00000100_0_00_0_0000_000001_11010110_00_00 =
      some (.rbeginSer { fn := 1, dst := 4 }) := by decide +kernel

/-- TRAP with the code in s3 (R366). -/
theorem test_decode_trap :
    decodeTableWord 64 0b000000_0_11111_00000000_0_11000011_0_00000000_0_00_0_0000_000000_11100000_00_00 =
      some (.trap { src0 := 195 }) := by decide +kernel

/-- WRPOST of the record at the pair in s2 to the list in s0 (R470). -/
theorem test_decode_wrpost :
    decodeTableWord 64 0b000000_0_11111_11000000_0_11000010_0_11010000_0_00_0_0000_000000_11101000_00_00 =
      some (.wrpost { dst := 208, src0 := 194, src1 := 192 }) := by decide +kernel


/-! ### Well-formedness: a term that each check refuses -/

theorem test_wellFormed : (Instr.iadd { dst := 4, src0 := 1, src1 := 2 }).wellFormed = true ∧ Instr.powerGood.wellFormed = true := by decide
/-- Fields a 64-bit, or a 96-bit, instruction does not have. -/
theorem test_ill_length : ([Instr.iadd { ext := 1 }, .iadd { src2 := 1 }, .iadd { sl2 := true }, .iadd { imm32 := 1 }, .iadd { len := .l96, imm32 := 1 }].any Instr.wellFormed) = false := by decide
/-- An undefined FN, and a length the row does not have. -/
theorem test_ill_function : ([Instr.nop { fn := 1 }, .mma {}, .ld { fn := 5 }].any Instr.wellFormed) = false := by decide
/-- DST, SRC0, SRC1 and SRC2 codes of another class. -/
theorem test_ill_operand : ([Instr.iadd { dst := 192 }, .launch { dst := 200, src0 := 193, src1 := 192 }, .barinit { src0 := 9, src1 := 3 },
    .cpy { len := .l96, src0 := 194, src1 := 196, src2 := 3 }].any Instr.wellFormed) = false := by decide
/-- A latch where the operand admits none. -/
theorem test_ill_latch : (Instr.launch { dst := 200, src0 := 194, src1 := 192, sl1 := true }).wellFormed = false := by decide
theorem test_ill_mod : (Instr.imul { mod := 1 }).wellFormed = false := by decide
theorem test_ill_ext : (Instr.mma { len := .l96, ext := 0x400000 }).wellFormed = false := by decide
theorem test_ill_imm32 : (Instr.nop { len := .l128, imm32 := 1 }).wellFormed = false := by decide
/-- DLT of an instruction without a result, and NWB of one with two. -/
theorem test_ill_result : ([Instr.split { dst := 1, dlt := 1 }, .ld { fn := 3, dst := 8, src0 := 2, nwb := true }].any Instr.wellFormed) = false := by decide
/-- What an entry asks besides: a shift count below 32, and two different rings. -/
theorem test_ill_also : ([Instr.ssh { len := .l96, dst := 200, src0 := 192, ext := 0x1000 }, .mma { len := .l96, src0 := 2, src1 := 2 }].any Instr.wellFormed) = false ∧
    (Instr.ssh { len := .l96, dst := 200, src0 := 192, ext := 0xF80 }).wellFormed = true ∧ (Instr.mma { len := .l96, src0 := 2, src1 := 3 }).wellFormed = true := by decide

/-! ### The named standards: examples that FIPS 180-4 and the GCM specification print -/

/-- FIPS 180-4: SHA-512 of "abc" begins with these bytes. -/
theorem test_sha512 : (sha512 [0x61, 0x62, 0x63]).take 8 = [0xDD, 0xAF, 0x35, 0xA1, 0x93, 0x61, 0x7A, 0xBA] := by decide +kernel

/-- The GCM specification's test case 14: a block of zeros under the zero key of 256 bits and the zero IV. -/
theorem test_gcm : gcmSeal (List.replicate 32 0) (List.replicate 12 0) [] (List.replicate 16 0) =
    [0xCE, 0xA7, 0x40, 0x3D, 0x4D, 0x60, 0x6B, 0x6E, 0x07, 0x4E, 0xC5, 0xD3, 0xBA, 0xF3, 0x9D, 0x18,
      0xD0, 0xD1, 0xC8, 0xA7, 0x99, 0x99, 0x6B, 0xF0, 0x26, 0x5B, 0x98, 0xB5, 0xD4, 0x8A, 0xB9, 0x19] := by decide +kernel

/-! ### Register instructions -/

/-- v1 = 7, v2 = −2, v3 = 5, the pair in v2 and v3; s0 = 3, s1 = 40. -/
def waveR : Wave :=
  { wave0 with
    v := [(32, ⟨7, false⟩), (64, ⟨0xFFFFFFFE, false⟩), (96, ⟨5, false⟩)], s := [(0, ⟨3, false⟩), (1, ⟨40, false⟩), (2, ⟨0xFFFFFFF9, false⟩)] }
def stR : State := on0 {} waveR
def encR : Enc := { dst := 4, src0 := 1, src1 := 2, src2 := 3 }
def c8 : Ctx := ctx0 .l64
def c12 : Ctx := ctx0 .l96
def c16 : Ctx := ctx0 .l128

theorem wit_IntegerElements :
    (∀ i ∈ [Instr.iadd encR, .isub encR, .imul encR, .imin encR, .imax encR], Ready stR i encR c8 ∧ CanRead stR i c8 encR) ∧
    (∀ l, c8.acting.getLsbD l = true → (stR.ctxWave c8).readsElem l encR 7 ∧ (stR.ctxWave c8).readsElemB l encR 0xFFFFFFFE) :=
  ⟨all_ready (by decide +kernel) (by decide), onLane0 (by
    unfold Wave.readsElem Wave.readsElemB; simp only [show itBits encR.fn.toNat ≠ 64 by decide, if_false]
    exact ⟨⟨⟨7, rfl, rfl⟩, rfl⟩, 0xFFFFFFFE, rfl, rfl⟩)⟩

/-- IABS.I64.SAT of the pair in v2. -/
def encAbs : Enc := { fn := 6, dst := 4, src0 := 2, mod := 1 }

theorem wit_IntegerElements_one :
    (∀ i ∈ [Instr.iabs encAbs, .ineg encAbs], Ready stR i encAbs c8 ∧ CanRead stR i c8 encAbs) ∧
    (∀ i ∈ [Instr.iabs encAbs, .ineg encAbs], i.wellFormed = true) ∧
    (∀ l, c8.acting.getLsbD l = true → (stR.ctxWave c8).readsElem l encAbs 0x5FFFFFFFE) :=
  ⟨all_ready (by decide +kernel) (by decide), by decide, onLane0 (by
    unfold Wave.readsElem; simp only [show itBits encAbs.fn.toNat = 64 by decide, if_true]
    exact ⟨⟨0x5FFFFFFFE, rfl, rfl⟩, rfl⟩)⟩

theorem wit_MultiplyForms :
    (∀ i ∈ [Instr.imulh encR, .imad encR, .idp4 encR, .bitfn encR, .popc encR, .clz encR, .brev encR, .bfe encR, .bfi encR],
      Ready stR i encR c8 ∧ CanRead stR i c8 encR) ∧
    (∀ l, c8.acting.getLsbD l = true → (stR.ctxWave c8).Reads3 l encR 7 0xFFFFFFFE 5 ∧ (stR.ctxWave c8).Reads3B l encR 7 0xFFFFFFFE 5 ∧
      (stR.ctxWave c8).Reads2 l encR 7 0xFFFFFFFE) :=
  ⟨all_ready (by decide +kernel) (by decide), onLane0 ⟨⟨rfl, rfl, rfl, rfl⟩, ⟨rfl, rfl, rfl, rfl⟩, ⟨rfl, rfl, rfl⟩⟩⟩

/-- BFE and BFI take their field from v2 (position 254, count 255), from IMM16 in the second form (position 4, count 8). -/
def encField : Enc := { encR with len := .l96, mod := 1, ext := 0x0804 <<< 7, src1 := 0 }

theorem wit_ShiftsAndBits :
    (∀ i ∈ [Instr.ishl encR, .ishr encR, .irot encR], Ready stR i encR c8 ∧ CanRead stR i c8 encR) ∧
    (∀ l, c8.acting.getLsbD l = true → (stR.ctxWave c8).readsElem l encR 7 ∧ (stR.ctxWave c8).readsShift l encR 0xFFFFFFFE ∧
      (stR.ctxWave c8).Reads3C l encR 7 0xFFFFFFFE 5 ∧ (stR.ctxWave c8).readsCount l encR 1 7) ∧
    (∀ i ∈ [Instr.bfe encField, .bfi encField], Ready stR i encField c12 ∧ CanRead stR i c12 encField) ∧
    (∀ l, c12.acting.getLsbD l = true → (stR.ctxWave c12).Reads1 l encField 7 ∧ (stR.ctxWave c12).src2 l encField = .ok ⟨5, false⟩ ∧
      encField.mod.getLsbD 0 = true ∧ encField.imm16 = 0x0804) :=
  ⟨all_ready (by decide +kernel) (by decide), onLane0 (by
    unfold Wave.readsElem Wave.readsShift Wave.readsCount
    simp only [show itBits encR.fn.toNat ≠ 64 by decide, show encR.fn.toNat ≠ 7 by decide, if_false]
    exact ⟨⟨⟨7, rfl, rfl⟩, rfl⟩, ⟨0xFFFFFFFE, rfl, rfl⟩, ⟨rfl, rfl, rfl, rfl⟩, ⟨7, rfl, rfl⟩, rfl⟩),
    all_ready (by decide +kernel) (by decide), onLane0 ⟨⟨rfl, rfl⟩, rfl, by decide, by decide⟩⟩

/-- SEL by q31, and by its complement. -/
def encSel : Enc := { encR with mod := 31 }
def encMovi : Enc := { len := .l96, dst := 4, ext := 0x8000 <<< 7 }

theorem wit_Moves :
    Ready stR (.sel encSel) encSel c8 ∧
    (∀ l, c8.acting.getLsbD l = true →
      (if ((stR.ctxWave c8).lane l).q (encSel.mod.toNat % 32) != encSel.mod.getLsbD 5 then (stR.ctxWave c8).src0 l encSel
        else (stR.ctxWave c8).src1 l encSel) = .ok ⟨7, false⟩ ∧ (stR.ctxWave c8).dstOk l encSel 1 = true) ∧
    (∀ i ∈ [Instr.mov encR], Ready stR i encR c8 ∧ CanRead stR i c8 encR) ∧ encR.fn = 0 ∧
    (∀ l, c8.acting.getLsbD l = true → (stR.ctxWave c8).src0 l encR = .ok ⟨7, false⟩ ∧ (stR.ctxWave c8).dstOk l encR 1 = true) ∧
    (∀ i ∈ [Instr.movi encMovi], Ready stR i encMovi c12 ∧ CanRead stR i c12 encMovi) ∧
    (∀ l, c12.acting.getLsbD l = true → (stR.ctxWave c12).dstOk l encMovi 1 = true) :=
  ⟨ready_of (by decide +kernel) (by decide), onLane0 ⟨rfl, rfl⟩, all_ready (by decide +kernel) (by decide), rfl, onLane0 ⟨rfl, rfl⟩,
    all_ready (by decide +kernel) (by decide), onLane0 rfl⟩

/-- MOV of the pair in v2. -/
def encMov2 : Enc := { fn := 1, dst := 4, src0 := 2 }

theorem wit_Moves_pair :
    (∀ i ∈ [Instr.mov encMov2], Ready stR i encMov2 c8 ∧ CanRead stR i c8 encMov2) ∧ encMov2.fn = 1 ∧
    (∀ l, c8.acting.getLsbD l = true → (stR.ctxWave c8).readSrc l false encMov2.src0 = .ok ⟨0xFFFFFFFE, false⟩ ∧
      (stR.ctxWave c8).readSrc l false (encMov2.src0 + 1) = .ok ⟨5, false⟩ ∧ (stR.ctxWave c8).dstOk l encMov2 2 = true) :=
  ⟨all_ready (by decide +kernel) (by decide), rfl, onLane0 ⟨rfl, rfl, rfl⟩⟩

theorem wit_FloatArithmetic :
    (∀ i ∈ [Instr.fadd encR, .fsub encR, .fmul encR, .ffma encR, .fmin encR, .fmax encR, .fabs encR, .fneg encR, .frnd encR, .fcls encR,
        .frcp encR, .frsq encR, .fsqrt encR, .fex2 encR, .flg2 encR, .fsin encR, .fcos encR],
      Ready stR i encR c8 ∧ CanRead stR i c8 encR) ∧
    (∀ l, c8.acting.getLsbD l = true → (stR.ctxWave c8).Reads1 l encR 7 ∧
      (stR.ctxWave c8).srcB l encR (floatImm encR.fn.toNat) = .ok ⟨0xFFFFFFFE, false⟩ ∧
      (stR.ctxWave c8).Reads3B l encR 7 0xFFFFFFFE 5 ∧ (stR.ctxWave c8).Reads2 l encR 7 0xFFFFFFFE) :=
  ⟨all_ready (by decide +kernel) (by decide), onLane0 ⟨⟨rfl, rfl⟩, rfl, ⟨rfl, rfl, rfl, rfl⟩, ⟨rfl, rfl, rfl⟩⟩⟩

/-- 3 in units of 2^-150, rounded to F32, does not overflow. -/
theorem wit_RoundsOnce : F32 ∈ [F32, F16, BF16] ∧ 0 < 3 ∧ (F32.roundTo .rne true 3 (-150) false).2.overflow = false := by decide +kernel

def encH : Enc := { encR with fn := 1 }
/-- BPERM's pool is the pair in v2; NLUT's table is s0 to s3. -/
def encPerm : Enc := { dst := 4, src0 := 2, src1 := 1 }
def encLut : Enc := { dst := 4, src0 := 1, src1 := 192 }

theorem wit_PackedLanes :
    (∀ i ∈ [Instr.hadd2 encH, .hmul2 encH, .hmin2 encH, .hmax2 encH, .hfma2 encH], Ready stR i encH c8 ∧ CanRead stR i c8 encH) ∧
    (∀ l, c8.acting.getLsbD l = true → (stR.ctxWave c8).Reads2 l encH 7 0xFFFFFFFE ∧ (stR.ctxWave c8).Reads3 l encH 7 0xFFFFFFFE 5) ∧
    (∀ i ∈ [Instr.bperm encPerm], Ready stR i encPerm c8 ∧ CanRead stR i c8 encPerm) ∧
    (∀ l, c8.acting.getLsbD l = true → (stR.ctxWave c8).readPair l encPerm.src0 = .ok (0x5FFFFFFFE, false) ∧
      (stR.ctxWave c8).src1 l encPerm = .ok ⟨7, false⟩ ∧ (stR.ctxWave c8).dstOk l encPerm 1 = true) ∧
    (∀ i ∈ [Instr.nlut encLut], Ready stR i encLut c8 ∧ CanRead stR i c8 encLut) ∧
    (∀ l, c8.acting.getLsbD l = true → (stR.ctxWave c8).Reads1 l encLut 7 ∧ ∀ r, r < 4 →
      (stR.ctxWave c8).readSrc l false (BitVec.ofNat 8 (encLut.src1.toNat + r)) = .ok ⟨[3, 40, 0xFFFFFFF9, 0].getD r 0, false⟩) :=
  ⟨all_ready (by decide +kernel) (by decide), onLane0 ⟨⟨rfl, rfl, rfl⟩, rfl, rfl, rfl, rfl⟩, all_ready (by decide +kernel) (by decide),
    onLane0 ⟨rfl, rfl, rfl⟩, all_ready (by decide +kernel) (by decide), onLane0 ⟨⟨rfl, rfl⟩, fun r hr => by
      rcases r with _ | _ | _ | _ | r <;> first | exact ok_of (by decide +kernel) | omega⟩⟩

theorem wit_CrossLane :
    (∀ i ∈ [Instr.shfl encR, .lred encR, .lscan encR], Ready stR i encR c8 ∧ CanRead stR i c8 encR) ∧
    (∀ x ∈ (stR.ctxWave c8).acc, x.dst.regs = none) ∧
    (∀ l, c8.acting.getLsbD l = true → (stR.ctxWave c8).srcB l encR .zero = .ok ⟨0xFFFFFFFE, false⟩ ∧
      ((stR.ctxWave c8).lane l).base + encR.src0.toNat < (stR.ctxWave c8).limit ∧ (stR.ctxWave c8).dstOk l encR 1 = true ∧
      (stR.ctxWave c8).Reads1 l encR 7) :=
  ⟨all_ready (by decide +kernel) (by decide), (by intro x hx; cases hx), onLane0 ⟨rfl, by decide, rfl, rfl, rfl⟩⟩

/-- PCMP on the types I32, I64 and F32. -/
def encCmp (t : Nat) : Enc := { fn := BitVec.ofNat 6 (8 * t + 2), dst := 1, src0 := 2, src1 := 2 }

theorem wit_Predicates :
    (∀ t ∈ [0, 2, 5], ∀ i ∈ [Instr.pcmp (encCmp t), .plog (encCmp t), .pmov (encCmp t), .pmovRd (encCmp t), .pmovWr (encCmp t),
        .pldm (encCmp t), .voteSome (encCmp t), .voteEvery (encCmp t), .voteSame (encCmp t), .voteMask (encCmp t)],
      Ready stR i (encCmp t) c8 ∧ CanRead stR i c8 (encCmp t)) ∧
    ((encCmp 0).cmpType ≤ 1 ∧ (2 ≤ (encCmp 2).cmpType ∧ (encCmp 2).cmpType ≤ 4) ∧ (encCmp 5).cmpType = 5) ∧ (encCmp 0).fn.toNat < 4 ∧
    (∀ l, c8.acting.getLsbD l = true → (stR.ctxWave c8).src0 l (encCmp 0) = .ok ⟨0xFFFFFFFE, false⟩ ∧
      (stR.ctxWave c8).srcB l (encCmp 0) .sign = .ok ⟨0xFFFFFFFE, false⟩ ∧ (stR.ctxWave c8).srcB l (encCmp 2) .high = .ok ⟨0xFFFFFFFE, false⟩ ∧
      (stR.ctxWave c8).readPair l (encCmp 5).src0 = .ok (0x5FFFFFFFE, false) ∧
      (stR.ctxWave c8).srcBD l (encCmp 5) true = .ok (0x5FFFFFFFE, false) ∧ (stR.ctxWave c8).dstOk l (encCmp 0) 1 = true) ∧
    (stR.ctxWave c8).sCode (192 : BitVec 8) = ⟨3, false⟩ :=
  ⟨fun t ht => all_ready (by revert t; decide +kernel) (by decide), by decide, by decide,
    onLane0 ⟨ok_of (by decide +kernel), ok_of (by decide +kernel), ok_of (by decide +kernel), ok_of (by decide +kernel),
      ok_of (by decide +kernel), by decide +kernel⟩, by decide +kernel⟩

/-- GETS of %fibid to v4 and of %clock to s4; SETS of %fpctl, %fpstat and %joinlost from s2 and v2. -/
def encGetV : Enc := { dst := 4, src0 := 7 }
def encGetS : Enc := { dst := 196, src0 := 12 }
def encSet (d s : BitVec 8) : Enc := { dst := d, src0 := s }

theorem wit_SpecialRegisters :
    (∀ i ∈ [Instr.gets encGetV], Ready stR i encGetV c8 ∧ CanRead stR i c8 encGetV) ∧ encGetV.dst.toNat < 192 ∧
    (∀ l, c8.acting.getLsbD l = true → (stR.ctxWave c8).dstOk l encGetV 1 = true) ∧
    (∀ i ∈ [Instr.gets encGetS], Ready stR i encGetS c8 ∧ CanRead stR i c8 encGetS) ∧ 192 ≤ encGetS.dst.toNat ∧
    (∀ d ∈ [(14 : BitVec 8), 16], (∀ i ∈ [Instr.sets (encSet d 194)], Ready stR i (encSet d 194) c8 ∧ CanRead stR i c8 (encSet d 194)) ∧
      (stR.ctxWave c8).sCode (encSet d 194).src0 = ⟨0xFFFFFFF9, false⟩) ∧
    (∀ i ∈ [Instr.sets (encSet 15 2)], Ready stR i (encSet 15 2) c8 ∧ CanRead stR i c8 (encSet 15 2)) ∧
    (∀ l, c8.acting.getLsbD l = true → (stR.ctxWave c8).src0 l (encSet 15 2) = .ok ⟨0xFFFFFFFE, false⟩) :=
  ⟨all_ready (by decide +kernel) (by decide), by decide, onLane0 rfl, all_ready (by decide +kernel) (by decide), by decide,
    fun d hd => ⟨all_ready (by revert d; decide +kernel) (by decide), by
      revert d; decide +kernel⟩, all_ready (by decide +kernel) (by decide), onLane0 rfl⟩

/-- Uniform instructions on s0, s1 and s2. -/
def encU : Enc := { dst := 196, src0 := 194, src1 := 193 }
def encScmp : Enc := { fn := 2, dst := 1, src0 := 194, src1 := 193 }
def encSmov : Enc := { dst := 196, src0 := 2 }
def encSli : Enc := { len := .l128, dst := 196, imm32 := 0x80000001 }

theorem wit_UniformArithmetic :
    (∀ i ∈ [Instr.sadd encU, .ssub encU, .smul encU, .slog encU, .ssh encU], Ready stR i encU c8 ∧ CanRead stR i c8 encU) ∧
    (stR.ctxWave c8).sCode encU.src0 = ⟨0xFFFFFFF9, false⟩ ∧ encU.len = .l64 ∧ (stR.ctxWave c8).sCode encU.src1 = ⟨40, false⟩ ∧
    (∀ i ∈ [Instr.scmp encScmp], Ready stR i encScmp c8 ∧ CanRead stR i c8 encScmp) ∧
    (∀ i ∈ [Instr.smov encSmov], Ready stR i encSmov c8 ∧ CanRead stR i c8 encSmov) ∧
    (stR.ctxWave c8).readSrc c8.leader false encSmov.src0 = .ok ⟨0xFFFFFFFE, false⟩ ∧
    (∀ i ∈ [Instr.sli encSli], Ready stR i encSli c16 ∧ CanRead stR i c16 encSli) :=
  ⟨all_ready (by decide +kernel) (by decide), by decide +kernel, rfl, by decide +kernel, all_ready (by decide +kernel) (by decide),
    all_ready (by decide +kernel) (by decide), rfl, all_ready (by decide +kernel) (by decide)⟩

/-! ### Control -/

/-- Two fibres of one batch, the first acting (q1), and a third fibre that stands elsewhere. -/
def waveT20 : Wave :=
  { wave0 with
    lanes := [(0, { cond := .runnable, pred := 2 }), (1, { cond := .runnable }), (2, { cond := .runnable, pc := 64 })]
    batches := [⟨3⟩, ⟨4⟩], v := [(0, ⟨0x40, false⟩), (32, ⟨0, false⟩)], s := [(0, ⟨3, false⟩)] }
def stT : State := on0 {} waveT20
/-- Its context: q1 guards. -/
def cT (l : Len) : Ctx := { blk := 0, wave := 0, pc := 0, nextPc := seqPc 0 l, members := 3, acting := 1 }
def encT (e : Enc) : Enc := { e with prd := 1 }
def encBra : Enc := encT { len := .l96, ext := 0xFFF0 <<< 7 }
def encFwd : Enc := encT { len := .l96, ext := 0x10 <<< 7 }
def encBrx : Enc := encT {}
def encCall : Enc := encT { len := .l96, dst := 8, ext := 0x10 <<< 7 }

theorem wit_ControlTransfer :
    (Ready stT (.bra encFwd) encFwd (cT .l96) ∧
      (let t : DWord := (cT .l96).pc + 4 * encFwd.imm16.signExtend 64; t.toNat < 2 ^ 55 ∧ t.toNat % 4 = 0 ∧ t.toNat % 32 ≠ 28)) ∧
    (∀ i ∈ [Instr.brx encBrx], Ready stT i encBrx (cT .l64) ∧ CanRead stT i (cT .l64) encBrx) ∧
    (∀ l, (cT .l64).acting.getLsbD l = true → (stT.ctxWave (cT .l64)).readPair l encBrx.src0 = .ok (0x40, false)) ∧
    Ready stT (.call encCall) encCall (cT .l96) ∧ (∀ x ∈ (stT.ctxWave (cT .l96)).acc, x.dst.regs = none) ∧
    (∀ l, (cT .l96).acting.getLsbD l = true →
      ((stT.ctxWave (cT .l96)).lane l).base + encCall.dst.toNat + 2 ≤ (stT.ctxWave (cT .l96)).limit) ∧
    Ready stT (.ret encBrx) encBrx (cT .l64) ∧
    (∀ l, (cT .l64).acting.getLsbD l = true → (stT.ctxWave (cT .l64)).readV l 0 = .ok ⟨0x40, false⟩ ∧
      (stT.ctxWave (cT .l64)).readV l 1 = .ok ⟨0, false⟩) :=
  ⟨⟨ready_of (by decide +kernel) (by decide), by decide⟩, all_ready (by decide +kernel) (by decide), onLane0 (ok_of (by decide +kernel)),
    ready_of (by decide +kernel) (by decide), (by intro x hx; cases hx), onLane0 (by decide +kernel),
    ready_of (by decide +kernel) (by decide), onLane0 ⟨ok_of (by decide +kernel), ok_of (by decide +kernel)⟩⟩

/-- m1 names lanes 0 to 2, lane 2 has arrived at it. -/
def stM20 : State := on0 {} { waveT20 with masks := [(1, 7)], arrived := [(1, 4)], lanes := waveT20.lanes.set 2 { cond := .joined 1, pc := 64 }, batches := [⟨3⟩] }
def encM : Enc := encT { dst := 1, src0 := 1 }

theorem wit_ControlTransfer_masks :
    (∀ i ∈ [Instr.nop encM, .yield encM, .split encM, .drop encM], Ready stM20 i encM (cT .l64) ∧ CanRead stM20 i (cT .l64) encM) ∧
    (let w := stM20.ctxWave (cT .l64)
     (cT .l64).acting &&& ~~~(w.arrived.get 0 1) ≠ 0 ∧ w.masks.get 0 1 &&& ~~~(cT .l64).acting &&& ~~~(w.arrived.get 0 1) ≠ 0) :=
  ⟨all_ready (by decide +kernel) (by decide), by decide +kernel⟩

theorem wit_ForkCreates :
    (∀ e ∈ [encT { dst := 196, src0 := 192 }, encT { len := .l96, dst := 196, src0 := 192, ext := 0x20 <<< 7 }],
      Ready stT (.fork e) e (cT e.len) ∧ inRegion stT (cT e.len) = none ∧ e.len ≠ .l128 ∧ (stT.ctxWave (cT e.len)).sCode e.src0 = ⟨3, false⟩ ∧
      (e.len = .l96 → ((cT e.len).pc + 4 * e.imm16.signExtend 64).toNat % 32 ≠ 28)) := by
  intro e he
  simp only [List.mem_cons, List.not_mem_nil, or_false] at he
  rcases he with rfl | rfl <;>
    exact ⟨ready_of (by decide +kernel) (by decide), by decide +kernel, by decide, by decide +kernel, by decide +kernel⟩

theorem wit_FibresEnd :
    (Ready stM20 (.quit encBrx) encBrx (cT .l64) ∧ inRegion stM20 (cT .l64) = none ∧ (cT .l64).members &&& ~~~(cT .l64).acting ≠ 0 ∧
      ∀ n, n < 8 → (stM20.ctxWave (cT .l64)).arrived.get 0 n &&& ~~~(cT .l64).acting = 0 ∨
        (stM20.ctxWave (cT .l64)).masks.get 0 n &&& ~~~(cT .l64).acting &&& ~~~((stM20.ctxWave (cT .l64)).arrived.get 0 n) ≠ 0) ∧
    Ready stM20 (.exit encBrx) encBrx (cT .l64) ∧ (stM20.ctxWave (cT .l64)).spec.sid = none ∧ (stM20.block (cT .l64).blk).task = none :=
  ⟨⟨ready_of (by decide +kernel) (by decide), by decide +kernel, by decide, by decide +kernel⟩, ready_of (by decide +kernel) (by decide), rfl, rfl⟩

/-- m1 names lanes 0 and 2, and lane 2 has arrived at it. -/
def stJ : State := on0 {} { waveT20 with masks := [(1, 5)], arrived := [(1, 4)], lanes := waveT20.lanes.set 2 { cond := .joined 1, pc := 64 }, batches := [⟨3⟩] }

theorem wit_JoinMeets :
    (Ready stM20 (.join encM) encM (cT .l64) ∧
      (∀ l, (cT .l64).members.getLsbD l = true → ((stM20.ctxWave (cT .l64)).arrived.get 0 1).getLsbD l = false) ∧
      (stM20.ctxWave (cT .l64)).masks.get 0 1 &&& ~~~((stM20.ctxWave (cT .l64)).arrived.get 0 1 ||| (cT .l64).acting) ≠ 0 ∧
      (cT .l64).members &&& ~~~(cT .l64).acting ≠ 0) ∧
    (Ready stJ (.join encM) encM (cT .l64) ∧
      (∀ l, (cT .l64).members.getLsbD l = true → ((stJ.ctxWave (cT .l64)).arrived.get 0 1).getLsbD l = false) ∧
      (stJ.ctxWave (cT .l64)).masks.get 0 1 &&& ~~~((stJ.ctxWave (cT .l64)).arrived.get 0 1 ||| (cT .l64).acting) = 0) :=
  ⟨⟨ready_of (by decide +kernel) (by decide), onLanes (by decide +kernel), by decide +kernel, by decide⟩,
    ready_of (by decide +kernel) (by decide), onLanes (by decide +kernel), by decide +kernel⟩

/-! ### Emulation -/

/-- A wave with an emulation window of 16, outside emulation mode and in a handler. -/
def stE (d : Nat) : State :=
  { on0 {} { waveT20 with emdepth := d, emWindow := 16, frames := List.replicate d { members := 1, nextPc := 8, batches := [⟨1⟩] } } with
    fns := [(0, { embase := 0x1001 })] }

theorem wit_EmulationEntry :
    (∀ i ∈ [(Instr.dadd encBrx, 0), (.xop encBrx, 1), (.emrd encBrx, 0)], let s := stE i.2
      s.ctx encBrx = some (cT .l64) ∧ (i.2 = 0 ∨ i.2 = 1 ∧ (s.ctxWave (cT .l64)).wdCount < 65536) ∧ (s.ctxWave (cT .l64)).emdepth = i.2 ∧
      (s.ctxWave (cT .l64)).emWindow ≠ 0 ∧ (s.ctxWave (cT .l64)).acc = []) := by decide +kernel

/-- The handler's frame: its one member is lane 0; v5 and the PC of the faulting context have pending writes. -/
def frameE : Frame :=
  { members := 1, lanes := [(0, { cond := .runnable, pc := 0 })], nextPc := 8, batches := [⟨1⟩]
    pending := [⟨.v 5, 0, ⟨9, false⟩⟩, ⟨.pcLo, 0, ⟨0x80, false⟩⟩] }
def stH (f : Frame) : State :=
  on0 {} { wave0 with lanes := [(0, { cond := .runnable, base := 64 })], emdepth := 1, emWindow := 16, frames := [f]
                      s := [(0, ⟨2, false⟩), (1, ⟨0x402, false⟩)] }
def encRd : Enc := { dst := 4, src0 := 193 }
def encWr : Enc := { src0 := 192, src1 := 1 }

theorem wit_EmulationState :
    (let w := (stH frameE).ctxWave c8
     (w.emdepth = 1 ∧ w.frames = frameE :: [] ∧ frameE.stream = false ∧ w.acc = []) ∧
     (Ready (stH frameE) (.emskip {}) {} c8 ∧ frameE.nextPc.toNat % 32 ≠ 28 ∧ frameE.members ≠ 0 ∧
       ∀ l, frameE.members.getLsbD l = true → (frameE.lanes.get {} l).cond = .runnable ∧ (frameE.lanes.get {} l).base = 0) ∧
     (Ready (stH frameE) (.emret {}) {} c8 ∧ frameE.pending.Pairwise (fun p q => ¬(p.target = q.target ∧ p.lane = q.lane)) ∧
       ∀ p ∈ frameE.pending, p.lane < 32 ∧ (∀ r, p.target ≠ .s r) ∧ p.target ≠ .fpctl)) ∧
    (let f := { frameE with pending := [] }
     (Ready (stH f) (.emrd encRd) encRd c8 ∧ ((stH f).ctxWave c8).sCode encRd.src0 = ⟨0x402, false⟩ ∧
       ∀ l, c8.acting.getLsbD l = true → ((stH f).ctxWave c8).dstOk l encRd 1 = true) ∧
     (Ready (stH f) (.emwr encWr) encWr c8 ∧ ((stH f).ctxWave c8).sCode encWr.src0 = ⟨2, false⟩ ∧
       ∀ l, c8.acting.getLsbD l = true → ((stH f).ctxWave c8).readSrc l encWr.sl1 encWr.src1 = .ok ⟨0, false⟩)) :=
  ⟨⟨⟨rfl, rfl, rfl, rfl⟩, ⟨ready_of (by decide +kernel) (by decide), by decide, by decide, onLane0 ⟨rfl, rfl⟩⟩,
      ready_of (by decide +kernel) (by decide), by decide, by
        intro p hp
        simp only [frameE, List.mem_cons, List.not_mem_nil, or_false] at hp
        rcases hp with rfl | rfl <;> exact ⟨by decide, fun r => by simp, by decide⟩⟩,
    ⟨ready_of (by decide +kernel) (by decide), by decide +kernel, onLane0 (by decide +kernel)⟩,
    ready_of (by decide +kernel) (by decide), by decide +kernel, onLane0 (ok_of (by decide +kernel))⟩

/-! ### Traps -/

def encTrap : Enc := { src0 := 192, src1 := 193, dst := 196 }

theorem wit_TrapsAndHostcalls :
    (∀ i ∈ [Instr.trap encTrap, .hostcall encTrap, .hostcallWait encTrap], Ready stR i encTrap c8 ∧ CanRead stR i c8 encTrap) ∧
    (stR.ctxWave c8).spec.sid = none ∧ (stR.ctxWave c8).acc = [] ∧ (stR.ctxWave c8).sCode encTrap.src0 = ⟨3, false⟩ ∧
    (stR.ctxWave c8).sCode encTrap.src1 = ⟨40, false⟩ ∧ (stR.ctxWave c8).sPair encTrap.src0 = (0x2800000003, false) :=
  ⟨all_ready (by decide +kernel) (by decide), rfl, rfl, by decide +kernel, by decide +kernel, by decide +kernel⟩

/-- v1 is poisoned; the pair in v2 is a misaligned address. -/
def stP : State := on0 {} { waveR with v := [(32, ⟨7, true⟩), (64, ⟨0x1002, false⟩), (96, ⟨0, false⟩)] }
def encLd20 : Enc := { fn := 2, dst := 4, src0 := 2, src1 := 2 }

theorem wit_OperandFaultsStop :
    ((∀ i ∈ [Instr.iadd encR, .isub encR, .imul encR, .imin encR, .imax encR], Ready stP i encR c8 ∧ CanRead stP i c8 encR) ∧
      (stP.ctxWave c8).spec.sid = none ∧ itBits encR.fn.toNat ≠ 64 ∧ (1 : BitVec 32) ≠ 0 ∧ 1 &&& ~~~c8.acting = 0 ∧
      ∀ l, c8.acting.getLsbD l = true → (stP.ctxWave c8).src0 l encR = .ok ⟨7, (1 : BitVec 32).getLsbD 0⟩ ∧
        (stP.ctxWave c8).srcB l encR (itImm encR.fn.toNat) = .ok ⟨0x1002, false⟩ ∧ (stP.ctxWave c8).dstOk l encR 1 = true) ∧
    ((∀ i ∈ [Instr.ld encLd20, .st encLd20], Ready stP i encLd20 c8 ∧ CanRead stP i c8 encLd20) ∧ (stP.ctxWave c8).doneMask = 0 ∧
      encLd20.fn.toNat % 8 ≤ 2 ∧ encLd20.fn.getLsbD 4 = false ∧
      ∀ l, c8.acting.getLsbD l = true → (stP.ctxWave c8).readPair l encLd20.src0 = .ok (0x1002, false) ∧
        (stP.ctxWave c8).src1 l encLd20 = .ok ⟨0x1002, false⟩ ∧ (stP.ctxWave c8).dstOk l encLd20 1 = true ∧ 0x1002 % 2 ^ 2 ≠ 0) :=
  ⟨⟨all_ready (by decide +kernel) (by decide), rfl, by decide, by decide, by decide, onLane0 ⟨ok_of (by decide +kernel),
      ok_of (by decide +kernel), by decide +kernel⟩⟩,
    all_ready (by decide +kernel) (by decide), rfl, by decide, by decide, onLane0 ⟨ok_of (by decide +kernel), ok_of (by decide +kernel),
      by decide +kernel, by decide⟩⟩

/-! ### Memory -/

/-- The entries map 512 MiB of virtual and host addresses one to one in both stages; 0x1000 holds 0x77 and 0x1008 holds 0x12. -/
def memA : List Host.Cell := [(0x1000, 0x77), (0x1008, 0x12), (0x10000, 1), (0x10002, 2), (0x20000, 0x3F), (0x20001, 0x40)]
def onMem (s : State) (m : List Host.Cell) : State :=
  { s with mem := m, fns := [(0, { s1root := 0x10001, s2root := 0x10001 })], mgmt := { rdy0 := 0xFFFFFFFFFFFF } }
/-- The pairs in v2 and in s2 hold 0x1000; v1 = 0x77, v4 = 5, s0 = 3. -/
def waveA : Wave :=
  { wave0 with v := [(32, ⟨0x77, false⟩), (64, ⟨0x1000, false⟩), (128, ⟨5, false⟩)], s := [(0, ⟨3, false⟩), (2, ⟨0x1000, false⟩)] }
def stA : State := onMem (on0 {} waveA) memA
def xl (a : Nat) : Xlat :=
  { place := .hbm a, gpa := a, r := true, w := true, x := true, sc := false, stk := false, fmt := 0, blk := 0, sgrp := 0, dirty := true }

theorem xlA : ∀ acc ∈ [Acc.read, .write, .readWrite], stA.mapsTo c8 0x1000 acc (xl 0x1000) := by
  intro acc h
  have : ∀ acc ∈ [Acc.read, .write, .readWrite], stA.hbmXlat 0 0 0x1000 acc = some (xl 0x1000) := by decide +kernel
  exact mapsTo_dec (by decide +kernel) (this acc h)

/-- 4 bytes from the pair in v2, to v8 or s8. -/
def encLd : Enc := { fn := 2, dst := 8, src0 := 2, src1 := 1 }
def encLdu : Enc := { fn := 2, dst := 200, src0 := 194 }
/-- With the index v4 shifted by 2 and the offset −20. -/
def encLdx : Enc := { fn := 18, len := .l96, dst := 8, src0 := 2, src1 := 4, mod := 5, ext := 0xFFEC <<< 7 }
theorem ofB {i : Instr} {e : Enc} {c : Ctx} {l : Nat} (s : State) (h : (standsB s i e c && decide (l < 32) && c.acting == laneBit l &&
    (s.ctxWave c).spec.sid.isNone && (s.ctxWave c).acc.isEmpty && (s.ctxWave c).doneMask == 0 && (s.ctxWave c).late.isEmpty) = true) : OneFibre s i e c l := oneFibre_of h

theorem wit_LoadsIssue :
    (∀ i ∈ [Instr.ld encLd, .ldb encLd], OneFibre stA i encLd c8 0) ∧ OneFibre stA (.ldu encLdu) encLdu c8 0 ∧
    encLd.mod.getLsbD 4 = false ∧ encLd.fn.toNat % 8 ≤ 4 ∧ (stA.ctxWave c8).readPair 0 encLd.src0 = .ok (0x1000, false) ∧
    (stA.ctxWave c8).readPair 0 encLdu.src0 = .ok (0x1000, false) ∧ (stA.ctxWave c8).dstOk 0 encLd 1 = true ∧
    stA.mapsTo c8 0x1000 .read (xl 0x1000) ∧ 0x1000 < sliceBase :=
  ⟨by intro i h; revert i; simp only [List.forall_mem_cons]; exact ⟨ofB _ (by decide +kernel), ofB _ (by decide +kernel), by simp⟩,
    ofB _ (by decide +kernel), by decide, by decide, ok_of (by decide +kernel), ok_of (by decide +kernel), by decide +kernel,
    xlA _ (by decide), by decide⟩

theorem wit_LoadsIssue_indexed :
    OneFibre stA (.ld encLdx) encLdx c12 0 ∧ encLdx.mod.getLsbD 4 = false ∧ encLdx.mod.getLsbD 0 = true ∧ encLdx.fn.getLsbD 4 = true ∧
    (stA.ctxWave c12).readPair 0 encLdx.src0 = .ok (0x1000, false) ∧ (stA.ctxWave c12).src1 0 encLdx = .ok ⟨5, false⟩ ∧
    (0x1000 : DWord) + ((5 : Word).setWidth 64 <<< (encLdx.mod.toNat / 2 % 4)) + encLdx.imm16.signExtend 64 = 0x1000 :=
  ⟨ofB _ (by decide +kernel), by decide, by decide, by decide, ok_of (by decide +kernel), ok_of (by decide +kernel), by decide +kernel⟩

/-- 4 bytes from v1 to the pair in v2; ATOM and RED with operation 0 on 4 bytes, and the compare-and-swap of 8 bytes. -/
def encSt : Enc := { fn := 2, src0 := 2, src1 := 1, src2 := 4, dst := 8 }
def encCas : Enc := { fn := 25, src0 := 2, src1 := 2, src2 := 4, dst := 8 }

theorem wit_StoresIssue :
    (∀ i ∈ [Instr.st encSt, .stb encSt], OneFibre stA i encSt c8 0) ∧ encSt.mod.getLsbD 4 = false ∧ encSt.mod.getLsbD 5 = false ∧
    encSt.fn.toNat % 8 ≤ 4 ∧ encSt.fn.getLsbD 4 = false ∧ (stA.ctxWave c8).readPair 0 encSt.src0 = .ok (0x1000, false) ∧
    ((stA.ctxWave c8).src1 0 encSt).map (fun y => [y]) = .ok (clean [0x77]) ∧ stA.mapsTo c8 0x1000 .write (xl 0x1000) :=
  ⟨by intro i h; revert i; simp only [List.forall_mem_cons]; exact ⟨ofB _ (by decide +kernel), ofB _ (by decide +kernel), by simp⟩,
    by decide, by decide, by decide, by decide, ok_of (by decide +kernel), ok_of (by decide +kernel), xlA _ (by decide)⟩

theorem wit_StoresIssue_atomic :
    (∀ i ∈ [Instr.atom encCas, .red encCas], OneFibre stA i encCas c8 0) ∧ encCas.fn.getLsbD 5 = false ∧ encCas.fn.getLsbD 4 = true ∧
    (stA.ctxWave c8).dstOk 0 encCas 2 = true ∧ (stA.ctxWave c8).readPair 0 encCas.src1 = .ok (0x1000, false) ∧
    (stA.ctxWave c8).readPair 0 encCas.src2 = .ok (5, false) ∧ stA.mapsTo c8 0x1000 .readWrite (xl 0x1000) ∧
    (∀ i ∈ [Instr.atom { encSt with fn := 0 }, .red { encSt with fn := 0 }], OneFibre stA i { encSt with fn := 0 } c8 0) ∧
    (stA.ctxWave c8).readSrc 0 false 1 = .ok ⟨0x77, false⟩ :=
  ⟨by intro i h; revert i; simp only [List.forall_mem_cons]; exact ⟨ofB _ (by decide +kernel), ofB _ (by decide +kernel), by simp⟩,
    by decide, by decide, by decide +kernel, ok_of (by decide +kernel), ok_of (by decide +kernel), xlA _ (by decide),
    by intro i h; revert i; simp only [List.forall_mem_cons]; exact ⟨ofB _ (by decide +kernel), ofB _ (by decide +kernel), by simp⟩,
    ok_of (by decide +kernel)⟩

/-- LR, SC to s8, WAITW on 4 bytes; with a reservation of the line held and without one. -/
def encLr : Enc := { fn := 2, dst := 200, src0 := 2, src1 := 1 }
def encWaitw : Enc := { fn := 2, dst := 8, src0 := 2, src1 := 1 }
def stResv : State := onMem (on0 {} { waveA with resv := some ⟨0x1000, 0x1000, 4⟩ }) memA

theorem wit_ReservationsAndOrdering :
    OneFibre stA (.lr encLr) encLr c8 0 ∧ stA.mapsTo c8 0x1000 .read (xl 0x1000) ∧ stA.poisonAt 0x1000 4 = false ∧
    (∀ s ∈ [stA, stResv], OneFibre s (.sc encLr) encLr c8 0 ∧ CanRead s (.sc encLr) c8 encLr ∧ s.mapsTo c8 0x1000 .readWrite (xl 0x1000) ∧ s.memOk ∧
      s.units = [] ∧ s.faulty = [] ∧ s.dbmap.getLsbD 0 = false ∧ ((s.ctxWave c8).src1 0 encLr).map (fun y => [y]) = .ok (clean [0x77])) ∧
    OneFibre stA (.waitw encWaitw) encWaitw c8 0 ∧ (stA.ctxWave c8).dstOk 0 encWaitw 1 = true ∧
    (stA.ctxWave c8).src1 0 encWaitw = .ok ⟨0x77, false⟩ ∧ stA.natAt 0x1000 4 = 0x77 ∧
    OneFibre stA (.waitw { encWaitw with src1 := 4 }) { encWaitw with src1 := 4 } c8 0 ∧
    (stA.ctxWave c8).src1 0 { encWaitw with src1 := 4 } = .ok ⟨5, false⟩ :=
  ⟨ofB _ (by decide +kernel), xlA _ (by decide), by decide +kernel, by
      intro s h
      simp only [List.mem_cons, List.not_mem_nil, or_false] at h
      rcases h with rfl | rfl
      · exact ⟨ofB _ (by decide +kernel), by unfold CanRead; decide +kernel, xlA _ (by decide), by unfold State.memOk; decide +kernel, rfl, rfl,
          by decide +kernel, ok_of (by decide +kernel)⟩
      · exact ⟨ofB _ (by decide +kernel), by unfold CanRead; decide +kernel, mapsTo_dec (by decide +kernel) (by decide +kernel), by unfold State.memOk; decide +kernel,
          rfl, rfl, by decide +kernel, ok_of (by decide +kernel)⟩,
    ofB _ (by decide +kernel), by decide +kernel, ok_of (by decide +kernel), by decide +kernel, ofB _ (by decide +kernel), ok_of (by decide +kernel)⟩

/-- PREF of an address of 2^55 does not translate; that of 0x1000 does. -/
def stFar : State := onMem (on0 {} { wave0 with v := [(96, ⟨0x800000, false⟩)] }) memA
def encPref : Enc := { src0 := 2 }

theorem wit_ReservationsAndOrdering_fences :
    (∀ i ∈ [Instr.rel {}, .acq {}, .fence {}], Ready stA i {} c8) ∧ (stA.ctxWave c8).acc = [] ∧ (stA.ctxWave c8).spec.sid = none ∧
    Ready stFar (.pref encPref) encPref c8 ∧ (stFar.ctxWave c8).readPair 0 encPref.src0 = .ok (0x80000000000000, false) ∧
    OneFibre stA (.pref encPref) encPref c8 0 ∧ (stA.ctxWave c8).readPair 0 encPref.src0 = .ok (0x1000, false) ∧
    stA.mapsTo c8 0x1000 .read (xl 0x1000) :=
  ⟨fun i h => (all_ready (s := stA) (is := [.rel {}, .acq {}, .fence {}]) (by decide +kernel) (by decide) i h).1, rfl, rfl,
    ready_of (by decide +kernel) (by decide), ok_of (by decide +kernel), ofB _ (by decide +kernel), ok_of (by decide +kernel), xlA _ (by decide)⟩

/-- A load of 4 bytes and a store of 2 in flight. -/
def accLd : Access := { id := 7, lane := 0, core := 0, addr := 0x1000, kind := .load 4 false, dst := .v 8 1 4 false 0 }
def accSt : Access := { id := 7, lane := 0, core := 0, addr := 0x1000, kind := .store [1, 2] false }
def stAcc (a : Access) : State := { onMem (on0 {} { waveA with acc := [a] }) memA with args := [0, 0, 7] }

theorem wit_AccessesHappen :
    (∀ a ∈ [accLd, accSt], (stAcc a).args = [0, 0, 7] ∧ (stAcc a).accOf 0 0 7 = some a ∧ a.id = 7 ∧ a.remote = none ∧
      ((stAcc a).wave 0 0).acc = [a] ∧ ((stAcc a).wave 0 0).late = [] ∧ (stAcc a).faulty = [] ∧ (stAcc a).units = [] ∧ (stAcc a).dbmap.getLsbD 0 = false ∧ (stAcc a).memOk) ∧
    (((stAcc accLd).wave 0 0).lane accLd.lane).cond ≠ .stacked ∧ ((stAcc accLd).core accLd.core).l1.get? (accLd.addr / 4) = none ∧
    (stAcc accLd).blocks.flatMap (fun (_, bk) => bk.waves.flatMap (fun (_, v) => v.acc.filter (fun y => y.core == accLd.core && y.isWrite && y.sameWord accLd)))
      = [] := by
  refine ⟨?_, by decide +kernel, by decide +kernel, by decide +kernel⟩
  intro a h
  simp only [List.mem_cons, List.not_mem_nil, or_false] at h
  rcases h with rfl | rfl
  · exact ⟨rfl, by decide +kernel, rfl, rfl, rfl, rfl, rfl, rfl, by decide +kernel, by unfold State.memOk; decide +kernel⟩
  · exact ⟨rfl, by decide +kernel, rfl, rfl, rfl, rfl, rfl, rfl, by decide +kernel, by unfold State.memOk; decide +kernel⟩

/-! ### Conversions -/

/-- v1 = 1.5 in F32, v2 = 0x7F, the group in v4 to v7: 2.0, −3.0, 0.5, 0; v8 = 3.0. -/
def waveC : Wave :=
  { wave0 with v := [(32, ⟨0x3FC00000, false⟩), (64, ⟨0x7F, false⟩), (128, ⟨0x40000000, false⟩), (160, ⟨0xC0400000, false⟩),
      (192, ⟨0x3F000000, false⟩), (256, ⟨0x40400000, false⟩)] }
def stC : State := on0 {} waveC
/-- CVT to E4M3 with the scale in v2, with a scale in EXT under RND 5; PCVT of four F32 to E4M3 and back. -/
def encCvt : Enc := { len := .l96, fn := 10, dst := 12, src0 := 1, src1 := 2 }
def encCvtSr : Enc := { len := .l96, fn := 10, dst := 12, src0 := 1, mod := 20, ext := 0x17E }
def encPcvt : Enc := { len := .l96, fn := 2, dst := 12, src0 := 4, src1 := 2, ext := 10 }
def encPcvtBack : Enc := { len := .l96, fn := 2, dst := 12, src0 := 1, src1 := 2, ext := 0x1A }
def encScaleq : Enc := { dst := 12, src0 := 1 }
def encTquant : Enc := { len := .l96, dst := 12, src0 := 4, src1 := 8, src2 := 2, ext := 1 }

theorem wit_Conversions :
    (∀ e ∈ [encCvt, encCvtSr], Ready stC (.cvt e) e c12 ∧ CanRead stC (.cvt e) c12 e ∧ (stC.ctxWave c12).src0 0 e = .ok ⟨0x3FC00000, false⟩ ∧
      (stC.ctxWave c12).dstOk 0 e 1 = true ∧ (e.ext.getLsbD 8 = false → (stC.ctxWave c12).src1 0 e = .ok ⟨0x7F, false⟩)) ∧
    (∀ e ∈ [encPcvt, encPcvtBack], Ready stC (.pcvt e) e c12 ∧ CanRead stC (.pcvt e) c12 e ∧ (Instr.pcvt e).wellFormed = true ∧
      (stC.ctxWave c12).src1 0 e = .ok ⟨0x7F, false⟩) ∧
    (stC.ctxWave c12).readGroup 0 encPcvt.src0.toNat 4 = .ok (clean [0x40000000, 0xC0400000, 0x3F000000, 0]) ∧
    encPcvt.pcvtWide = 4 ∧ encPcvt.pcvtPacked = 1 ∧ ((stC.ctxWave c12).src0 0 encPcvtBack).map (fun y => [y]) = .ok (clean [0x3FC00000]) := by
  refine ⟨?_, ?_, ok_of (by decide +kernel), by decide, by decide, ok_of (by decide +kernel)⟩
  · simp only [List.forall_mem_cons, List.not_mem_nil, false_implies, implies_true, and_true]
    exact ⟨⟨ready_of (by decide +kernel) (by decide), by unfold CanRead; decide +kernel, ok_of (by decide +kernel), by decide +kernel,
      fun _ => ok_of (by decide +kernel)⟩, ready_of (by decide +kernel) (by decide), by unfold CanRead; decide +kernel,
      ok_of (by decide +kernel), by decide +kernel, fun h => absurd h (by decide)⟩
  · simp only [List.forall_mem_cons, List.not_mem_nil, false_implies, implies_true, and_true]
    exact ⟨⟨ready_of (by decide +kernel) (by decide), by unfold CanRead; decide +kernel, by decide +kernel, ok_of (by decide +kernel)⟩,
      ready_of (by decide +kernel) (by decide), by unfold CanRead; decide +kernel, by decide +kernel, ok_of (by decide +kernel)⟩

theorem wit_Conversions_rest :
    Ready stC (.scaleq encScaleq) encScaleq c8 ∧ CanRead stC (.scaleq encScaleq) c8 encScaleq ∧
    Ready stC (.srseed encScaleq) encScaleq c8 ∧ CanRead stC (.srseed encScaleq) c8 encScaleq ∧
    (stC.ctxWave c8).src0 0 encScaleq = .ok ⟨0x3FC00000, false⟩ ∧ (stC.ctxWave c8).dstOk 0 encScaleq 1 = true ∧
    Ready stC (.tquant encTquant) encTquant c12 ∧ CanRead stC (.tquant encTquant) c12 encTquant ∧
    (stC.ctxWave c12).readGroup 0 encTquant.src0.toNat 4 = .ok (clean [0x40000000, 0xC0400000, 0x3F000000, 0]) ∧
    (stC.ctxWave c12).src1 0 encTquant = .ok ⟨0x40400000, false⟩ ∧ (stC.ctxWave c12).src2 0 encTquant = .ok ⟨0x7F, false⟩ :=
  ⟨ready_of (by decide +kernel) (by decide), by unfold CanRead; decide +kernel, ready_of (by decide +kernel) (by decide),
    by unfold CanRead; decide +kernel, ok_of (by decide +kernel), by decide +kernel, ready_of (by decide +kernel) (by decide),
    by unfold CanRead; decide +kernel, ok_of (by decide +kernel), ok_of (by decide +kernel), ok_of (by decide +kernel)⟩

/-- 1.75 in E4M3, drawn and rounded to nearest. -/
theorem wit_NarrowCodesExact : (0x3E : Nat) < 2 ^ elemBits 10 ∧ 0x3E % 128 ≠ 127 ∧ (∀ r, Rnd.sr 65535 = .sr r → r < 65536) :=
  ⟨by decide, by decide, fun r h => by cases h; decide⟩

/-- An SC page: the entry of the first stage maps with SC set. v2 holds 0x1000; LDX and STX of four E4M3 elements as F32. -/
def memSc : List Host.Cell := [(0x1000, 0x38), (0x1001, 0x40), (0x1002, 0xB8), (0x1003, 0x3E), (0x10000, 1), (0x10002, 2), (0x20000, 0x3F), (0x20001, 0x40)]
def stSc : State := onMem (on0 {} { wave0 with v := [(64, ⟨0x1000, false⟩), (128, ⟨0x40000000, false⟩), (160, ⟨0xC0400000, false⟩)] }) (memSc.map (fun p => if p.1 == 0x20000 then (p.1, 0x7F) else p))
def encLdxG : Enc := { fn := 10, dst := 8, src0 := 2 }
def encStxG : Enc := { fn := 10, src0 := 2, src1 := 4 }
def xlSc : Xlat := { xl 0x1000 with sc := true }

theorem wit_GroupAccesses :
    OneFibre stSc (.ldx encLdxG) encLdxG c8 0 ∧ stSc.mapsTo c8 0x1000 .read xlSc ∧ stSc.mapsTo c8 0x1000 .write xlSc ∧
    encLdxG.dt = 0 ∧ groupBytes 10 = 4 ∧ (0x1000 : DWord).toNat % 4 = 0 ∧ 4 ≤ 65536 - (0x1000 : DWord).toNat % 65536 ∧
    encLdxG.mod.getLsbD 0 = false ∧ encLdxG.mod.getLsbD 4 = false ∧ encLdxG.mod.getLsbD 5 = false ∧ encLdxG.fn.getLsbD 4 = false ∧
    xlSc.fmt = 0 ∧ xlSc.sc = true ∧ xlSc.stk = false ∧ xlSc.blk = 0 ∧ 0x1000 + 4 ≤ sliceBase ∧ stSc.faulty = [] ∧
    (stSc.ctxWave c8).readPair 0 encLdxG.src0 = .ok (0x1000, false) ∧ stSc.units = [] ∧
    stSc.dbmap.getLsbD 0 = false ∧ stSc.memOk ∧ stSc.poisonAt 0x1000 4 = false ∧ (stSc.ctxWave c8).dstOk 0 encLdxG 4 = true ∧
    OneFibre stSc (.stx encStxG) encStxG c8 0 ∧
    (stSc.ctxWave c8).readGroup 0 encStxG.src1.toNat 4 = .ok (clean [0x40000000, 0xC0400000, 0, 0]) :=
  ⟨ofB _ (by decide +kernel), mapsTo_dec (by decide +kernel) (by decide +kernel), mapsTo_dec (by decide +kernel) (by decide +kernel), by decide, by decide,
    by decide, by decide, by decide, by decide, by decide, by decide, rfl, rfl, rfl, rfl, by decide, rfl, ok_of (by decide +kernel),
    rfl, by decide +kernel, by unfold State.memOk; decide +kernel, by decide +kernel, by decide +kernel, ofB _ (by decide +kernel), ok_of (by decide +kernel)⟩

/-- An SC page of E2M1, for an FN of 0: the group at v2 + 2 · v4. -/
def memG40 : List Host.Cell :=
  [(0x1008, 0x21), (0x1009, 0x43), (0x10000, 1), (0x10002, 2), (0x20000, 0x3F), (0x20001, 0x40), (0x60000, 1), (0x60002, 7), (0x70000, 0x7F), (0x70001, 0x4E)]
def stG40 : State :=
  let s := onMem (on0 {} { wave0 with v := [(64, ⟨0x1000, false⟩), (128, ⟨4, false⟩), (256, ⟨0x3F800000, false⟩)] }) memG40
  { s with fns := [(0, { s1root := 0x60001, s2root := 0x10001 })] }
def encLdxI : Enc := { len := .l96, dst := 8, src0 := 2, src1 := 4, mod := 3 }
def xlF : Xlat := { xl 0x1008 with sc := true, fmt := 14 }

theorem wit_GroupAccesses_indexed :
    OneFibre stG40 (.ldx encLdxI) encLdxI c12 0 ∧ stG40.mapsTo c12 0x1008 .read xlF ∧ encLdxI.dt = 0 ∧ encLdxI.fn.toNat % 16 = 0 ∧ xlF.fmt < 16 ∧
    groupBytes 14 = 2 ∧ encLdxI.mod.getLsbD 0 = true ∧ (stG40.ctxWave c12).readPair 0 encLdxI.src0 = .ok (0x1000, false) ∧
    (stG40.ctxWave c12).src1 0 encLdxI = .ok ⟨4, false⟩ ∧
    (0x1000 : DWord) + ((4 : Word).setWidth 64 <<< (encLdxI.mod.toNat / 2 % 4)) + encLdxI.imm16.signExtend 64 = 0x1008 ∧
    (stG40.ctxWave c12).dstOk 0 encLdxI 4 = true ∧ stG40.poisonAt 0x1008 2 = false ∧ stG40.units = [] ∧ stG40.faulty = [] ∧ stG40.memOk ∧ stG40.dbmap.getLsbD 0 = false :=
  ⟨ofB _ (by decide +kernel), mapsTo_dec (by decide +kernel) (by decide +kernel), by decide, by decide, by decide, by decide, by decide,
    ok_of (by decide +kernel), ok_of (by decide +kernel), by decide +kernel, by decide +kernel, by decide +kernel, rfl, rfl,
    by unfold State.memOk; decide +kernel, by decide +kernel⟩

/-! ### Barriers, rings and copies -/

/-- Barriers 0 (open, 3 expected), 1 (ended: phase 1), 2 (poisoned), 3 (not valid); rings 0 (two slots, free, 64 bytes each), 1 (slot 0
filled) and 2 (slot 0 producing, slot 1 consuming); 4096 bytes of scratch. -/
def blockB : Block :=
  { nbar := 4, nring := 4, scratch := 4096
    bars := [(0, { exp := 3, arr := 1, bytes := 64 }), (1, { phase := true }), (2, { psn := true, ecause := .accessFault }), (3, { v := false })]
    rings := [(0, { v := true }), (1, { v := true, base := 128, slots := [(0, { st := 2 })], tail := 1 }),
      (2, { v := true, base := 256, slots := [(0, { st := 1 }), (1, { st := 3 })] })] }
def waveB : Wave :=
  { wave0 with v := [(32, ⟨1, false⟩)], s := [(0, ⟨3, false⟩), (1, ⟨1, false⟩), (2, ⟨0x1000, false⟩), (4, ⟨64, false⟩), (5, ⟨256, false⟩)] }
def stB : State := onMem (on0 blockB waveB) memA
/-- BARINIT, ARRIVEX, TESTB, WAITB on barrier b; s0 is the count. -/
def encBar (b : BitVec 8) : Enc := { src0 := b, src1 := 192, dst := 2 }

theorem wit_Barriers :
    Ready stB (.barinit (encBar 3)) (encBar 3) c8 ∧ Ready stB (.barinit (encBar 2)) (encBar 2) c8 ∧
    (∀ i ∈ [Instr.arrive (encBar 0), .arrivex (encBar 0), .testb (encBar 0), .waitb (encBar 0)], Ready stB i (encBar 0) c8) ∧
    (∀ i ∈ [Instr.barinv (encBar 1), .testb (encBar 1), .waitb (encBar 1)], Ready stB i (encBar 1) c8) ∧
    Ready stB (.waitb (encBar 2)) (encBar 2) c8 ∧ Ready stB (.waitb { encBar 2 with fn := 1 }) { encBar 2 with fn := 1 } c8 ∧
    (stB.ctxWave c8).sCode (encBar 0).src1 = ⟨3, false⟩ ∧ (stB.block 0).nbar = 4 ∧
    ((stB.block 0).bar 0).v = true ∧ ((stB.block 0).bar 0).psn = false ∧ ((stB.block 0).bar 0).phase = (encBar 0).mod.getLsbD 0 ∧
    ((stB.block 0).bar 1).v = true ∧ ((stB.block 0).bar 1).psn = false ∧ ((stB.block 0).bar 1).phase ≠ (encBar 1).mod.getLsbD 0 ∧
    ((stB.block 0).bar 2).v = true ∧ ((stB.block 0).bar 2).psn = true ∧ ((stB.block 0).bar 3).v = false ∧
    (∀ b, (stB.block 0).hasWaiter b = false) := by
  refine ⟨ready_of (by decide +kernel) (by decide), ready_of (by decide +kernel) (by decide), ?_, ?_, ready_of (by decide +kernel) (by decide),
    ready_of (by decide +kernel) (by decide), by decide +kernel, rfl, rfl, rfl, rfl, rfl, rfl, ?_, rfl, rfl, rfl, ?_⟩
  · exact fun i h => (all_ready (s := stB) (e := encBar 0) (c := c8) (is := [.arrive (encBar 0), .arrivex (encBar 0), .testb (encBar 0), .waitb (encBar 0)])
      (by decide +kernel) (by decide) i h).1
  · exact fun i h => (all_ready (s := stB) (e := encBar 1) (c := c8) (is := [.barinv (encBar 1), .testb (encBar 1), .waitb (encBar 1)])
      (by decide +kernel) (by decide) i h).1
  · decide
  · intro b
    rfl

/-- Barrier 0 with arrivals of 2 and 256 bytes less 64 on their way; and with more counted off than expected. -/
def stStep50 (ps : List Contrib) : State :=
  { stB with args := [0, 0, 2], blocks := [(0, { blockB with core := some 0, waves := [(0, waveB)], bars := [(0, { exp := 3, arr := 1, bytes := 64, pend := ps })] })] }

theorem wit_Barriers_step :
    (∀ ps ∈ [[({ arrivals := 2 } : Contrib), { sub := 64 }], [{ add := 64 }, { sub := 256 }], [{ arrivals := 1 }, { add := 4 }]],
      (stStep50 ps).args = [0, 0, 2] ∧ ((stStep50 ps).block 0).hasWaiter 0 = false ∧ (∀ p ∈ (((stStep50 ps).block 0).bar 0).pend.take 2, p.source = .command) ∧
      (((stStep50 ps).block 0).bar 0).bytes + (((((stStep50 ps).block 0).bar 0).pend.take 2).map (·.add)).sum ≤
        2 ^ 32 - 1 + (((((stStep50 ps).block 0).bar 0).pend.take 2).map (·.sub)).sum ∧
      (((stStep50 ps).block 0).bar 0).arr + (((((stStep50 ps).block 0).bar 0).pend.take 2).map (·.arrivals)).sum ≤ 63 ∧
      (((stStep50 ps).block 0).bar 0).v = true ∧ (((stStep50 ps).block 0).bar 0).psn = false) ∧
    -- the phase ends; fewer bytes are expected than counted off; neither
    64 + 0 = 64 ∧ 3 ≤ 1 + 2 ∧ 64 + 64 < 256 ∧ 0 ≤ 64 + 4 ∧ ¬(3 ≤ 1 + 1) := by
  refine ⟨?_, by decide, by decide, by decide, by decide, by decide⟩
  simp only [List.forall_mem_cons, List.not_mem_nil, false_implies, implies_true, and_true]
  exact ⟨by decide +kernel, by decide +kernel, by decide +kernel⟩

/-- Ring q, destination s8 and s9, the handle in s1. -/
def encRing (q : BitVec 8) : Enc := { src0 := q, src1 := 193, dst := 200 }
/-- RINIT of ring 3 with two slots of 64 bytes at the base in s4. -/
def encRinit : Enc := { len := .l96, src0 := 3, src1 := 196, ext := 0x10 }
/-- Ring 2 under the handle of its slot 0. -/
def encFill : Enc := { src0 := 2, src1 := 194, dst := 200 }
def stRing : State := onMem (on0 blockB { waveB with s := [(1, ⟨1, false⟩), (2, ⟨0, false⟩)] }) memA

theorem wit_RingInstructions :
    Ready stB (.rinit encRinit) encRinit c12 ∧ (stB.ctxWave c12).sCode encRinit.src1 = ⟨64, false⟩ ∧ encRinit.ext.getLsbD 19 = false ∧
    64 + (encRinit.ext.toNat / 16 % 256 + 1) * 2 ^ (encRinit.ext.toNat % 16 + 6) ≤ (stB.block 0).scratch ∧
    (∀ i ∈ [Instr.rpush (encRing 0), .rpop (encRing 0), .rpeek (encRing 0), .rstat (encRing 0)], Ready stB i (encRing 0) c8) ∧
    Ready stB (.rpop (encRing 1)) (encRing 1) c8 ∧ Ready stB (.rpush (encRing 2)) (encRing 2) c8 ∧
    ((stB.block 0).ring 0).v = true ∧ (((stB.block 0).ring 0).slots.get {} 0).st = 0 ∧ (((stB.block 0).ring 1).slots.get {} 0).st = 2 ∧
    (((stB.block 0).ring 2).slots.get {} 0).st = 1 ∧
    Ready stRing (.rdoneFill encFill) encFill c8 ∧ (stRing.ctxWave c8).sCode encFill.src1 = ⟨0, false⟩ ∧
    Ready stRing (.rdoneFree (encRing 2)) (encRing 2) c8 ∧ (stRing.ctxWave c8).sCode (encRing 2).src1 = ⟨1, false⟩ ∧
    (((stRing.block 0).ring 2).slots.get {} 1).st = 3 := by
  refine ⟨ready_of (by decide +kernel) (by decide), by decide +kernel, by decide, by decide, ?_, ready_of (by decide +kernel) (by decide),
    ready_of (by decide +kernel) (by decide), rfl, rfl, rfl, rfl, ready_of (by decide +kernel) (by decide), by decide +kernel,
    ready_of (by decide +kernel) (by decide), by decide +kernel, rfl⟩
  exact fun i h => (all_ready (s := stB) (e := encRing 0) (c := c8)
    (is := [.rpush (encRing 0), .rpop (encRing 0), .rpeek (encRing 0), .rstat (encRing 0)]) (by decide +kernel) (by decide) i h).1

/-- A layout record of one dimension of 16 bytes at 0x2000; the pairs in s0 and s10 hold 0x1000 and 0x2000, s2 = 64 bytes, s3 = 128, s12 = 0,
s13 = 1 and s14 = 16. -/
def memL : List Host.Cell :=
  [(0x1000, 0x77), (0x2001, 0x30), (0x2008, 0x11), (0x2010, 0x10), (0x2038, 0x0F), (0x10000, 1), (0x10002, 2), (0x20000, 0x3F), (0x20001, 0x40)]
def waveL : Wave :=
  { wave0 with s := [(0, ⟨0x1000, false⟩), (2, ⟨64, false⟩), (3, ⟨128, false⟩), (10, ⟨0x2000, false⟩), (13, ⟨1, false⟩), (14, ⟨16, false⟩)] }
def stL : State := onMem (on0 blockB waveL) memL
/-- CPY of 64 bytes from 0x1000 to offset 128; CPYR the same to barrier 0; CPYS of slot 1 of ring 2 to 0x1000; CPYT.LD of the record at 0x2000 with the
coordinates in s4 to s8 to offset 0. -/
def encCpy : Enc := { src0 := 195, src1 := 192, src2 := 194, mod := 9 }
def encCpyr : Enc := { len := .l96, src0 := 195, src1 := 192, src2 := 194, mod := 1 }
def encCpys : Enc := { len := .l96, src0 := 192, src1 := 205, src2 := 194, mod := 9, ext := 2 }
def encCpyt : Enc := { len := .l96, src0 := 202, src1 := 196, src2 := 204 }

theorem wit_CopyCommands :
    Ready stL (.cpy encCpy) encCpy c8 ∧ Ready stL (.cpyr encCpyr) encCpyr c12 ∧ Ready stL (.cpys encCpys) encCpys c12 ∧
    stL.copyEntry 0 (stL.ctxWave c8).roleNo = some (.queued none) ∧
    (∀ b : Bool, (stL.setBlock 0 { stL.block 0 with clean := b }).copyEntry 0 (stL.ctxWave c8).roleNo = some (.queued none)) ∧
    (stL.ctxWave c8).sPair encCpy.src1 = (0x1000, false) ∧ (stL.ctxWave c8).sCode encCpy.src0 = ⟨128, false⟩ ∧ 128 + 64 ≤ (stL.block 0).scratch ∧
    encCpy.mod.getLsbD 3 = true ∧ encCpy.mod.getLsbD 4 = false ∧ (stL.ctxWave c8).sCode encCpy.src2 = ⟨64, false⟩ ∧
    encCpyr.mod.getLsbD 2 = false ∧ encCpyr.mod.getLsbD 0 = true ∧ ((stL.block 0).bar (encCpyr.ext.toNat % 128)).v = true ∧
    (stL.ctxWave c12).sPair encCpys.src0 = (0x1000, false) ∧ (stL.ctxWave c12).sCode encCpys.src1 = ⟨1, false⟩ ∧
    ((stL.block 0).ring 2).handleOk 1 = true ∧ (((stL.block 0).ring 2).slots.get {} 1).st = 3 ∧ 64 ≤ 2 ^ ((stL.block 0).ring 2).lsz :=
  ⟨ready_of (by decide +kernel) (by decide), ready_of (by decide +kernel) (by decide), ready_of (by decide +kernel) (by decide),
    by decide +kernel, by decide +kernel, by decide +kernel, by decide +kernel, by decide, by decide, by decide, by decide +kernel, by decide,
    by decide, rfl, by decide +kernel, by decide +kernel, by decide +kernel, rfl, by decide⟩

theorem wit_CopyCommands_tensor :
    let bs := stL.bytesAt 0x2000 64
    let lay := layoutOf (natOfBytes bs) [0, 0, 0, 0, 0] false
    (∀ i ∈ [Instr.cpytLd encCpyt, .cpytSt encCpyt], Ready stL i encCpyt c12) ∧ encCpyt.mod.getLsbD 3 = false ∧ encCpyt.mod.getLsbD 4 = false ∧
    (stL.ctxWave c12).sPair encCpyt.src0 = (0x2000, false) ∧
    (∀ d, d < 5 → ∃ y : Word, (stL.ctxWave c12).sAt (encCpyt.src1.toNat - 192 + d) = ⟨y, false⟩ ∧ ([0, 0, 0, 0, 0] : List Int)[d]? = some y.toInt) ∧
    (stL.ctxWave c12).sCode encCpyt.src2 = ⟨0, false⟩ ∧ stL.readsAs c12 0x2000 64 bs ∧ lay.refused (natOfBytes bs) = none ∧ lay.swz = 0 ∧
    lay.boxBytes = 16 ∧ (layoutOf (natOfBytes bs) [0, 0, 0, 0, 0] true).refused (natOfBytes bs) = none := by
  refine ⟨?_, by decide, by decide, by decide +kernel, ?_, by decide +kernel, ?_, by decide +kernel, by decide +kernel, by decide +kernel,
    by decide +kernel⟩
  · exact fun i h => (all_ready (s := stL) (e := encCpyt) (c := c12) (is := [.cpytLd encCpyt, .cpytSt encCpyt]) (by decide +kernel) (by decide) i h).1
  · exact fun d hd => ⟨0, by revert d; decide, by revert d; decide⟩
  · exact readsAs_dec (h := 0x2000) (x := xl 0x2000) (by decide +kernel) (by decide +kernel) (by decide +kernel) rfl (by decide +kernel)

/-- Token 0 has sealed batch 0 outstanding, token 1 has none. -/
def stTok : State := onMem (on0 {} { wave0 with tokens := [(0, { nb := 1, out := 1 }), (2, { nb := 3, cb := 2 })] }) memA
def encTok (m : BitVec 8) : Enc := { src0 := m, dst := 3, src1 := 4 }
def encSeal (j : BitVec 8) : Enc := { src0 := j, dst := 200 }

theorem wit_TokenInstructions :
    (∀ j ∈ [(0 : BitVec 8), 2], Ready stTok (.seal (encSeal j)) (encSeal j) c8 ∧ ((stTok.ctxWave c8).tokens.get {} j.toNat).out < 255) ∧
    (stTok.ctxWave c8).waits = [] ∧ ((stTok.ctxWave c8).tokens.get {} 2).out = 0 ∧ ((stTok.ctxWave c8).tokens.get {} 2).errs = [] ∧
    (stTok.block 0).batchOpen 0 2 3 = false ∧
    (∀ i ∈ [Instr.waitk (encTok 1), .testk (encTok 1)], Ready stTok i (encTok 1) c8) ∧ Ready stTok (.waitk (encTok 6)) (encTok 6) c8 ∧
    ((stTok.ctxWave c8).tokens.get {} 0).out ≠ 0 ∧
    (∀ j, j < 8 → ((encTok 6).src0.toNat.testBit j = true → ((stTok.ctxWave c8).tokens.get {} j).out = 0) ∧
      ((stTok.ctxWave c8).tokens.get {} j).err = false) ∧
    Ready stTok (.cpyq (encSeal 0)) (encSeal 0) c8 := by
  refine ⟨?_, rfl, rfl, rfl, by decide +kernel, ?_, ready_of (by decide +kernel) (by decide), by decide, by decide, ready_of (by decide +kernel) (by decide)⟩
  · simp only [List.forall_mem_cons, List.not_mem_nil, false_implies, implies_true, and_true]
    exact ⟨⟨ready_of (by decide +kernel) (by decide), by decide⟩, ready_of (by decide +kernel) (by decide), by decide⟩
  · exact fun i h => (all_ready (s := stTok) (e := encTok 1) (c := c8) (is := [.waitk (encTok 1), .testk (encTok 1)]) (by decide +kernel) (by decide) i h).1

/-- An open command of batch 3 of token 2 keeps the batch open. -/
theorem wit_TokenInstructions_open : ({ copies := [(9, { rep := .token 0 2 3, len := 64 })] } : Block).batchOpen 0 2 3 = true := by decide +kernel

/-- A copy of 512 bytes inside the scratch, its first chunk to start, and then on its way alone. -/
def cmdC : CopyCmd := { src := .loc 0, dst := .loc 1024, len := 512, rep := .bar 0, stage := .queued none }
def stCmd (x : CopyCmd) (args : List Nat) : State :=
  { onMem (on0 { blockB with copies := [(9, x)] } waveL) memL with args := args }

theorem wit_CopySteps :
    (stCmd cmdC [0, 9]).args = [0, 9] ∧ ((stCmd cmdC [0, 9]).block 0).copies.get? 9 = some cmdC ∧ ((stCmd cmdC [0, 9]).block 0).core = some 0 ∧
    ((stCmd cmdC [0, 9]).block 0).saving = false ∧ cmdC.stage = .queued none ∧ cmdC.flight.length < 16 ∧ 0 < cmdC.chunks ∧ 0 ≤ cmdC.first + 16 ∧
    64 * min 256 (cmdC.len - 256 * 0) ≤ (((stCmd cmdC [0, 9]).core 0).cbkt.get {} 0).level ∧
    (∀ y ∈ [{ cmdC with flight := [0] }, { cmdC with flight := [1], counted := [0] }], ∀ i ∈ y.flight,
      ((stCmd y [0, 9, i]).block 0).copies.get? 9 = some y ∧ y.flight = [i] ∧ i < y.chunks ∧ i ∉ y.counted ∧ (stCmd y [0, 9, i]).memOk ∧
      (stCmd y [0, 9, i]).units = [] ∧ (stCmd y [0, 9, i]).dbmap.getLsbD 0 = false ∧ (stCmd y [0, 9, i]).faulty = []) := by
  refine ⟨rfl, by decide +kernel, rfl, rfl, rfl, by decide, by decide, by decide, by decide +kernel, ?_⟩
  intro y hy i hi
  simp only [List.mem_cons, List.not_mem_nil, or_false] at hy
  rcases hy with rfl | rfl <;> (simp only [List.mem_singleton] at hi; subst hi)
  · exact ⟨by decide +kernel, rfl, by decide, by decide, by unfold State.memOk; decide +kernel, rfl, by decide +kernel, rfl⟩
  · exact ⟨by decide +kernel, rfl, by decide, by decide, by unfold State.memOk; decide +kernel, rfl, by decide +kernel, rfl⟩

/-- Lane 0 waits for a slot of ring 0, and one is free. -/
def parkP : Park := { lanes := 1, why := .ringEnd 0 true, enc := encRing 0, acting := 1, nextPc := 8 }
def stServe : State :=
  { stB with
    args := [0, 0, 1]
    blocks := [(0, { blockB with
      core := some 0
      rings := [(0, { v := true, pushers := [.wave 0 0] })]
      waves := [(0, { wave0 with lanes := [(0, { cond := .blocked 0 })], batches := [], waits := [(0, parkP)], nextWait := 1 })] })] }

theorem wit_CopySteps_ring :
    ((stServe.block 0).ring 0).pushers = [.wave 0 0] ∧ ((stServe.block 0).ring 0).v = true ∧ (((stServe.block 0).ring 0).slots.get {} 0).st = 0 ∧
    (stServe.block 0).core.isSome = true ∧ (stServe.block 0).saving = false ∧ (stServe.wave 0 0).onHold = false ∧
    (stServe.wave 0 0).waits.get? 0 = some parkP ∧ parkP.why = .ringEnd 0 true ∧ parkP.lanes ≠ 0 ∧
    (∀ l, parkP.lanes.getLsbD l = true → ((stServe.wave 0 0).lane l).cond = .blocked 0) ∧ (stServe.wave 0 0).spec.sid = none ∧ (stServe.wave 0 0).acc = [] :=
  ⟨rfl, rfl, rfl, rfl, rfl, by decide +kernel, by decide +kernel, rfl, by decide, onLane0 (by decide +kernel), rfl, rfl⟩

/-! ### The matrix stream -/

/-- From 0x20000000 on: the local window, its first 128 KiB as I8, the next 64 KiB as ternary codes. -/
def memM : List Host.Cell :=
  [(0x10000, 1), (0x10002, 2), (0x20000, 0x3F), (0x20001, 0x40), (0x20008, 1), (0x2000A, 3),
    (0x30000, 0x3F), (0x30001, 1), (0x30005, 3), (0x30008, 0x3F), (0x30009, 1), (0x3000A, 1), (0x3000D, 3),
    (0x30010, 0x3F), (0x30011, 0x0F), (0x30012, 2), (0x30015, 3)]
/-- Slot 0 of rings 0, 1 and 2 is filled, or held by the stream m. -/
def blockM (m : Stream) (st : Nat) : Block :=
  { nbar := 2, nring := 3, scratch := 0x30000, stream := some m, core := some 0
    bars := [(1, { phase := true })]
    rings := [(0, { v := true, lsz := 12, slots := [(0, { st := st })] }), (1, { v := true, base := 0x10000, lsz := 13, slots := [(0, { st := st })] }),
      (2, { v := true, base := 0x20000, lsz := 12, slots := [(0, { st := st })] })] }
def strM : Stream := { mwb := 0x20000000 }
def strHeld : Stream := { mwb := 0x20000000, held := [(0, ⟨0, false, false, false⟩), (2, ⟨0, false, false, false⟩)] }
def stM (m : Stream) (st : Nat) : State := onMem { blocks := [(0, blockM m st)], cur := some (.stream 0) } memM

theorem wit_StreamControl :
    StreamReady (stM strM 2) 0 strM ∧ ({} : Enc).len ≠ .l128 ∧
    pc55 (strM.pc + (0 : BitVec 16).signExtend 64 <<< 2) &&& 0x1F ≠ 0x1C ∧
    (∀ b, b < 2 → b < (stM strM 2 |>.block 0).nbar ∧ ((stM strM 2 |>.block 0).bar b).v = true ∧ ((stM strM 2 |>.block 0).bar b).psn = false) ∧
    ((stM strM 2 |>.block 0).bar 0).phase = false ∧ ((stM strM 2 |>.block 0).bar 1).phase = true ∧
    (stM strM 2).checksQuiet ∧ (∀ p ∈ (stM strM 2 |>.block 0).bars, ∀ x ∈ p.2.pend, x.stream = false) ∧ strM.n.get 0 0 = 0 ∧ ({ strM with n := [(1, 5)] } : Stream).n.get 0 1 ≠ 0 ∧
    StreamReady (stM { strM with n := [(1, 5)] } 2) 0 { strM with n := [(1, 5)] } ∧ 28 + (({ mod := 3 } : Enc).mod.toNat % 32 + 1) ≤ 32 :=
  ⟨⟨rfl, rfl, rfl, rfl, rfl, rfl⟩, by decide, by decide, by decide +kernel, rfl, rfl, ⟨rfl, rfl⟩, by decide +kernel, rfl, by decide, ⟨rfl, rfl, rfl, rfl, rfl, rfl⟩,
    by decide⟩

/-- MMA of ring 0 with ring 1, both popped and freed; MMAT of the held slots of rings 0 and 2. -/
def encMma : Enc := { src0 := 0, src1 := 1, mod := 15, dst := 4 }
def encMmat : Enc := { src0 := 0, src1 := 2, dst := 4 }
/-- The translation of the stream's page at an offset, and what a panel there reads as. -/
def xlOff (off f : Nat) : Xlat :=
  { place := .localScr off, gpa := localBase + off, r := true, w := true, x := true, sc := false, stk := false, fmt := f, blk := 0, sgrp := 0, dirty := true }
def panelAt (off f : Nat) : PanelRead := ⟨off, { fmt := f }, []⟩

/-- Two panels are read one after the other. -/
theorem two_panels {s : State} {m : Stream} {o f n r : Nat} (hc : Coherent s 0 [0x20000000, 0x20000000 + o]) (hq : s.xreq 0 = ⟨0, some 0, 0⟩) (hm : m.mwb = 0x20000000)
    (hp : pagePieces (0x20000000 + o) n = [(0x20000000 + o, n)])
    (h1 : s.xlatB ⟨0, some 0, 0⟩ 0x20000000 .read (xlOff 0 1) = true) (h2 : s.xlatB ⟨0, some 0, 0⟩ (0x20000000 + o) .read (xlOff o f) = true) :
    ∃ u v, s.readPanels 0 m [0] 2048 32 = (.ok [panelAt 0 1], u) ∧ s.walked u ∧ u.readPanels 0 m [o] n r = (.ok [panelAt o f], v) ∧ u.walked v := by
  have e : m.mwb.toNat = 0x20000000 := by rw [hm]; rfl
  obtain ⟨u, g1, g2, g3⟩ := readPanels_coherent (m := m) (off := 0) (n := 2048) (rows := 32) hc hq (by rw [e]; simp) (by rw [e]; decide) (by rw [e]; exact h1) rfl rfl rfl
  obtain ⟨v, k1, k2, _⟩ := readPanels_coherent (m := m) (off := o) (n := n) (rows := r) (core := 0) g3 ((xreq_walked g2 0).trans hq) (by rw [e]; simp) (by rw [e]; exact hp)
    (by rw [e]; exact (xlatB_walked g2 _ _ _ _).trans h2) rfl rfl rfl
  exact ⟨u, v, g1, g2, k1, k2⟩

theorem wit_MatrixSteps :
    let s := stM strM 2
    StreamReady s 0 strM ∧ (encMma.src0 : BitVec 8).toNat ≠ encMma.src1.toNat ∧
    (∀ q, q < 2 → q < (s.block 0).nring ∧ ((s.block 0).ring q).be = false ∧ ((s.block 0).ring q).v = true ∧ strM.held.get? q = none ∧
      0 = ((s.block 0).ring q).head ∧ (((s.block 0).ring q).slots.get {} 0).st = 2 ∧ (((s.block 0).ring q).slots.get {} 0).err = false ∧
      ((s.block 0).ring q).poppers = []) ∧
    s.checksQuiet ∧ 2048 ≤ 2 ^ ((s.block 0).ring 0).lsz ∧ 4096 ≤ 2 ^ ((s.block 0).ring 1).lsz ∧
    (∃ u v, s.readPanels 0 strM [0] 2048 32 = (.ok [panelAt 0 1], u) ∧ s.walked u ∧ u.readPanels 0 strM [0x10000] 4096 64 = (.ok [panelAt 0x10000 1], v) ∧
      u.walked v) ∧
    (∀ p ∈ [panelAt 0 1].zip [panelAt 0x10000 1], pairOk false p.1.attr.fmt p.2.attr.fmt = true ∧ (∀ i, i < 32 → s.rowPoison 0 p.1 64 i = false) ∧
      ∀ j, j < 64 → s.rowPoison 0 p.2 64 j = false) ∧
    (s.block 0).tilePoisoned strM 4 = false ∧ ((s.block 0).tile 4).length = 2048 :=
  ⟨⟨rfl, rfl, rfl, rfl, rfl, rfl⟩, by decide, by decide +kernel, ⟨rfl, rfl⟩, by decide, by decide,
    two_panels (coherent_of (by decide +kernel)) rfl rfl (by decide) (by decide +kernel) (by decide +kernel), by decide +kernel, by decide +kernel, List.length_replicate⟩

theorem wit_MatrixSteps_ternary :
    let s := stM strHeld 3
    StreamReady s 0 strHeld ∧ (encMmat.src0 : BitVec 8).toNat ≠ encMmat.src1.toNat ∧
    (∀ q ∈ [0, 2], q < (s.block 0).nring ∧ ((s.block 0).ring q).be = false ∧ strHeld.held.get? q = some ⟨0, ((s.block 0).ring q).hlap, false, false⟩) ∧
    s.checksQuiet ∧
    (∃ u v, s.readPanels 0 strHeld [0] 2048 32 = (.ok [panelAt 0 1], u) ∧ s.walked u ∧
      u.readPanels 0 strHeld [0x20000] 2048 128 = (.ok [panelAt 0x20000 15], v) ∧ u.walked v) ∧
    (∀ p ∈ [panelAt 0 1].zip [panelAt 0x20000 15], pairOk true p.1.attr.fmt p.2.attr.fmt = true ∧ (∀ i, i < 32 → s.rowPoison 0 p.1 64 i = false) ∧
      ∀ j, j < 128 → s.rowPoison 0 p.2 16 j = false) ∧
    (∀ y ∈ [4, 5], (s.block 0).tilePoisoned strHeld y = false ∧ ((s.block 0).tile y).length = 2048) :=
  ⟨⟨rfl, rfl, rfl, rfl, rfl, rfl⟩, by decide, by decide +kernel, ⟨rfl, rfl⟩,
    two_panels (coherent_of (by decide +kernel)) rfl rfl (by decide) (by decide +kernel) (by decide +kernel),
    by decide +kernel, fun y hy => ⟨by revert y; decide +kernel, by
      simp only [List.mem_cons, List.not_mem_nil, or_false] at hy
      rcases hy with rfl | rfl <;> exact List.length_replicate⟩⟩

/-- The tiles of ring 0: its slot 0 held for reading, or for writing. -/
def strOut : Stream := { mwb := 0x20000000, held := [(0, ⟨0, false, true, false⟩)] }

theorem wit_TileTransfers_load :
    let s := stM strHeld 3
    StreamReady s 0 strHeld ∧ s.checksQuiet ∧ strHeld.held.get? 0 = some ⟨0, ((s.block 0).ring 0).hlap, false, false⟩ ∧
    (∃ u v, s.panelXlat 0 strHeld 0 1 .read = (.ok { fmt := 1 }, u) ∧ s.walked u ∧ u.panelXlat 0 strHeld 0 2048 .read = (.ok { fmt := 1 }, v) ∧ u.walked v) ∧
    2048 ≤ 2 ^ ((s.block 0).ring 0).lsz ∧ s.poisonAt (s.localHost 0 0) 2048 = false := by
  have hc : Coherent (stM strHeld 3) 0 [0x20000000] := coherent_of (by decide +kernel)
  have hx : (stM strHeld 3).xlatB ⟨0, some 0, 0⟩ 0x20000000 .read (xlOff 0 1) = true := by decide +kernel
  obtain ⟨u, h1, h2, h3⟩ := panelXlat_coherent (blk := 0) (m := strHeld) (off := 0) (n := 1) (core := 0) hc rfl (by decide) (by decide) hx rfl rfl
  obtain ⟨v, k1, k2, _⟩ := panelXlat_coherent (blk := 0) (m := strHeld) (off := 0) (n := 2048) (core := 0) h3 ((xreq_walked h2 0).trans rfl) (by decide) (by decide)
    ((xlatB_walked h2 _ _ _ _).trans hx) rfl rfl
  exact ⟨⟨rfl, rfl, rfl, rfl, rfl, rfl⟩, ⟨rfl, rfl⟩, rfl, ⟨u, v, h1, h2, k1, k2⟩, by decide, by decide +kernel⟩

/-- MSTX of tile 4 as I8 into the slot held for writing. -/
def encMstx : Enc := { len := .l96, fn := 1, dst := 0, src0 := 4, mod := 16 }

theorem wit_TileTransfers_store :
    let s := stM strOut 1
    let u := (s.panelXlat 0 strOut 0 2048 .write).2
    StreamReady s 0 strOut ∧ ((s.block 0).ring 0).be = false ∧ strOut.held.get? 0 = some ⟨0, ((s.block 0).ring 0).tlap, true, false⟩ ∧
    256 * elemBits 1 = 2048 ∧ 2048 ≤ 2 ^ ((s.block 0).ring 0).lsz ∧ encMstx.mod.toNat % 8 < 5 ∧
    s.panelXlat 0 strOut 0 2048 .write = (.ok { fmt := 1 }, u) ∧ s.walked u ∧ (s.block 0).tilePoisoned strOut 4 = false ∧
    ((s.block 0).tile 4).length = 2048 ∧ s.memOk ∧ s.units = [] ∧ s.dbmap.getLsbD 0 = false ∧ s.faulty = [] :=
  ⟨⟨rfl, rfl, rfl, rfl, rfl, rfl⟩, rfl, rfl, by decide, by decide, by decide, Prod.ext (ok_of (by decide +kernel)) rfl, walked_of (by decide +kernel),
    by decide +kernel, List.length_replicate, by unfold State.memOk; decide +kernel, rfl, by decide +kernel, rfl⟩

/-- A handler of the block's matrix stream: s0 names row 2, half 1. -/
def stMx : State :=
  { blocks := [(0, { core := some 0, stream := some strM, waves := [(0, { wave0 with emdepth := 1, frames := [{}], v := [(32, ⟨7, false⟩)], s := [(0, ⟨34, false⟩)] })] })]
    cur := some (.wave 0 0 0) }
def encMx : Enc := { dst := 4, src0 := 1, src1 := 192 }

theorem wit_TileTransfers_handler :
    stMx.mxAllowed 0 0 = true ∧ stMx.checksQuiet ∧ (stMx.ctxWave c8).sCode encMx.src1 = ⟨34, false⟩ ∧
    (∀ i ∈ [Instr.mxrd encMx, .mxrdS encMx, .mxwr encMx, .mxwrS encMx], Ready stMx i encMx c8 ∧ CanRead stMx i c8 encMx) ∧
    (∀ l, c8.acting.getLsbD l = true → (stMx.ctxWave c8).dstOk l encMx 1 = true ∧ (stMx.ctxWave c8).src0 l encMx = .ok ⟨7, false⟩) ∧
    (stMx.ctxWave c8).src0 c8.leader encMx = .ok ⟨7, false⟩ ∧ ((stMx.block 0).tile encMx.dst.toNat).length = 2048 ∧ (stMx.block 0).stream = some strM :=
  ⟨by decide +kernel, ⟨rfl, rfl⟩, by decide +kernel, all_ready (by decide +kernel) (by decide), onLane0 ⟨by decide +kernel, ok_of (by decide +kernel)⟩,
    ok_of (by decide +kernel), List.length_replicate, rfl⟩

/-! ### The stack engine -/

/-- A descriptor record at 0x1000: four rows of 64 I8 codes at 0x40000, 256 bytes apart. -/
def memD : List Host.Cell :=
  [(0x1002, 4), (0x1008, 4), (0x100C, 1), (0x100E, 1), (0x1010, 1), (0x10000, 1), (0x10002, 2), (0x20000, 0x3F), (0x20001, 0x40)]
def descD : Desc := { wbase := 0x40000, rows := 4, kg := 1, pitch := 1, fmt := 1 }
/-- s0 = 0 and s1 = 256 are offsets, the pair in s2 holds 0x1000, s4 names tag 1 of command 7 and s5 no command. -/
def waveD : Wave :=
  { wave0 with s := [(1, ⟨256, false⟩), (2, ⟨0x1000, false⟩), (4, ⟨1, false⟩), (5, ⟨2, false⟩)], descs := [(0, descD)] }
def cmdD : StackCmd := { wave := 0, slot := 1, desc := descD, n := 1, nv := 1, roff := 256, bar := 1, vecs := List.replicate 64 1 }
def blockD (x : StackCmd) : Block := { nbar := 2, scratch := 4096, stackCmds := [(7, x)] }
def stD : State := onMem (on0 (blockD cmdD) waveD) memD
def encCfg : Enc := { len := .l96, src0 := 194, dst := 2 }
def encSmv : Enc := { len := .l96, src0 := 192, src1 := 193, src2 := 195, dst := 200, ext := 0x100 }
def encTag (r : BitVec 8) : Enc := { src0 := r, dst := 200 }

theorem wit_StackCommands :
    let bs := stD.bytesAt 0x1000 32
    Ready stD (.smvcfg encCfg) encCfg c12 ∧ (stD.ctxWave c12).acc = [] ∧ (stD.ctxWave c12).sPair encCfg.src0 = (0x1000, false) ∧
    (encCfg.imm16.signExtend 64).toNat % 32 = 0 ∧ stD.mapsTo c12 0x1000 .read (xl 0x1000) ∧
    (∀ q, 0x1000 / 4 ≤ q → 4 * q < 0x1000 + 32 → (stD.core (stD.coreOf c12.blk)).l1.get? q = none) ∧
    (∀ p ∈ stD.blocks, ∀ v ∈ p.2.waves, ∀ z ∈ v.2.acc, z.core = stD.coreOf c12.blk → z.isWrite = false) ∧
    stD.poisonAt 0x1000 32 = false ∧ stD.faulty = [] ∧ natOfBytes bs = 0x40000 + 4 * 2 ^ 64 + 2 ^ 96 + 2 ^ 112 + 2 ^ 128 ∧
    (∀ i ∈ [Instr.smv encSmv, .smvb encSmv], Ready stD i encSmv c12) ∧ (stD.ctxWave c12).sCode encSmv.src0 = ⟨0, false⟩ ∧
    (stD.ctxWave c12).sCode encSmv.src1 = ⟨256, false⟩ ∧ (stD.ctxWave c12).sCode encSmv.src2 = ⟨0, false⟩ ∧
    (stD.ctxWave c12).descs.get? 0 = some descD ∧ encSmv.imm16.toNat = 2 ∧ stD.stacksOn (stD.coreOf 0) < 64 ∧
    (stD.block 0).tagBusy 0 0 = false ∧ ((stD.block 0).bar 0).v = true ∧
    (∀ i ∈ [Instr.smvq (encTag 196), .smvcan (encTag 196)], Ready stD i (encTag 196) c8) ∧
    Ready stD (.smvcan (encTag 197)) (encTag 197) c8 ∧
    (stD.block 0).tagged 0 (stD.wave 0 0) 1 = some (7, cmdD) ∧ (stD.block 0).tagged 0 (stD.wave 0 0) 2 = none ∧ cmdD.units = [] ∧ cmdD.results = [] :=
  ⟨ready_of (by decide +kernel) (by decide), rfl, by decide +kernel, by decide, mapsTo_dec (by decide +kernel) (by decide +kernel),
    fun _ _ _ => rfl, by decide +kernel, by decide +kernel, rfl, by decide +kernel,
    fun i h => (all_ready (s := stD) (e := encSmv) (c := c12) (is := [.smv encSmv, .smvb encSmv]) (by decide +kernel) (by decide) i h).1,
    by decide +kernel, by decide +kernel, by decide +kernel, by decide +kernel, by decide, by decide +kernel, by decide +kernel, rfl,
    fun i h => (all_ready (s := stD) (e := encTag 196) (c := c8) (is := [.smvq (encTag 196), .smvcan (encTag 196)]) (by decide +kernel) (by decide) i h).1,
    ready_of (by decide +kernel) (by decide), by decide +kernel, by decide +kernel, rfl, rfl⟩

/-- Every page is stack-resident, and holds I8 codes in the first stage; the command heads the line of stack 4. -/
def memStk : List Host.Cell := [(0x10000, 1), (0x10002, 2), (0x20000, 0xBF), (0x20001, 0x41), (0x40000, 3), (0x4003F, 0xFF),
  (0x50000, 1), (0x50002, 6), (0x60000, 0xBF), (0x60001, 0x40)]
def xlStk : Xlat := { xl 0x40000 with stk := true, fmt := 1 }
def stLine : State :=
  { onMem (on0 (blockD cmdD) waveD) memStk with args := [0, 7, 4], fns := [(0, { s1root := 0x10001, s2root := 0x50001 })] }
def stRun : State := { stLine with stackQ := [(4, [(0, 7)])] }

theorem wit_StackCommands_line :
    stLine.args = [0, 7, 4] ∧ (stLine.block 0).stackCmds.get? 7 = some cmdD ∧ (stLine.block 0).core.isSome = true ∧
    (stLine.block 0).unjudged cmdD 7 = false ∧ (0, 7) ∉ stLine.stackLine 4 ∧ (stLine.stackLine 4).length < 64 := by decide +kernel

/-- The stack serves the command. -/
def stServed : State :=
  let u : State := { stRun with stackQ := stRun.stackQ.set 4 ((stRun.stackLine 4).drop 1) }
  u.setBlock 0 { stRun.block 0 with stackCmds := (stRun.block 0).stackCmds.set 7 { cmdD with running := true } }

theorem wit_StackCommands_run :
    ∃ at_ : Nat → State → Prop, stRun.args = [0, 7, 4] ∧ (stRun.block 0).stackCmds.get? 7 = some cmdD ∧ (stRun.block 0).core.isSome = true ∧
      (stRun.block 0).unjudged cmdD 7 = false ∧ (stRun.stackLine 4).head? = some (0, 7) ∧
      cmdD.results = [] ∧ (∀ p ∈ cmdD.start, p.poison = false) ∧ stRun.faulty = [] ∧ at_ 0 stServed ∧
      (∀ j u, j < cmdD.n → at_ j u → ∃ u', u.rowXlat 0 descD (cmdD.r0 + j) = .ok u' 4 0x40000 xlStk ∧ u.walked u' ∧
        ∃ u'', u'.rowScales 0 descD (cmdD.r0 + j) 4 xlStk = (.ok [], u'') ∧ u'.walked u'' ∧
          (∀ cmds, at_ (j + 1) (u''.setBlock 0 { u''.block 0 with stackCmds := cmds })) ∧ stRun.poisonAt 0x40000 descD.rowBytes = false) := by
  refine ⟨fun j u => j = 0 → u = stServed, rfl, by decide +kernel, rfl, by decide +kernel, by decide +kernel, rfl, by decide, rfl, fun _ => rfl, ?_⟩
  intro j u hj hu
  obtain rfl : j = 0 := by have : cmdD.n = 1 := rfl; omega
  obtain ⟨v, hv, hw, _⟩ := rowXlat_dec (s := stServed) (blk := 0) (d := descD) (r := 0) (h := 0x40000) (x := xlStk) (vas := [0x40000])
    (coherent_of (by decide +kernel)) (by decide) (by decide) (by decide +kernel) rfl rfl rfl
  rw [hu rfl]
  exact ⟨v, hv, hw, v, rfl, walked_refl v, fun _ h => absurd h (by decide), by decide +kernel⟩

/-- The single result is computed. -/
def stUnit : State := { onMem (on0 (blockD { cmdD with results := [(0, ⟨5, false⟩)] }) waveD) memStk with args := [0, 7, 0] }

theorem wit_StackCommands_unit :
    stUnit.args = [0, 7, 0] ∧ (stUnit.block 0).stackCmds.get? 7 = some { cmdD with results := [(0, ⟨5, false⟩)] } ∧
    (stUnit.block 0).unjudged { cmdD with results := [(0, ⟨5, false⟩)] } 7 = false ∧ cmdD.units.length = 0 ∧
    0 < (4 * cmdD.n * cmdD.nv + 255) / 256 ∧
    (∀ j, j < min 256 (4 * cmdD.n * cmdD.nv - 256 * 0) / 4 → ∃ y : PWord, (Tab.get? [(0, (⟨5, false⟩ : PWord))] (64 * 0 + j)) = some y) ∧
    stUnit.memOk ∧ stUnit.units = [] ∧ stUnit.dbmap.getLsbD 0 = false ∧ stUnit.faulty = [] :=
  ⟨rfl, by decide +kernel, by decide +kernel, rfl, by decide, fun j hj => ⟨⟨5, false⟩, by
    have : j = 0 := by have h1 : cmdD.n = 1 := rfl; have h2 : cmdD.nv = 1 := rfl; rw [h1, h2] at hj; omega
    subst this; rfl⟩, by unfold State.memOk; decide +kernel, rfl, by decide +kernel, rfl⟩

/-! ### Tasks -/

/-- The group in s0: one window unit of eight registers, no affinity, the entry 0x100 and the argument 7; the pairs in s8 and s10 hold 0x1000 and 0x31000, in s12
and s14 0x1010 and 0x31010; s16 = 9; the pair in s18 is a timestamp. -/
def waveF72 : Wave :=
  { wave0 with s := [(0, ⟨1, false⟩), (1, ⟨1, false⟩), (2, ⟨0x100, false⟩), (4, ⟨7, false⟩), (8, ⟨0x1000, false⟩), (10, ⟨0x31000, false⟩),
      (12, ⟨0x1010, false⟩), (14, ⟨0x31010, false⟩), (16, ⟨9, false⟩), (18, ⟨5, false⟩)] }
/-- The records at 0x1000 and 0x31000 are unresolved, those at 0x1010 and 0x31010 resolved. -/
def memF72 : List Host.Cell :=
  [(0x1010, 1), (0x1018, 42), (0x10000, 1), (0x10002, 2), (0x20000, 0x3F), (0x20001, 0x40), (0x31010, 1), (0x31018, 43)]
def stF72 : State := onMem (on0 {} waveF72) memF72
/-- As stF72 with speculation on the core, and domain 0 open. -/
def stOrd : State := { stF72 with spart := [(0, 0x100)], fns := [(0, { s1root := 0x10001, s2root := 0x10001, domains := [(0, { open_ := true })] })] }
def encSpawn : Enc := { len := .l96, src0 := 192, src1 := 210, dst := 220, ext := 0x100 }
def encTaff : Enc := { src0 := 200, dst := 220 }
def taskF (s : State) : Task := { id := s.serial, fn := 0, foot := 1, entry := 8, arg := 7, serial := 0, depth := 1, core := 0, queuedAt := s.clock }

theorem wit_SpawnInstructions :
    (∀ s ∈ [stF72, stOrd], (s.ctxWave c12).acc = [] ∧ (s.ctxWave c12).sCode encSpawn.src0 = ⟨1, false⟩ ∧ (s.ctxWave c12).sCode (encSpawn.src0 + 1) = ⟨1, false⟩ ∧
      (s.ctxWave c12).sPair (encSpawn.src0 + 4) = (7, false) ∧ 256 * ((1 : Word).toNat / 1024) ≤ s.minShare 0 ∧
      (8 : DWord) = c12.pc + encSpawn.imm16.signExtend 64 * 4 ∧ (s.block 0).task = none ∧ s.logCore 0 0 = some 0 ∧
      (0 : Word) = BitVec.ofNat 32 ((s.core 0).spawnCount.get 0 0 % 2 ^ 24 * 256 + 0) ∧ 0 = s.contTarget (taskF s) 0 ∧ 0 ∈ s.coresOf 0 ∧ s.queueUsed 0 < 512) ∧
    Ready stF72 (.tspawn encSpawn) encSpawn c12 ∧ Ready stOrd (.tspawnOrd encSpawn) encSpawn c12 ∧
    (stOrd.ctxWave c12).sPair encSpawn.src1 = (5, false) ∧ stOrd.specOn 0 = true ∧ ((stOrd.fn 0).domains.get {} 0).open_ = true ∧
    ((stOrd.fn 0).domains.get {} 0).floor = none ∧
    Ready stF72 (.texit {}) {} c8 ∧ Ready stF72 (.taff encTaff) encTaff c8 ∧ (stF72.ctxWave c8).sPair encTaff.src0 = (0x1000, false) ∧
    stF72.mapsTo c8 0x1000 .any (xl 0x1000) := by
  refine ⟨?_, ready_of (by decide +kernel) (by decide), ready_of (by decide +kernel) (by decide), by decide +kernel, by decide +kernel, by decide +kernel,
    by decide +kernel, ready_of (by decide +kernel) (by decide), ready_of (by decide +kernel) (by decide), by decide +kernel, mapsTo_dec (by decide +kernel) (by decide +kernel)⟩
  intro s h
  simp only [List.mem_cons, List.not_mem_nil, or_false] at h
  rcases h with rfl | rfl
  · exact ⟨rfl, by decide +kernel, by decide +kernel, by decide +kernel, by decide +kernel, by decide, by decide +kernel, by decide +kernel, by decide +kernel,
      by decide +kernel, by decide +kernel, by decide +kernel⟩
  · exact ⟨rfl, by decide +kernel, by decide +kernel, by decide +kernel, by decide +kernel, by decide, by decide +kernel, by decide +kernel, by decide +kernel,
      by decide +kernel, by decide +kernel, by decide +kernel⟩

/-- The home cores of the records, and the records as a continuation names them. -/
def homeF (a : Nat) : Nat := (stF72.homeCore 0 a (.hbm a) 0).getD 0
def refF (a : Nat) : FutRef := ⟨a, a, homeF a⟩
theorem futF (a : Nat) (h : a ∈ [0x1000, 0x1010]) : ∀ acc ∈ [Acc.read, .write, .readWrite], stF72.futureAt c8 (BitVec.ofNat 64 a) acc (refF a) := by
  intro acc hc
  have hx : ∀ a ∈ [0x1000, 0x1010], ∀ acc ∈ [Acc.read, .write, .readWrite],
      stF72.hbmXlat 0 0 (BitVec.ofNat 64 a).toNat acc = some (xl a) := by decide +kernel
  have h16 : ∀ a ∈ [0x1000, 0x1010], (BitVec.ofNat 64 a).toNat % 16 = 0 := by decide
  have hb : ∀ a ∈ [0x1000, 0x1010], stF72.coherentB 0 [(BitVec.ofNat 64 a).toNat] = true := by decide +kernel
  exact futureAt_dec (x := xl a) (h16 a h) (hb a h) (hx a h acc hc) rfl rfl

def encFut (r : BitVec 8) : Enc := { src0 := r, src1 := 208, dst := 3 }
def encAwait (r : BitVec 8) : Enc := { src0 := 192, src1 := r, src2 := r + 2, dst := 220 }
/-- One continuation is parked on the record at 0x1000 alone. -/
def contF : Cont := { task := { id := 5, foot := 1, entry := 8 }, count := 1, futures := [refF 0x1000], waits := [⟨0x1000, homeF 0x1000, false⟩] }

theorem wit_FutureInstructions :
    stF72.plainMemory ∧ (∀ r ∈ [(200 : BitVec 8), 204], ∀ i ∈ [Instr.fnew (encFut r), .fresolve (encFut r), .fpoison (encFut r), .fget (encFut r)],
      Ready stF72 i (encFut r) c8) ∧ Ready stF72 (.fresolve { encFut 204 with fn := 1 }) { encFut 204 with fn := 1 } c8 ∧
    (stF72.ctxWave c8).sPair 200 = (0x1000, false) ∧ (stF72.ctxWave c8).sPair 204 = (0x1010, false) ∧ (stF72.ctxWave c8).sPair 208 = (9, false) ∧
    (stF72.ctxWave c8).sCode 208 = ⟨9, false⟩ ∧
    (∀ a ∈ [0x1000, 0x1010], ∀ acc ∈ [Acc.read, .write, .readWrite], stF72.futureAt c8 (BitVec.ofNat 64 a) acc (refF a)) ∧
    (∀ a ∈ [0x1000, 0x1010, 0x31000, 0x31010], stF72.poisonAt a 8 = false ∧ (stF72.dwordAt a).toNat % 4 ≠ 3 ∧ stF72.dwordAt a &&& 0xFFFFFFFFFFFF00FC = 0) ∧
    (stF72.dwordAt 0x1000).toNat % 4 = 0 ∧ (stF72.dwordAt 0x1010).toNat % 4 = 1 ∧ stF72.conts = [] ∧ (∀ a, stF72.parkedOn 0 a = false) ∧
    homeF 0x1000 ∈ ({ stF72 with conts := [contF] } : State).coresOf 0 ∧ ({ stF72 with conts := [contF] } : State).queueUsed (homeF 0x1000) < 512 ∧
    Ready { stF72 with conts := [contF] } (.fresolve (encFut 200)) (encFut 200) c8 := by
  refine ⟨⟨by unfold State.memOk; decide +kernel, rfl, by decide +kernel, rfl⟩, ?_, ready_of (by decide +kernel) (by decide), by decide +kernel, by decide +kernel,
    by decide +kernel, by decide +kernel, fun a h acc hc => futF a h acc hc, by decide +kernel, by decide +kernel, by decide +kernel, rfl, fun _ => rfl, by decide +kernel,
    by decide +kernel, ready_of (by decide +kernel) (by decide)⟩
  intro r hr
  have : [(200 : BitVec 8), 204].all (fun r => [Instr.fnew (encFut r), .fresolve (encFut r), .fpoison (encFut r), .fget (encFut r)].all
    (fun i => standsB stF72 i (encFut r) c8)) = true := by decide +kernel
  intro i hi
  exact ready_of (List.all_eq_true.1 (List.all_eq_true.1 this r hr) i hi) (by decide)

theorem wit_FutureInstructions_park :
    (∀ r ∈ [(200 : BitVec 8), 204], Ready stF72 (.fawait (encAwait r)) (encAwait r) c8 ∧ Ready stF72 (.fjoin2 (encAwait r)) (encAwait r) c8) ∧
    (stF72.ctxWave c8).sPair 194 = (0x100, false) ∧ (stF72.ctxWave c8).sPair 196 = (7, false) ∧ (stF72.ctxWave c8).sPair 202 = (0x31000, false) ∧
    (stF72.ctxWave c8).sPair 206 = (0x31010, false) ∧ (0x100 : Nat) % 32 ≠ 28 ∧
    stF72.futuresAt c8 0x1000 0x31000 (refF 0x1000) (refF 0x31000) ∧ stF72.futuresAt c8 0x1010 0x31010 (refF 0x1010) (refF 0x31010) ∧
    (∀ a ∈ [0x1010, 0x31010], stF72.contTarget (taskF stF72) (homeF a) ∈ stF72.coresOf 0 ∧ stF72.queueUsed (stF72.contTarget (taskF stF72) (homeF a)) < 512) := by
  refine ⟨?_, by decide +kernel, by decide +kernel, by decide +kernel, by decide +kernel, by decide,
    futuresAt_dec (x := xl 0x1000) (y := xl 0x31000) (by decide) (by decide) (by decide +kernel) (by decide +kernel) rfl rfl (by decide +kernel) rfl rfl,
    futuresAt_dec (x := xl 0x1010) (y := xl 0x31010) (by decide) (by decide) (by decide +kernel) (by decide +kernel) rfl rfl (by decide +kernel) rfl rfl,
    by decide +kernel⟩
  intro r hr
  have : [(200 : BitVec 8), 204].all (fun r => standsB stF72 (.fawait (encAwait r)) (encAwait r) c8 && standsB stF72 (.fjoin2 (encAwait r)) (encAwait r) c8) = true := by
    decide +kernel
  have h := List.all_eq_true.1 this r hr
  simp only [Bool.and_eq_true] at h
  exact ⟨ready_of h.1 (by decide), ready_of h.2 (by decide)⟩

/-- Tasks queued on core 0, and on core 1 stealable; a continuation that waits for room at core 0. -/
def taskQ (core : Nat) (stealable : Bool) : Task := { id := 5, foot := 33, entry := 8, core := core, stealable := stealable }
def stQ (t : Task) : State := { onMem State.reset [] with fns := [(0, { tctl := 1 })], tasks := [t], args := [0], serial := 9 }
def contQ : Cont := { task := { id := 5, foot := 1 }, count := 0, futures := [], waits := [], stuck := some 0 }

theorem wit_TaskSteps :
    (∀ t ∈ [taskQ 0 false, taskQ 1 true], (stQ t).args = [0] ∧ t.ord = none ∧ (stQ t).taskRoom 0 t = some 0 ∧ (stQ t).taskTurn 0 = true) ∧
    (∀ y ∈ (stQ (taskQ 0 false)).tasks, y.overflow = false) ∧ (∀ z ∈ (stQ (taskQ 0 false)).conts, ∀ p ∈ z.waits, p.overflow = false) ∧ (stQ (taskQ 0 false)).ownTask 0 = some (taskQ 0 false, []) ∧
    (stQ (taskQ 1 true)).stolenTask ((stQ (taskQ 1 true)).clusterOwner 0) 0 = some (taskQ 1 true) ∧
    0 ∈ State.reset.coresOf 0 ∧ ({ stQ (taskQ 0 false) with conts := [contQ], args := [5] } : State).queueUsed 0 < 512 ∧
    contQ.stuck = some 0 ∧ contQ.task.aff = none ∧ contQ.task.ord = none :=
  ⟨by decide +kernel, by decide +kernel, (by intro z h; cases h), by decide +kernel, by decide +kernel, by decide +kernel, by decide +kernel, rfl, rfl, rfl⟩

/-! ### Speculation -/

/-- A wave with the speculation state x, on a core whose speculation is on or off. -/
def waveSp (x : SpecWave) : Wave := { wave0 with spec := x }
def domS (o : Bool) : Fn := { s1root := 0x10001, s2root := 0x10001, domains := [(0, { open_ := o })] }
def stSp (on_ o : Bool) (x : SpecWave) : State :=
  { onMem (on0 {} (waveSp x)) memA with spart := if on_ then [(0, 0x100)] else [], fns := [(0, domS o)] }
def encSp : Enc := { dst := 3 }
def taskO (id ts : Nat) : Task := { id := id, ord := some ⟨0, BitVec.ofNat 64 ts⟩ }
/-- The unit 7 of the wave, a region's, with a version of four bytes; waits are its predecessors. -/
def unitR : SpecUnit := { blk := 0, wave := 0, retryPc := 0x40, retryQ := 3, fibres := 1, reads := [{ gran := 0x1000 }] }
def stUnitR (x : SpecWave) (u : SpecUnit) : State :=
  { stSp true true x with units := [(7, u)], versions := [{ sid := 7, gran := 0x1000, bytes := [(0, 9)] }] }

theorem alone_of {s : State} {sid : Nat} {u : SpecUnit} (h : (decide (s.units = [(sid, u)]) && decide (u.deps = [] ∧ u.held = [] ∧ u.deferred = none) &&
    s.versions.all (fun v => v.sid != sid || (v.gran % 32 == 0 && s.versions.all (fun x => x.sid != sid || x.gran != v.gran || x == v))) &&
    Memory.wf s.mem && !s.dbmap.getLsbD 0) = true) : Alone s sid u := by
  simp only [Bool.and_eq_true, decide_eq_true_eq, List.all_eq_true, Bool.or_eq_true, bne_iff_ne, beq_iff_eq, Bool.not_eq_true'] at h
  obtain ⟨⟨⟨⟨h1, h2⟩, h3⟩, h4⟩, h5⟩ := h
  refine ⟨h1, h2, fun v hv hs => ?_, h4, h5⟩
  rcases h3 v hv with hn | ⟨hg, hx⟩
  · exact absurd hs hn
  · refine ⟨hg, fun x hm hxs hxg => ?_⟩
    rcases hx x hm with (hn | hn) | he
    · exact absurd hxs hn
    · exact absurd hxg hn
    · exact he

theorem wit_RegionInstructions :
    let s0 := stSp true false {}
    let s1 := stSp true true {}
    Ready s0 (.odom encSp) encSp c8 ∧ (∃ k ∈ s0.coresOf 0, (s0.spart.get 0 k).getLsbD 8 = true) ∧ ((s0.fn 0).domains.get {} 0).open_ = false ∧
    Ready s0 (.cdom encSp) encSp c8 ∧ Ready s1 (.cdom encSp) encSp c8 ∧ s1.unfinished 0 0 = [] ∧ ((s1.fn 0).domains.get {} 0).open_ = true ∧
    Ready { s1 with tasks := [taskO 3 4] } (.cdom encSp) encSp c8 ∧ ({ s1 with tasks := [taskO 3 4] } : State).unfinished 0 0 ≠ [] := by
  refine ⟨ready_of (by decide +kernel) (by decide), ⟨0, by decide +kernel, by decide +kernel⟩, rfl, ready_of (by decide +kernel) (by decide),
    ready_of (by decide +kernel) (by decide), by decide +kernel, rfl, ready_of (by decide +kernel) (by decide), by decide +kernel⟩

theorem wit_RegionInstructions_begin :
    (∀ s ∈ [stSp true true {}, stSp false true {}, stSp true true { sid := some 7, nest := 1 }, { stSp false true {} with fns := [(0, { domS true with token := some (4, 0) })] },
        { stSp true true {} with units := (List.range 16).map (fun i => (i, ({} : SpecUnit))) }],
      Ready s (.rbegin encSp) encSp c8 ∧ Ready s (.rbeginSer encSp) encSp c8 ∧ c8.members = (s.ctxWave c8).live ∧ (s.ctxWave c8).spec.nest < 15) ∧
    ¬(((stSp true true {}).spart.get 0 0).getLsbD 8 = false ∨ (stSp true true {}).clusterOwner 0 ≠ 0) ∧
    ((stSp false true {}).spart.get 0 0).getLsbD 8 = false ∧ ((stSp false true {}).fn 0).token = none ∧ (stSp true true {}).coreUnits 0 < 16 ∧
    16 ≤ ({ stSp true true {} with units := (List.range 16).map (fun i => (i, ({} : SpecUnit))) } : State).coreUnits 0 := by
  refine ⟨?_, by decide +kernel, by decide +kernel, rfl, by decide +kernel, by decide +kernel⟩
  intro s h
  simp only [List.mem_cons, List.not_mem_nil, or_false] at h
  rcases h with rfl | rfl | rfl | rfl | rfl <;>
    exact ⟨ready_of (by decide +kernel) (by decide), ready_of (by decide +kernel) (by decide), by decide +kernel, by decide⟩

theorem wit_RegionInstructions_end :
    Ready (stSp true true { sid := some 7, nest := 2 }) (.rend encSp) encSp c8 ∧
    Ready { stSp true true { serial := true, nest := 1 } with fns := [(0, { domS true with token := some (0, 0) })] } (.rend encSp) encSp c8 ∧
    Ready (stUnitR { sid := some 7, nest := 1 } unitR) (.rend encSp) encSp c8 ∧ Alone (stUnitR { sid := some 7, nest := 1 } unitR) 7 unitR ∧
    unitR.task = none ∧ Ready (stUnitR { sid := some 7, nest := 1 } { unitR with deps := [(0, 9)] }) (.rend encSp) encSp c8 :=
  ⟨ready_of (by decide +kernel) (by decide), ready_of (by decide +kernel) (by decide), ready_of (by decide +kernel) (by decide), alone_of (by decide +kernel), rfl,
    ready_of (by decide +kernel) (by decide)⟩

/-- An ordered task's unit whose domain has an older task queued. -/
def unitO : SpecUnit := { blk := 0, wave := 0, fibres := 1, ord := some ⟨0, 9⟩, task := some (taskO 3 9) }
def stTask (x : SpecWave) : State := { stUnitR x unitO with tasks := [taskO 2 4] }
def encDefer (n : BitVec 23) : Enc := { len := .l96, dst := 3, ext := n }

theorem wit_SpeculationInstructions :
    let s := stUnitR { sid := some 7, nest := 1 } unitR
    (∀ i ∈ [Instr.rabort {}, .tdefer {}], Ready (stSp true true {}) i {} c8) ∧ Ready s (.rabort {}) {} c8 ∧ Alone s 7 unitR ∧
    (s.ctxWave c8).frames.length = (s.ctxWave c8).emdepth ∧ unitR.retryDepth = 0 ∧
    (∀ i ∈ [Instr.rstatSpec { dst := 200 }, .tfront { dst := 200 }, .depq { dst := 200 }], Ready s i { dst := 200 } c8) ∧
    Ready (stTask { sid := some 7 }) (.tdefer {}) {} c8 ∧ Ready (stTask { sid := some 7 }) (.tdefer (encDefer 0)) (encDefer 0) c12 ∧
    Ready (stTask { sid := some 7 }) (.tdefer (encDefer 0x180)) (encDefer 0x180) c12 ∧ (encDefer 0x180).imm16 ≠ 0 ∧
    ((stTask { sid := some 7 }).unit 7).task.isSome = true ∧ (stTask { sid := some 7 }).isFrontier ((stTask { sid := some 7 }).unit 7) = false :=
  ⟨fun i h => (all_ready (s := stSp true true {}) (e := {}) (c := c8) (is := [.rabort {}, .tdefer {}]) (by decide +kernel) (by decide) i h).1,
    ready_of (by decide +kernel) (by decide), alone_of (by decide +kernel), rfl, rfl,
    fun i h => (all_ready (s := stUnitR { sid := some 7, nest := 1 } unitR) (e := { dst := 200 }) (c := c8)
      (is := [.rstatSpec { dst := 200 }, .tfront { dst := 200 }, .depq { dst := 200 }]) (by decide +kernel) (by decide) i h).1,
    ready_of (by decide +kernel) (by decide), ready_of (by decide +kernel) (by decide), ready_of (by decide +kernel) (by decide), by decide, rfl,
    by decide +kernel⟩

/-- The wave of block 0 waits alone for the reason, in state s. -/
def parkS (y : Why) : Park := { lanes := 1, why := y, enc := encDefer 0, acting := 1, nextPc := 12 }
def waveP (y : Why) (x : SpecWave) : Wave :=
  { wave0 with lanes := [(0, { cond := .blocked 0 })], batches := [], waits := [(0, parkS y)], nextWait := 1, spec := x }
def waiting (s : State) (y : Why) (x : SpecWave) (args : List Nat) : State :=
  { s with blocks := [(0, { core := some 0, waves := [(0, waveP y x)] })], cur := none, args := args }
theorem waits_of {s : State} {y : Why} {x : SpecWave} (h : s.wave 0 0 = waveP y x) :
    (s.wave 0 0).onHold = false ∧ (s.wave 0 0).waits = [(0, parkS y)] ∧ (parkS y).why = y ∧ (parkS y).lanes ≠ 0 ∧
      (parkS y).acting &&& ~~~(parkS y).lanes = 0 ∧ ∀ l, (parkS y).lanes.getLsbD l = true ↔ ((s.wave 0 0).lane l).cond = .blocked 0 := by
  rw [h]
  refine ⟨rfl, rfl, rfl, (by decide : (1 : BitVec 32) ≠ 0), (by decide : (1 : BitVec 32) &&& ~~~1 = 0), fun l => ?_⟩
  show (1 : BitVec 32).getLsbD l = true ↔ ((waveP y x).lane l).cond = .blocked 0
  cases l with
  | zero => exact ⟨fun _ => rfl, fun _ => by decide⟩
  | succ n =>
    have h1 : (1 : BitVec 32).getLsbD (n + 1) = false := by simp
    have h2 : ((waveP y x).lane (n + 1)).cond = .idle := by simp [Wave.lane, waveP, wave0, Tab.get]
    rw [h1, h2]
    decide

theorem wit_SpeculationSteps :
    let full := waiting (stSp true true {}) .admission {} [0, 0]
    let tok := waiting (stSp false true {}) .token {} [0, 0]
    full.args = [0, 0] ∧ full.coreUnits 0 < 16 ∧ full.units.length < 4096 ∧ full.wave 0 0 = waveP .admission {} ∧
    tok.args = [0, 0] ∧ (tok.fn 0).token = none ∧ tok.wave 0 0 = waveP .token {} ∧
    (let s := waiting (stUnitR {} { unitO with finished := true, task := some (taskO 3 3) }) .rend {} [7]
     let u := { unitO with finished := true, task := some (taskO 3 3), ord := some ⟨0, 3⟩ }
     Alone { s with units := [(7, u)] } 7 u ∧ 3 * 2 ^ 32 + (taskO 3 3).serial.toNat < s.front 0 0) ∧
    (let u := { unitO with task := some (taskO 2 4), ord := some ⟨0, 4⟩ }
     let s := waiting (stUnitR {} u) (.tdefer none 3) { sid := some 7 } [7]
     let t := { s with tasks := [taskO 2 4] }
     Alone t 7 u ∧ 4 * 2 ^ 32 + (taskO 2 4).serial.toNat = t.front 0 0 ∧ t.wave 0 0 = waveP (.tdefer none 3) { sid := some 7 } ∧ (parkS (.tdefer none 3)).enc.dst.toNat = 3) ∧
    (let u := { unitR with atRend := true }
     let s := waiting (stUnitR {} u) .rend { sid := some 7, nest := 1 } [7]
     Alone s 7 u ∧ s.wave 0 0 = waveP .rend { sid := some 7, nest := 1 } ∧ (s.wave 0 0).acc = []) ∧
    (let s := { waiting (stUnitR {} unitR) (.edge [9]) { sid := some 7, nest := 1 } [0, 0, 0] with clock := 65536 }
     Alone s 7 unitR ∧ s.wave 0 0 = waveP (.edge [9]) { sid := some 7, nest := 1 } ∧ (parkS (.edge [9])).since + 65536 ≤ s.clock) ∧
    (let s := { waiting (stUnitR {} unitO) (.tdefer (some 5) 3) { sid := some 7 } [0, 0, 0] with clock := 5 }
     s.wave 0 0 = waveP (.tdefer (some 5) 3) { sid := some 7 } ∧ 5 ≤ s.clock ∧ (parkS (.tdefer (some 5) 3)).enc.len = .l96) :=
  ⟨rfl, by decide +kernel, by decide +kernel, rfl, rfl, rfl, rfl, ⟨alone_of (by decide +kernel), by decide +kernel⟩,
    ⟨alone_of (by decide +kernel), by decide +kernel, rfl, by decide⟩, ⟨alone_of (by decide +kernel), rfl, rfl⟩,
    ⟨alone_of (by decide +kernel), rfl, by decide⟩, rfl, by decide, rfl⟩

/-! ### Fetch, traps and events -/

/-- An undefined encoding at 0, and the wave w on block 0; m is its stream. -/
def stFetch (w : Wave) (m : Option Stream) (args : List Nat) : State :=
  { onMem { blocks := [(0, { core := some 0, waves := [(0, w)], stream := m })] } ((0, 0xD0) :: (1, 0x0D) :: (6, 0xF0) :: (7, 1) :: [(0x10000, 1), (0x10002, 2), (0x20000, 0x3F), (0x20001, 0x40)])
    with args := args }
def waveE : Wave := { wave0 with emWindow := 8 }
def waveBad : Wave := { wave0 with lanes := [(0, { cond := .runnable, pc := 0x40000000 })] }
def waveDog : Wave := { waveE with emdepth := 1, frames := [{ members := 1 }], wdCount := 65536 }
def fetched (s : State) (a : Agent) : Fetched × State := ({ s with cur := some a } : State).fetch a

/-- A function that picks the parts of an emulated fetch. -/
def emulOf (x : Fetched) : BitVec 8 × Enc × Raw × Bool := match x with | .emulate o e r d => (o, e, r, d) | _ => (0, {}, {}, true)
def faultOf (x : Fetched) : FaultInfo × Raw := match x with | .fault f r => (f, r) | _ => ({ cause := .none }, {})

theorem wit_FetchRows :
    (let s := stFetch waveBad none [0, 0, 0]
     let q := (fetched s (.wave 0 0 0)).2
     let f := faultOf (fetched s (.wave 0 0 0)).1
     s.cur = none ∧ s.issues (.wave 0 0 0) = true ∧ fetched s (.wave 0 0 0) = (.fault f.1 f.2, q) ∧
      q.ctx {} = some { c8 with pc := 0x40000000, nextPc := 0x40000008 } ∧ (q.wave 0 0).spec.sid = none) ∧
    (let s := stFetch waveE none [0, 0, 0]
     let q := (fetched s (.wave 0 0 0)).2
     let e := emulOf (fetched s (.wave 0 0 0)).1
     s.cur = none ∧ s.issues (.wave 0 0 0) = true ∧ fetched s (.wave 0 0 0) = (.emulate e.1 e.2.1 e.2.2.1 e.2.2.2, q) ∧
      (∃ m n, q.ctx e.2.1 = some { c8 with nextPc := n, acting := m }) ∧ (q.wave 0 0).emdepth < 2 ∧ (q.wave 0 0).emWindow ≠ 0 ∧ (q.wave 0 0).acc = []) ∧
    (let s := stFetch waveDog none [0, 0, 0]
     s.issues (.wave 0 0 0) = true ∧ ({ s with cur := some (.wave 0 0 0) } : State).ctx {} = some c8 ∧
      ((fetched s (.wave 0 0 0)).2.wave 0 0).emdepth ≠ 0 ∧ 65536 ≤ ((fetched s (.wave 0 0 0)).2.wave 0 0).wdCount ∧
      ((fetched s (.wave 0 0 0)).2.wave 0 0).spec.sid = none) ∧
    (let s := stFetch { waveE with lanes := [], batches := [], ended := false } (some {}) [0]
     let q := (fetched s (.stream 0)).2
     let e := emulOf (fetched s (.stream 0)).1
     s.cur = none ∧ s.issues (.stream 0) = true ∧ fetched s (.stream 0) = (.emulate e.1 e.2.1 e.2.2.1 e.2.2.2, q) ∧ (q.block 0).stream = some {}) :=
  ⟨⟨rfl, by decide +kernel, by decide +kernel, by decide +kernel, by decide +kernel⟩,
    ⟨rfl, by decide +kernel, by decide +kernel, ⟨((fetched (stFetch waveE none [0, 0, 0]) (.wave 0 0 0)).2.ctx
        (emulOf (fetched (stFetch waveE none [0, 0, 0]) (.wave 0 0 0)).1).2.1 |>.getD c8).acting,
      ((fetched (stFetch waveE none [0, 0, 0]) (.wave 0 0 0)).2.ctx (emulOf (fetched (stFetch waveE none [0, 0, 0]) (.wave 0 0 0)).1).2.1 |>.getD c8).nextPc,
      by decide +kernel⟩, by decide +kernel, by decide +kernel, by decide +kernel⟩,
    ⟨by decide +kernel, by decide +kernel, by decide +kernel, by decide +kernel, by decide +kernel⟩,
    rfl, by decide +kernel, by decide +kernel, by decide +kernel⟩

/-- The stream has stopped for its proxy. -/
def emulX : StreamEmul := { opc := 0xFF, enc := {}, raw := {}, disabled := false, nextPc := 8 }
theorem wit_FetchRows_proxy :
    let s := stFetch waveE (some { emul := some emulX }) [0]
    s.args = [0] ∧ (s.block 0).stream = some { emul := some emulX } ∧ emulX.running = none ∧ (s.block 0).core.isSome = true ∧ (s.block 0).saving = false ∧
    (s.block 0).waves.find? (fun p => !p.2.ended) = some (0, waveE) ∧ waveE = s.wave 0 0 ∧ waveE.emdepth = 0 ∧ waveE.stopped = none ∧ waveE.evicted = false ∧
    waveE.emWindow ≠ 0 :=
  ⟨rfl, rfl, rfl, rfl, rfl, by decide +kernel, rfl, rfl, rfl, rfl, by decide⟩

/-- A record waits to be written to the trap ring at 0x8000, which has room, or is off; x waits for its answer. -/
def recT : TrapRec := { id := 6, fn := 0, cause := .trapUser, ans := true, lane := 0, pc := 0x40, resume := .reissue, nextPc := 0x48, members := 1, blkId := 0 }
def stTrap (ctl : Word) (rs : List TrapRec) (xs : List WaitingRec) (args : List Nat) : State :=
  { onMem {} [(0x10000, 1), (0x10002, 2), (0x20000, 0x3F), (0x20001, 0x40)] with
    fns := [(0, { s1root := 0x10001, s2root := 0x10001, trctl := ctl, trbase := 0x8000, recs := rs, waiting := xs })], args := args }

theorem wit_TrapAndEventRows_produce :
    let s := stTrap 9 [recT] [] [0, 0]
    (s.fn 0).recs[0]? = some recT ∧ (s.fn 0).trctl.getLsbD 0 = true ∧ ((s.fn 0).trprod - (s.fn 0).trcons).toNat < ringSize (s.fn 0).trctl ∧ recT.syn = none ∧
    s.s2PagesOk 0 ((s.fn 0).trbase.toNat % 2 ^ 56 / 4096 * 4096) (64 * ringSize (s.fn 0).trctl) .write = true ∧
    s.s2Access 0 0x8000 .write = some (0x8000, s) ∧ s.plainMemory ∧ ¬((stTrap 8 [recT] [] [0, 0]).fn 0).trctl.getLsbD 0 = true :=
  ⟨rfl, by decide, by decide +kernel, rfl, by decide +kernel, by decide +kernel, ⟨by unfold State.memOk; decide +kernel, rfl, by decide +kernel, rfl⟩, by decide⟩

/-- The saved block whose wave stopped on the record. -/
def waveT : Wave := { wave0 with stopped := some recT }
def stAns (stage2 : Bool) : State :=
  { stTrap 9 [] [{ seq := 3, addr := 0x80C0, record := recT, stage2 := stage2 }] [0, 3] with
    blocks := [(0, { holds := [6], waves := [(0, waveT)] })] }

theorem wit_TrapAndEventRows_answer : ∀ st : Bool,
    let s := stAns st
    (s.fn 0).resetting = false ∧ (s.fn 0).waiting = [{ seq := 3, addr := 0x80C0, record := recT, stage2 := st }] ∧ recT.kind = 0 ∧ recT.resume = .reissue ∧
    recT.cause ≠ .watchdog ∧ (s.block 0).core = none ∧ (s.block 0).saving = false ∧ (s.block 0).toHead = false ∧ (s.block 0).fn = 0 ∧ (s.block 0).holds = [recT.id] ∧
    s.restores = [] ∧ s.blocks.get? 0 = some (s.block 0) ∧ s.blocks.sorted = true ∧ (s.block 0).waves = [(recT.wave, waveT)] ∧ waveT.ended = false ∧
    waveT.stopped = some recT ∧ waveT.acc = [] ∧ waveT.late = [] ∧ waveT.spec.sid = none ∧ (s.block 0).copies = [] ∧ (s.block 0).stackCmds = [] ∧ (s.block 0).stream = none ∧
    (s.block 0).task = none ∧ (s.fn 0).token = none := by
  intro st
  exact ⟨rfl, rfl, rfl, rfl, by decide, rfl, rfl, rfl, rfl, rfl, rfl, rfl, rfl, rfl, rfl, rfl, rfl, rfl, rfl, rfl, rfl, rfl, rfl, rfl⟩

/-- Control words, CONS inside and beyond what is produced, and an event for a ring that has room or is off. -/
def evT : Event := { rings := [0], func := 0, code := 3, cls := some 2, obj := 0x1000 }
def stEv (ctl : Word) : State :=
  { stTrap 9 [] [] [0, 2] with
    fns := [(0, { s1root := 0x10001, s2root := 0x10001, trbase := 0x8000, trprod := 4, evctl := ctl, evbase := 0x9000, evprod := 4 })], events := [evT] }

theorem wit_TrapAndEventRows_rings :
    let s := stEv 9
    let v : Word := 2
    (s.fn 0).resetting = false ∧ v &&& 0xFF00 = 0 ∧ v.getLsbD 6 = false ∧ v.getLsbD 0 = false ∧
    s.s2PagesOk 0 0x8000 (64 * ringSize ((v ||| 1) &&& 0x3F)) .write = true ∧ s.s2PagesOk 0 0x9000 (64 * ringSize ((v ||| 1) &&& 0x3F)) .write = true ∧
    (v - (s.fn 0).trcons).toNat ≤ ((s.fn 0).trprod - (s.fn 0).trcons).toNat ∧ ((s.fn 0).trprod - (s.fn 0).trcons).toNat < ((5 : Word) - (s.fn 0).trcons).toNat ∧
    s.events = [evT] ∧ evT.rings = [0] ∧ evT.code < 256 ∧ evT.obj < 65536 ∧ (s.fn 0).evctl.getLsbD 0 = true ∧
    ((s.fn 0).evprod - (s.fn 0).evcons).toNat < ringSize (s.fn 0).evctl ∧
    ({ s with events := [] } : State).s2PagesOk 0 ((s.fn 0).evbase.toNat % 2 ^ 56 / 4096 * 4096) (64 * ringSize (s.fn 0).evctl) .write = true ∧
    ({ s with events := [] } : State).s2Access 0 0x9100 .write = some (0x9100, { s with events := [] }) ∧ ({ s with events := [] } : State).plainMemory ∧
    ¬((stEv 8).fn 0).evctl.getLsbD 0 = true :=
  ⟨rfl, by decide, by decide, by decide, by decide +kernel, by decide +kernel, by decide +kernel, by decide +kernel, rfl, rfl, by decide, by decide, by decide,
    by decide +kernel, by decide +kernel, by decide +kernel, ⟨by unfold State.memOk; decide +kernel, rfl, by decide +kernel, rfl⟩, by decide⟩

/-- A block held by a record, its wave stopped, is to be saved. -/
def stSave : State :=
  { onMem {} ((0x1000, 7) :: [(0x10000, 1)]) with
    blocks := [(3, { core := some 0, saving := true, holds := [6], waves := [(0, waveT)], scratch := 256 })], args := [3] }

theorem wit_TrapAndEventRows_save :
    let k := stSave.block 3
    stSave.blocks.get? 3 = some k ∧ k.saving = true ∧ k.core.isSome = true ∧ k.stackCmds = [] ∧ k.copies = [] ∧ k.saveBy = none ∧ k.answers = [] ∧
    (∀ b, (k.bar b).pend = []) ∧ k.holds ≠ [] ∧ stSave.memOk ∧
    (∀ p ∈ k.waves, p.2.acc = [] ∧ p.2.late = [] ∧ (∀ x ∈ p.2.waits, x.2.why.poisoned = 0) ∧ p.2.spec.sid = none ∧ (p.2.stopped.isSome = true ∨ p.2.ended = true ∨ p.2.emdepth = 0)) :=
  ⟨rfl, rfl, rfl, rfl, rfl, rfl, rfl, fun _ => rfl, by decide, by unfold State.memOk; decide +kernel, by decide +kernel⟩

/-! ### The dispatcher -/

/-- A launch of one block of one wave of eight registers at 0x100, with 256 bytes of scratch; its record lies at 0x3000. -/
def recL : Nat :=
  2 ^ 128 + 2 ^ 160 + 2 ^ 176 + 2 ^ 192 + (2 ^ 128 - 1) * 2 ^ 640 + 0x100 * 2 ^ 768 + 2 * 2 ^ 832 + 2 ^ 836 + 2 ^ 841
def memQ : List Host.Cell := [(0x3010, 0x1), (0x3014, 0x1), (0x3016, 0x1), (0x3018, 0x1), (0x3050, 0xFF), (0x3051, 0xFF), (0x3052, 0xFF), (0x3053, 0xFF), (0x3054, 0xFF), (0x3055, 0xFF), (0x3056, 0xFF), (0x3057, 0xFF), (0x3058, 0xFF), (0x3059, 0xFF), (0x305A, 0xFF), (0x305B, 0xFF), (0x305C, 0xFF), (0x305D, 0xFF), (0x305E, 0xFF), (0x305F, 0xFF), (0x3061, 0x1), (0x3068, 0x12), (0x3069, 0x2), (0x10000, 1), (0x10002, 2), (0x20000, 0x3F), (0x20001, 0x40)]
def fnQ (q : Queue) : Fn := { s1root := 0x10001, s2root := 0x10001, queues := [(3, q)] }
/-- s0 = 3, the pair in s2 holds 0x3000, s4 is a ticket that was issued, s5 a time in units of 1,024 cycles. -/
def waveQ : Wave := { wave0 with s := [(0, ⟨3, false⟩), (2, ⟨0x3000, false⟩), (4, ⟨0x30000000, false⟩), (5, ⟨2, false⟩)] }
/-- A variant table of two entries, the second the smaller one that holds 0x80. -/
def launchV : Launch := { ticket := 7, record := 2 * 2 ^ 8 + 0x200 * 2 ^ 1280 + 0x100 * 2 ^ 1344 + 4 * 2 ^ 1376, checked := true }
def stDis (b : Block) (ls : List Launch) : State :=
  { onMem (on0 b waveQ) memQ with fns := [(0, fnQ { ctl := 9, count := 1 })], launches := ls }
def encLaunch : Enc := { src0 := 194, src1 := 192, dst := 200 }
def encPh (i : BitVec 23) : Enc := { len := .l96, ext := i }
def encGang : Enc := { src0 := 196, src1 := 197, dst := 3, mod := 1 }

theorem wit_DispatcherInstructions :
    let s := stDis {} []
    let v := stDis { ticket := 7 } [launchV]
    Ready s (.launch encLaunch) encLaunch c8 ∧ (s.ctxWave c8).sCode encLaunch.src1 = ⟨3, false⟩ ∧ (s.ctxWave c8).sPair encLaunch.src0 = (0x3000, false) ∧
    ((s.fn 0).queues.get {} 3).ctl.getLsbD 0 = true ∧ s.readsAs c8 0x3000 256 (s.bytesAt 0x3000 256) ∧
    Ready v (.schsel encLaunch) encLaunch c8 ∧ (v.block 0).choice = none ∧ v.readsAs c8 0x3000 4 (v.bytesAt 0x3000 4) ∧
    natOfBytes (v.bytesAt 0x3000 4) < 2 ^ 32 ∧ (v.launchOf (v.block 0)).isSome = true ∧
    (∀ z ∈ [none, some 1], Ready (stDis { choice := some (5, z) } []) (.schsel encLaunch) encLaunch c8) ∧
    Ready s (.phase {}) {} c8 ∧ Ready s (.phase { mod := 1, src0 := 192 }) { mod := 1, src0 := 192 } c8 ∧ Ready s (.phase (encPh 0x280)) (encPh 0x280) c12 := by
  refine ⟨ready_of (by decide +kernel) (by decide), by decide +kernel, by decide +kernel, by decide,
    readsAs_dec (h := 0x3000) (x := xl 0x3000) (by decide +kernel) (by decide +kernel) (by decide +kernel) rfl (by decide +kernel), ready_of (by decide +kernel) (by decide), rfl,
    readsAs_dec (h := 0x3000) (x := xl 0x3000) (by decide +kernel) (by decide +kernel) (by decide +kernel) rfl (by decide +kernel), by decide +kernel, by decide +kernel, ?_,
    ready_of (by decide +kernel) (by decide), ready_of (by decide +kernel) (by decide), ready_of (by decide +kernel) (by decide)⟩
  intro z h
  simp only [List.mem_cons, List.not_mem_nil, or_false] at h
  rcases h with rfl | rfl <;> exact ready_of (by decide +kernel) (by decide)

theorem wit_DispatcherInstructions_gang :
    Ready (stDis {} []) (.gangwait encGang) encGang c8 ∧ ((stDis {} []).ctxWave c8).sCode encGang.src0 = ⟨0x30000000, false⟩ ∧
    ((stDis {} []).ctxWave c8).sCode encGang.src1 = ⟨2, false⟩ ∧ (stDis {} []).ticketDone 0 0x30000000 = some true ∧
    Ready (stDis {} [{ ticket := 0x30000000 }]) (.gangwait encGang) encGang c8 ∧
    (stDis {} [{ ticket := 0x30000000 }]).ticketDone 0 0x30000000 = some false ∧ (2 : Word).toNat % 65536 ≠ 0 ∧
    Ready (stDis {} [{ ticket := 0x30000000 }]) (.gangwait { encGang with mod := 0 }) { encGang with mod := 0 } c8 :=
  ⟨ready_of (by decide +kernel) (by decide), by decide +kernel, by decide +kernel, by decide +kernel, ready_of (by decide +kernel) (by decide),
    by decide +kernel, by decide, ready_of (by decide +kernel) (by decide)⟩

/-- A queue of 16 slots at 0x3000 with one record to take. -/
def stQueue (q : Queue) (args : List Nat) : State := { onMem {} memQ with fns := [(0, fnQ q)], args := args }
def q1 : Queue := { base := 0x3000, ctl := 9, wr := 1 }
def lQ (ticket : Word) : Launch := { ticket := ticket, record := recL }

theorem wit_DispatcherSteps_queue :
    (stQueue q1 [0, 3, 0, 5]).s2PagesOk 0 0x3000 (256 * ringSize q1.ctl) .read = true ∧ 5 < ringSize q1.ctl ∧ ringSize q1.ctl ≤ 77 ∧
    (let s := stQueue q1 [0, 3]
     let t : Word := 0x30000000
     (s.fn 0).resetting = false ∧ s.launches = [] ∧ q1.ctl.getLsbD 0 = true ∧ q1.bad = false ∧ q1.rd ≠ q1.wr ∧
      s.s2PagesOk 0 0x3000 (256 * ringSize q1.ctl) .read = true ∧ s.faulty = [] ∧ s.s2Access 0 0x3000 .read = some (0x3000, s) ∧ s.poisonAt 0x3000 256 = false ∧ s.natAt 0x3000 256 = recL ∧ recL / 2 ^ 1792 % 2 ^ 64 = 0 ∧
      recL / 2 ^ 384 % 2 ^ 64 = 0 ∧ (lQ t).fieldsOk = true ∧ (lQ t).rolesOk = true ∧ s.fitsEmpty (lQ t) = true ∧
      (∀ i, i < 4 → recL / 2 ^ (640 + 32 * i) % 2 ^ 32 = 0xFFFFFFFF)) ∧
    ({ lQ 0 with record := recL + 2 ^ 13 } : Launch).fieldsOk = false :=
  ⟨by decide +kernel, by decide, by decide, ⟨rfl, rfl, by decide, rfl, by decide, by decide +kernel, rfl, by decide +kernel, by decide +kernel, by decide +kernel, by decide +kernel,
    by decide +kernel, by decide +kernel, by decide +kernel, by decide +kernel, by decide +kernel⟩, by decide +kernel⟩

/-- Core 0 has an evicted wave that may go on; a saved block of 256 bytes; the launch's first block to place. -/
def stBack : State := { onMem {} [] with blocks := [(0, { core := some 0, waves := [(0, { wave0 with evicted := true })] })], args := [0] }
def stRes : State := { onMem {} [] with blocks := [(5, { scratch := 256, image := [(3, 9)], waves := [(0, wave0)] })], restores := [5], args := [0] }
def stLaunch : State := { onMem {} [] with launches := [{ lQ 0x30000000 with checked := true }], args := [0], serial := 9 }

theorem wit_DispatcherSteps_place :
    (stBack.backWaves 0).find? (fun p => (stBack.room 0 (stBack.wave p.1 p.2).backNeed).isSome) = some (0, 0) ∧
    (∀ s ∈ [stRes, stLaunch], s.backWaves 0 = [] ∧ (s.core 0).taskNext = false ∧ s.clusterHolder 0 = 0 ∧ s.ready 0 = true) ∧
    stRes.restorePlace 0 = some (5, 0, 0) ∧ stRes.memOk ∧ (∀ p ∈ (stRes.block 5).image, p.1 < (stRes.block 5).scratch) ∧
    Memory.wf (stRes.block 5).image = true ∧ stLaunch.restorePlace 0 = none ∧
    (stLaunch.launchOrder 0).head? = some { lQ 0x30000000 with checked := true } ∧
    stLaunch.launchPlace { lQ 0x30000000 with checked := true } = some (0, 0, 0) ∧ (lQ 0).gang.length = 1 :=
  ⟨by decide +kernel, by decide +kernel, by decide +kernel, by unfold State.memOk; decide +kernel, by decide +kernel, by decide +kernel, by decide +kernel,
    by decide +kernel, by decide +kernel, by decide +kernel⟩

/-- Translations do not see the launches. -/
theorem hbmXlat_launches (s : State) (ls : List Launch) (fn core va : Nat) (acc : Acc) :
    ({ s with launches := ls } : State).hbmXlat fn core va acc = s.hbmXlat fn core va acc := rfl
theorem coherent_launches {s : State} {fn : Nat} {vas : List Nat} (h : Coherent s fn vas) (ls : List Launch) : Coherent { s with launches := ls } fn vas :=
  ⟨h.1, h.2, h.3, h.4, h.5⟩

/-- A launch without blocks left whose status goes to 0x1000; waves to be evicted and parked. -/
def lEnd : Launch := { ticket := 7, record := 0x1000 * 2 ^ 384, checked := true }
def stEnd : State := { onMem {} memA with launches := [lEnd], args := [0, 7] }
def waveWaits : Wave :=
  { wave0 with window := 12288, lanes := [(0, { cond := .blocked 0 })], batches := [], waits := [(0, { lanes := 1, why := .waitb 0 false, enc := encGang, acting := 1, nextPc := 8 })] }
def stEvict : State := { stRes with blocks := [(0, { core := some 0, waves := [(0, waveWaits)] }), (5, { waves := [(0, wave0)] })], args := [0, 0], clock := 1024 }
def stPark : State := { onMem {} [] with blocks := [(0, { core := some 0, waves := [(0, { wave0 with elastic := some 0 })] })], args := [0, 0] }

theorem wit_DispatcherSteps_waves :
    stEnd.launches.find? (fun y => y.is 0 7) = some lEnd ∧ lEnd.nextIdx = none ∧ stEnd.plainMemory ∧ lEnd.record / 2 ^ 384 % 2 ^ 64 = 0x1000 ∧
    (∀ y : State, ∃ u, translate { stEnd with launches := y.launches } (stEnd.fnReq 0) 0x1000 .write = (.ok (xl 0x1000), u) ∧
      State.walked { stEnd with launches := y.launches } u) ∧
    stEvict.evictable 0 = some (0, 0) ∧ (∃ y ∈ stEvict.waitingNeeds 0, stEvict.onlyRegs 0 y = true) ∧ (stEvict.wave 0 0).spec.sid = none ∧
    (stEvict.wave 0 0).acc = [] ∧ (stEvict.wave 0 0).late = [] ∧ (∀ y ∈ (stEvict.wave 0 0).waits, y.2.why.poisoned = 0) ∧ (stEvict.blocks.get? 0).isSome = true ∧ ((stEvict.block 0).waves.get? 0).isSome = true ∧
    (stPark.wave 0 0).elastic = some 0 ∧ (stPark.wave 0 0).emdepth = 0 ∧ (∀ p ∈ ((stPark.block 0).ring 0).slots, p.2.st ≠ 2) ∧
    (stPark.wave 0 0).ended = false ∧ (stPark.wave 0 0).batches ≠ [] := by
  refine ⟨by decide +kernel, by decide +kernel, ⟨by unfold State.memOk; decide +kernel, rfl, by decide +kernel, rfl⟩, by decide +kernel, ?_, by decide +kernel,
    by simpa only [List.any_eq_true] using (show (stEvict.waitingNeeds 0).any (fun y => stEvict.onlyRegs 0 y) = true by decide +kernel), rfl, rfl, rfl, by decide +kernel, rfl, rfl, rfl,
    rfl, by decide +kernel, rfl, by decide⟩
  intro y
  have hc : Coherent stEnd 0 [0x1000] := coherent_of (by decide +kernel)
  have h : stEnd.hbmXlat 0 0 0x1000 .write = some (xl 0x1000) := by decide +kernel
  have hq : stEnd.fnReq 0 = ⟨0, none, 0⟩ := by decide +kernel
  obtain ⟨u, h1, h2, _⟩ := translate_hbm (coherent_launches hc y.launches) (List.mem_singleton.2 rfl) ((hbmXlat_launches ..).trans h) none
  exact ⟨u, by rw [hq]; exact h1, h2⟩

/-- A block on cluster 0 that has nothing, or much, left to do; deadlines and reclaims. -/
def stSlice (b : Block) (args : List Nat) : State := { onMem {} [] with blocks := [(2, { b with core := some 1 })], args := args }
def stReturn : State := { onMem {} [] with clown := [(0, 0x1000)], args := [0], draining := [(0, 5)], clock := 5 }

theorem wit_DispatcherSteps_clusters :
    (∀ p ∈ (stSlice {} [0, 3]).onCluster 0, (stSlice {} [0, 3]).remCycles p.2 ≤ 3 * 800) ∧
    (∃ p ∈ (stSlice { expdur := 10 } [0, 3]).onCluster 0, 3 * 800 < (stSlice { expdur := 10 } [0, 3]).remCycles p.2) ∧
    (∃ p ∈ (stSlice { expdur := 10 } [0, 3]).onCluster 0, p.2.clean = false) ∧
    stReturn.draining.get? 0 = some 5 ∧ stReturn.blocks.sorted = true ∧ stReturn.clusterRecl 0 = true ∧ (∀ p ∈ stReturn.onCluster 0, p.2.fn = 0) ∧
    stReturn.memOk :=
  ⟨by decide +kernel, by simpa only [List.any_eq_true, decide_eq_true_eq] using
      (show ((stSlice { expdur := 10 } [0, 3]).onCluster 0).any (fun p => decide (3 * 800 < (stSlice { expdur := 10 } [0, 3]).remCycles p.2)) = true by decide +kernel),
    by simpa only [List.any_eq_true, decide_eq_true_eq] using
      (show ((stSlice { expdur := 10 } [0, 3]).onCluster 0).any (fun p => decide (p.2.clean = false)) = true by decide +kernel), rfl, rfl, by decide +kernel, by decide +kernel,
    by unfold State.memOk; decide +kernel⟩

/-- A wave waiting at a gang whose limit has passed; it writes q5. -/
def waveGang : Wave :=
  { wave0 with lanes := [(0, { cond := .blocked 3, pred := 0xFFFF })], batches := [], waits := [(3, { lanes := 1, why := .gang 0x30000000 5, enc := { encGang with dst := 5 }, acting := 1, nextPc := 8 })] }
def stTimeout : State := { on0 {} waveGang with fns := [(0, fnQ { ctl := 9, count := 1 })], launches := [{ ticket := 0x30000000 }], args := [0, 0, 3], clock := 5 }

theorem wit_DispatcherSteps_timeout :
    stTimeout.ticketDone (stTimeout.block 0).fn (BitVec.ofNat 32 0x30000000) = some false ∧ (∃ p, (stTimeout.wave 0 0).waits = [(3, p)] ∧ p.why = .gang 0x30000000 5 ∧
      p.lanes ≠ 0 ∧ p.acting &&& ~~~p.lanes = 0 ∧ ∀ l, p.lanes.getLsbD l = true ↔ ((stTimeout.wave 0 0).lane l).cond = .blocked 3) ∧ 5 ≤ stTimeout.clock := by
  refine ⟨by decide +kernel, ⟨_, rfl, rfl, by decide, by decide, fun l => ?_⟩, by decide⟩
  by_cases h : l < 32
  · revert l; decide +kernel
  · rw [BitVec.getLsbD_of_ge _ _ (by omega)]
    rcases l with _ | l
    · omega
    · exact iff_of_false (by simp) (by
        have : (stTimeout.wave 0 0).lane (l + 1) = {} := rfl
        rw [this]; decide)

/-! ### Translation and partition -/

def stFn (f : Fn) (args : List Nat) : State := { onMem {} memA with fns := [(0, { f with s1root := 0x10001, s2root := 0x10001 })], args := args }
/-- A page walked for block 0; entries of function 0 in a core's TLB. -/
def stWalk : State := { stA with args := [0, 0x1000, 0] }
def stInval : State := { onMem {} memA with
  fns := [(0, { inval := [(1, none)] })], args := [0, 1], cores := [(0, { tlb := [tlbOf 0 0x1000 0x1000 ⟨0, 1, 1⟩ none] })]
  clusters := [(0, { tlb := [tlbOf 0 0x1000 0x1000 ⟨0, 1, 1⟩ none] })] }
/-- Function 0 with a block, a task and a launch, and another function's block. -/
def stGo (r : Bool) : State := { onMem {} memA with
  fns := [(0, { resetting := r, queues := [(3, q1)] }), (1, { s1root := 5 })], args := [0], blocks := [(0, { waves := [(0, wave0)] }), (4, { fn := 1 })],
  tasks := [{}], launches := [{}], cores := [(0, { tlb := [tlbOf 0 0x1000 0x1000 ⟨0, 1, 1⟩ none] })] }
def clownOf (o h dl : Nat) : DWord := BitVec.ofNat 64 (o + h * 64 + dl * 65536)
def stClown (x : Nat) : State := { onMem {} [(sliceAddr 0 5, 7)] with args := [0, x] }

theorem wit_TranslationAndPartition :
    (stWalk.block 0).core.isSome = true ∧ ((stFn {} [0]).fn 0).resetting = false ∧
    BitVec.ofNat 64 0x10001 &&& 0xFF8000000000FFFE = 0 ∧ BitVec.ofNat 64 0x10001 &&& 0xFFF000000000FFFE = 0 ∧
    BitVec.ofNat 64 0x3001 &&& 0xFF00000000000FFE = 0 ∧
    (stFn {} [0, 0x3001]).s2PagesOk 0 0x3000 (32 * ringSize ((stFn {} []).fn 0).trctl) .write = true ∧
    (stInval.fn 0).inval = (1, none) :: [] ∧ (∀ p ∈ stInval.blocks, ∀ w ∈ p.2.waves, w.2.acc = [] ∧ w.2.waits = [] ∧ w.2.late = []) ∧ (∀ x ∈ stInval.versions, (stInval.unit x.sid).fn ≠ 0) ∧
    ((stGo false).sessions = [] ∧ (stGo false).mgmt.ev ≠ .migrate ∧ ((stGo false).fn 0).colls = [] ∧ (stGo false).blocks.sorted = true ∧
      (∀ p ∈ (stGo false).blocks, p.2.fn = 0 → p.2.copies = [] ∧ p.2.stackCmds = [] ∧ ∀ w ∈ p.2.waves, w.2.acc = []) ∧
      (∀ k, k < 32 → ((stGo false).clusterOwner k = 0 ↔ (stGo false).clusterHolder k = 0) ∧ (stGo false).clusterRecl k = false)) ∧
    ((stGo true).fn 0).resetting = true := by
  refine ⟨rfl, rfl, by decide, by decide, by decide, by decide +kernel, rfl, by decide, (by intro x h; cases h), ⟨rfl, by decide, rfl, by decide, by decide, by decide +kernel⟩, rfl⟩

theorem wit_TranslationAndPartition_clusters :
    (let s := stClown (clownOf 1 1 0).toNat;
      s.clusterRecl 0 = false ∧ 1 ≠ s.clusterOwner 0 ∧ s.clusterHolder 0 = s.clusterOwner 0 ∧ s.quiescent 0 = true ∧ s.quiescent 1 = true ∧ s.clusterReady 0 = true) ∧
    (let s := stGo false;
      1 ≠ s.clusterOwner 0 ∧ s.quiescent 0 = false) ∧
    (let s := stClown (clownOf 0 1 9).toNat;
      0 = s.clusterOwner 0 ∧ 1 ≠ s.clusterOwner 0 ∧ s.clusterHolder 0 = 0 ∧ (∀ p ∈ s.onCluster 0, p.2.fn ≠ 0) ∧ s.memOk) ∧
    (let s := { stClown (clownOf 0 0 9).toNat with clown := [(0, clownOf 0 1 0)] };
      0 = s.clusterOwner 0 ∧ s.clusterHolder 0 ≠ 0 ∧ s.onCluster 0 = []) ∧
    (let s := { stClown 0 with args := [5, 17 + 256] };
      s.quiescent (s.clusterOwner (5 / 8)) = true) ∧ (stGo false).quiescent ((stGo false).clusterOwner (5 / 8)) = false ∧
    Tab.get? ([(3, [(1, 1)])] : Tab (List (Nat × Nat))) 3 = some [(1, 1)] := by
  refine ⟨⟨by decide +kernel, by decide +kernel, by decide +kernel, by decide +kernel, by decide +kernel, by decide +kernel⟩, ⟨by decide +kernel, by decide +kernel⟩,
    ⟨by decide +kernel, by decide +kernel, by decide +kernel, by decide +kernel, by unfold State.memOk; decide +kernel⟩,
    ⟨by decide +kernel, by decide +kernel, by decide +kernel⟩, by decide +kernel, by decide +kernel, rfl⟩

/-! ### Migration -/

/-- Function 0 has one 64 KiB page, at 0x40000; its session 1 moves it to function 1 of member 5. -/
def memP : List Host.Cell :=
  [(0x10000, 1), (0x10002, 2), (0x20000, 1), (0x20002, 3), (0x30000, 0x3F), (0x30002, 4), (0x41003, 7)]
def mgP : DWord := BitVec.ofNat 64 (5 * 2 ^ 44 + 2 ^ 49)
def partnerP : Triple := { mem := 5, func := 1 }
def sesP (st : MgState) : Session := { mgctl := mgP, mgsave := 0x80000, state := st }
def stMig (x : Session) : State :=
  { onMem {} memP with fns := [(0, { s2root := 0x10001, vdnbase := 0x800000 })], sessions := [(1, x)], args := [1], dbmap := 1, clock := 9 }
/-- A packet of the partner is first in the inbox. -/
def stArr (x : Session) (b : Body) : State :=
  { stMig x with inbox := [{ src := partnerP, msgid := 3, seq := 4, body := b }], args := [0] }

theorem wit_MigrationSessions :
    (∀ st ∈ [MgState.idle, .round, .drain, .receiving, .forward, .save], (stMig (sesP st)).mgmt.ev ≠ .migrate ∧ ((stMig (sesP st)).session 1).state = st) ∧
    (let s := stMig (sesP .idle);
      (s.session 1).recv = false ∧ (∀ j, j < 4 → (s.session j).running = false) ∧ s.dbmap.getLsbD 0 = true ∧ s.enabled 0 = true ∧ s.ready 0 = true ∧
      (s.session 1).saveBase ≠ 0 ∧ (stMig { sesP .idle with mgsave := 0 } |>.session 1).saveBase = 0 ∧ s.isHere (s.session 1).partner = false ∧
      (stMig { sesP .idle with mgctl := mgP ||| 32 } |>.session 1).recv = true) ∧
    (let s := stMig { sesP .round with joined := true };
      s.nextBlock (s.session 1) = some (0, 0x40000)) ∧
    (∀ x ∈ [{ sesP .round with joined := true, nextGpa := 0x10000 }, { sesP .round with joined := true, nextGpa := 0x10000, round := 7 },
        { sesP .round with joined := true, nextGpa := 0x10000, round := 2, lull := true, mgctl := mgP ||| 16 }],
      (stMig x).session 1 = x ∧ (stMig x).nextBlock x = none ∧ x.flight = [] ∧ (stMig x).changedCount x ≤ 262144 ∧ 16 ≤ x.share ∧ (stMig x).estimateOk x = true) ∧
    (let x := { sesP .round with joined := true, nextGpa := 0x10000, round := 2, mgctl := mgP ||| 16, dcnt := 1, changed := [0x40, 0x41] };
      (stMig x).nextBlock x = none ∧ 7 * x.dcnt < 8 * (stMig x).changedCount x ∧ x.mgctl.getLsbD 4 = true ∧ x.round + 1 < x.maxr) := by
  refine ⟨by decide, ⟨rfl, by decide +kernel, by decide, by decide +kernel, by decide +kernel, by decide +kernel, by decide +kernel, by decide +kernel,
    by decide +kernel⟩, by decide +kernel, by decide +kernel, by decide +kernel⟩

theorem wit_MigrationSessions_arrivals :
    (∀ x ∈ [sesP .receiving, sesP .round], ∀ b ∈ [Body.block 0x1000 [5, 6] false, .blockAck 0, .ask [], .answer true, .answer false, .told 1],
      ∃ p, (stArr x b).inboxAt 0 = some p ∧ p.body = b ∧ p.dst.func = ((stArr x b).session 1).func ∧ p.src = ((stArr x b).session 1).partner ∧
        (stArr x b).isHere p.src = false) ∧
    (let s := stArr (sesP .receiving) (.block 0x1000 [5, 6] false);
      s.sessionFor 0 partnerP (fun y => y.state == .receiving || y.state == .restore) = some 1 ∧ s2Host s 0 0x1000 .any = .ok 0x41000 ∧ s.memOk ∧
      s.sessionFor 0 partnerP (fun y => y.state != .idle) = some 1) ∧
    (let s := stArr (sesP .round) (.blockAck 0);
      s.sessionFor 0 partnerP (fun y => y.state == .round || y.state == .ship) = some 1 ∧
      s.sessionFor 0 partnerP (fun y => y.state == .round && !y.joined) = some 1) := by
  refine ⟨?_, ⟨by decide +kernel, ok_of (by decide +kernel), by unfold State.memOk; decide +kernel, by decide +kernel⟩, by decide +kernel, by decide +kernel⟩
  intro x hx b _
  have : ∀ x ∈ [sesP .receiving, sesP .round], x.func = 0 ∧ x.partner = partnerP := by decide
  exact ⟨_, rfl, rfl, (this x hx).1.symm, (this x hx).2.symm, rfl⟩


/-- The shortest image: a record of TYPE 0x10 and END. -/
def imgHead : List Byte := imageRec 0x10 0 0 0 []
def imgBytes (n : Nat) : List Byte := imgHead ++ imageRec 0x1F 0 0 0 (packBytes [(32, n), (32, 0)])
def imgOk : List Byte := imgHead ++ imageRec 0x1F 0 0 0 (packBytes [(32, 1), (32, crc32 imgHead)])
def sesR (st : MgState) : Session := { sesP st with drainAt := 5, stateAt := 9, rebinds := [], imageAcked := true, nextGpa := 0x10000 }
/-- A message of function 0 to the partner has begun. -/
def msgP : OutMsg := { dst := partnerP, firstAt := some 1 }

theorem wit_MigrationSteps :
    (let s := stMig (sesR .drain);
      s.drained (s.session 1) = true ∧ ({ s with msgs := [msgP] } : State).drained (s.session 1) = false ∧ s.clock < (s.session 1).drainAt + 320000 ∧
      (s.session 1).drainAt + 320000 ≤ ({ s with clock := 320005 } : State).clock) ∧
    (stMig (sesR .save)).saveReady 0 = true ∧ (stMig (sesR .ship)).nextBlock (sesR .ship) = none ∧
    (let s := { stMig (sesR .rebind) with blocks := [(0, { waves := [(0, wave0)] }), (4, { fn := 1 })], tasks := [{}] };
      s.blocks.sorted = true ∧ (∀ p ∈ s.blocks, p.2.fn = 0 → p.2.copies = [] ∧ p.2.stackCmds = [] ∧ ∀ w ∈ p.2.waves, w.2.acc = []) ∧
      ∀ j, j < 32 → (s.clusterOwner j = 0 ↔ s.clusterHolder j = 0) ∧ s.clusterRecl j = false) := by
  refine ⟨⟨by decide +kernel, by decide +kernel, by decide, by decide⟩, by decide +kernel, by decide +kernel, by decide, by decide, by decide +kernel⟩

theorem wit_MigrationSteps_arrivals :
    (∀ b ∈ [Body.mark, .markRelease, .markAck, .image 64 [1], .imageAck true, .rebind partnerP {}, .rebindAck],
      ∃ p, (stArr (sesR .drain) b).inboxAt 0 = some p ∧ p.body = b ∧ p.dst.func = 0 ∧ (stArr (sesR .drain) b).isHere p.src = false) ∧
    (stArr (sesR .drain) .mark).begunTo partnerP = false ∧ ({ stArr (sesR .drain) .mark with msgs := [msgP] } : State).begunTo partnerP = true ∧
    (∀ st ∈ [MgState.drain, .rebind], ∀ j, j < 1 → ((stArr (sesR st) .markAck).session j).func = 0 → ((stArr (sesR st) .markAck).session j).state ≠ st) ∧
    (stArr (sesP .receiving) (.image 64 [1])).sessionFor 0 partnerP (fun y => y.state == .receiving) = some 1 ∧
    ((sesP .receiving).image ++ [1]).length < 64 ∧ (readImage imgOk).isSome = true ∧ readImage (imgBytes 1) = none ∧
    (stArr (sesR .ship) (.imageAck true)).sessionFor 0 partnerP (fun y => y.state == .ship) = some 1 ∧
    (∀ g, g < 64 → ({ stArr (sesR .drain) (.rebind partnerP {}) with mem := [] } : State).vdnEntries g = []) := by
  refine ⟨fun b _ => ⟨_, rfl, rfl, rfl, rfl⟩, by decide +kernel, by decide +kernel, by decide, by decide +kernel, by decide, by decide +kernel,
    by decide +kernel, by decide +kernel, by decide +kernel⟩

/-- Function 0 has moved to the partner, and its table names the partner; function 1's table names none. -/
def stMoved (b : Body) : State :=
  { stArr (sesP .forward) b with moved := [⟨0, partnerP, 20⟩], mem := [(0x800001, 0xA0), (0x800002, 0x04), (0x800000, 1)].foldl (fun m p => memSet m p.1 p.2) memP }

theorem wit_MigrationSteps_forward :
    (∀ b ∈ [Body.read 4, .msg (.window 0 0 0) 4 0 [1, 2, 3, 4] false], (stMoved b).movedFn 0 = some ⟨0, partnerP, 20⟩ ∧
      (b.isAccess = true ∨ b.isMessage = true)) ∧
    (stMoved (.read 4)).names 0 partnerP = true ∧ (stMoved (.read 4)).clock < 20 ∧ 20 ≤ ({ stMoved (.read 4) with clock := 20 } : State).clock ∧
    ({ stMoved (.read 4) with mem := memP } : State).names 0 partnerP = false := by
  decide +kernel


/-! ### The fabric -/

/-- A work request of operation 5 lies at 0x1040 and a collective over one element at 0x1080; entry 1 of the table at 0x800000 names function 1 of member 5. -/
def memF : List Host.Cell :=
  [(0x1040, 5), (0x1083, 1), (0x10000, 1), (0x10002, 2), (0x20000, 0x3F), (0x20001, 0x40), (0x800008, 1), (0x800009, 0xA0), (0x80000A, 0x04)]
def vF : DWord := BitVec.ofNat 64 (1 + 5 * 2 ^ 13 + 2 ^ 18)
/-- s0 = 3; the pairs in s2, s4 and s6 hold 0x1040, 0x1080 and 9; s8 is a handle of slot 2 of list 3, s9 names entry 1. -/
def waveF : Wave :=
  { wave0 with s := [(0, ⟨3, false⟩), (2, ⟨0x1040, false⟩), (4, ⟨0x1080, false⟩), (6, ⟨9, false⟩), (8, ⟨BitVec.ofNat 32 (3 + 2 * 64), false⟩), (9, ⟨1, false⟩)] }
def recF : WorkRec := { slot := 2, record := 5, blk := 0, wave := 0 }
def fnF : Fn := { s1root := 0x10001, s2root := 0x10001, vdnbase := 0x800000, lists := [(3, { recs := [recF], tail := 3 })], counters := [(3, 10)] }
def stF (f : Fn) : State := { onMem (on0 {} waveF) memF with fns := [(0, f)] }
def encPost : Enc := { src0 := 194, src1 := 192, dst := 208 }
def encArm : Enc := { src0 := 200, src1 := 198, dst := 208 }
def encColl : Enc := { src0 := 196, dst := 208 }
def encVdnq : Enc := { src0 := 201, dst := 208 }
def encCnt : Enc := { src0 := 192, src1 := 198, dst := 3, fn := 1 }

theorem wit_FabricInstructions :
    let s := stF fnF
    let x := natOfBytes (s.bytesAt 0x1040 64)
    ((s.ctxWave c8).spec.sid = none ∧ (s.ctxWave c8).acc = [] ∧ s.plainMemory) ∧
    (Ready s (.wrpost encPost) encPost c8 ∧ (s.ctxWave c8).sCode encPost.src1 = ⟨3, false⟩ ∧ (s.ctxWave c8).sPair encPost.src0 = (0x1040, false) ∧
      s.readsAs c8 0x1040 64 (s.bytesAt 0x1040 64) ∧ x % 16 = 5 ∧ (∀ r ∈ ((s.fn 0).lists.get {} 3).recs, r.slot ≠ (3 + 0) % 256)) ∧
    (Ready s (.wrarm encArm) encArm c8 ∧ Ready s (.wrcan encArm) encArm c8 ∧ (s.ctxWave c8).sCode encArm.src0 = ⟨BitVec.ofNat 32 (3 + 2 * 64), false⟩ ∧
      ((s.fn 0).lists.get {} 3).recs.find? (fun r => r.slot == 2) = some recF ∧ (s.ctxWave c8).sPair encArm.src1 = (9, false)) ∧
    (∀ r ∈ ((s.fn 0).lists.get {} (3 % 64)).recs, r.slot ≠ 3 / 64 % 256) ∧
    (∀ i ∈ [Instr.collAllreduce encColl, .collAllgather encColl, .collReducescatter encColl, .collAlltoall encColl, .collBroadcast encColl],
      Ready s i encColl c8 ∧ (s.ctxWave c8).sPair encColl.src0 = (0x1080, false)) ∧
    s.readsAs c8 0x1080 64 (s.bytesAt 0x1080 64) ∧ natOfBytes (s.bytesAt 0x1080 64) = 2 ^ 24 ∧
    (Ready s (.vdnq encVdnq) encVdnq c8 ∧ (s.ctxWave c8).sCode encVdnq.src0 = ⟨1, false⟩ ∧ (s.fn 0).vdnCache.get? 1 = none ∧ s.vdnEntry 0 1 = vF) ∧
    Ready s (.ffence encCnt) encCnt c8 ∧ s.msgs = [] ∧ (s.fn 0).colls = [] ∧
    (∃ m ∈ ({ s with msgs := [{ record := some 1 }] } : State).msgs, m.fn = 0 ∧ m.blk = c8.blk ∧ m.wave = c8.wave ∧ m.record.isSome = true) ∧
    (Ready s (.cntadd encCnt) encCnt c8 ∧ Ready s (.cntwait encCnt) encCnt c8 ∧ (s.ctxWave c8).sCode encCnt.src0 = ⟨3, false⟩ ∧
      (s.ctxWave c8).sPair encCnt.src1 = (9, false) ∧ ((s.fn 0).counters.get 0 3 - 9).msb = false ∧
      (({ fnF with counters := [] } : Fn).counters.get 0 3 - 9).msb = true) := by
  refine ⟨⟨rfl, rfl, by unfold State.memOk; decide +kernel, rfl, by decide +kernel, rfl⟩,
    ⟨ready_of (by decide +kernel) (by decide), by decide +kernel, by decide +kernel,
      readsAs_dec (h := 0x1040) (x := xl 0x1040) (by decide +kernel) (by decide +kernel) (by decide +kernel) rfl (by decide +kernel), by decide +kernel, by decide +kernel⟩,
    ⟨ready_of (by decide +kernel) (by decide), ready_of (by decide +kernel) (by decide), by decide +kernel, by decide +kernel, by decide +kernel⟩, by decide +kernel, ?_,
    readsAs_dec (h := 0x1080) (x := xl 0x1080) (by decide +kernel) (by decide +kernel) (by decide +kernel) rfl (by decide +kernel), by decide +kernel,
    ⟨ready_of (by decide +kernel) (by decide), by decide +kernel, rfl, by decide +kernel⟩, ready_of (by decide +kernel) (by decide), rfl, rfl, by decide +kernel,
    ready_of (by decide +kernel) (by decide), ready_of (by decide +kernel) (by decide), by decide +kernel, by decide +kernel, by decide +kernel, by decide +kernel⟩
  intro i h
  have : ∀ i ∈ [Instr.collAllreduce encColl, .collAllgather encColl, .collReducescatter encColl, .collAlltoall encColl, .collBroadcast encColl],
    standsB (stF fnF) i encColl c8 = true := by decide +kernel
  exact ⟨ready_of (this i h) (by decide), by decide +kernel⟩


/-- A packet of the partner is first in function 0's inbox. -/
def stIn (f : Fn) (b : Body) : State :=
  { stF f with inbox := [{ src := partnerP, msgid := 3, seq := 4, addr := 0x1040, body := b }], args := [0], clock := 9 }
def fnW : Fn := { fnF with windows := [(2, { base := 0x1000, len := 64, ctr := 3, gen := 6, valid := true })] }
def fnC : Fn := { fnF with colls := [{ peers := [1, 2], record := 0x1000 * 2 ^ 384, blk := 0, wave := 0 }] }
def winMsg : Body := .msg (.window 2 6 8) 4 0 [1, 2, 3, 4] false
/-- A load of lane 0 by the partner's address is under way. -/
def accR : Access := { id := 3, lane := 0, core := 0, addr := 0x1040, kind := .load 4 false, dst := .v 8 1 4 false 0, remote := some (1, 0x1040), sentAt := 5 }
def waveQR : Wave :=
  { waveF with
    lanes := [(0, { cond := .blocked 2 })], batches := [], acc := [accR]
    waits := [(2, { lanes := 1, why := .remote 1 [], enc := encLd, acting := 1, nextPc := 8 })] }
def stResp (b : Body) : State := { stIn fnF b with blocks := [(0, { core := some 0, waves := [(0, waveQR)] })] }

theorem wit_FabricSteps_arrivals :
    (∀ b ∈ [Body.allow 5, .peerReset, .read 4, .write [1, 2] false, .atomic 0 4 7 0 false false, winMsg, .msgAck 4 0, .bitmap [2], .response 0 [1, 2, 3, 4] false],
      ∃ p, (stIn fnW b).inboxAt 0 = some p ∧ p.body = b ∧ p.src = partnerP ∧ p.dst.func = 0 ∧ p.addr = 0x1040 ∧ p.msgid = 3 ∧ (stIn fnW b).isHere p.src = false) ∧
    (let s := stIn fnC .peerReset;
      vdnOk (s.vdnEntry 0 1) = true ∧ vdnTriple (s.vdnEntry 0 1) = partnerP ∧ (s.fn 0).colls.map (fun d => (d.status, d.peers)) = [(none, [1, 2])]) ∧
    (let s := stIn fnW (.read 4);
      s.restoring 0 = false ∧ s.movedFn 0 = none ∧ s.refuses 0 partnerP = false ∧ ({ s with mem := memA } : State).refuses 0 partnerP = true ∧ s.poisonAt 0x1040 4 = false) ∧
    (∀ b ∈ [Body.read 4, .write [1, 2] false, .atomic 0 4 7 0 false false],
      let s := (stIn fnW b).dropInbox 0; s.s2Access 0 0x1040 b.acc = some (0x1040, s)) ∧
    (stIn fnW (.read 4)).plainMemory ∧ (stIn fnW (.read 4)).faulty = [] ∧
    (let s := stIn fnW winMsg;
      let x := (s.fn 0).windows.get {} (2 % 1024);
      x.valid = true ∧ x.gen = 6 ∧ 8 + 4 ≤ x.len ∧ s.inmsgs = [] ∧ ((s.dropInbox 0).fnWrite 0 (x.base.toNat + 8) [1, 2, 3, 4] false).1 = true ∧
        ((s.dropInbox 0).fnWrite 0 (x.base.toNat + 8) [1, 2, 3, 4] false).2.fns = s.fns) ∧
    (stIn fnW (.msgAck 4 0)).msg? 0 3 = none ∧ (stIn fnW (.response 0 [] false)).findAccess 0 3 = none ∧
    (let s := stResp (.response 0 [1, 2, 3, 4] false);
      s.findAccess 0 3 = some (0, 0, accR) ∧ (s.wave 0 0).acc = [accR] ∧ accR.more = [] ∧ accR.got = [] ∧ accR.tail = [] ∧ accR.gotBad = false ∧ (s.wave 0 0).late = [] ∧ (∃ m y, (s.wave 0 0).waits = [(m, y)] ∧ y.why = .remote (laneBit 0) [] ∧
        y.lanes.getLsbD 0 = true ∧ y.enc.stForm = false ∧ y.enc.mod.getLsbD 4 = false ∧ ((s.wave 0 0).lane 0).cond = .blocked m) ∧
      ∀ q ∈ s.blocks, ∀ v ∈ q.2.waves, ∀ z ∈ v.2.acc, z.held = false) := by
  refine ⟨fun b _ => ⟨_, rfl, rfl, rfl, rfl, rfl, rfl, rfl⟩, by decide +kernel, by decide +kernel, by decide +kernel,
    ⟨by unfold State.memOk; decide +kernel, rfl, by decide +kernel, rfl⟩, rfl, by decide +kernel, rfl, by decide +kernel,
    by decide +kernel, rfl, rfl, rfl, rfl, rfl, rfl, ⟨_, _, rfl, rfl, by decide, by decide, by decide, rfl⟩, by decide⟩

/-- The access's time passes at clock 800,005; a counter wait's at 5. -/
def stLate (c : Nat) : State := { stResp (.read 4) with args := [0, 0, 3], clock := c }
def waveCnt : Wave :=
  { wave0 with lanes := [(0, { cond := .blocked 3 })], batches := [], waits := [(3, { lanes := 1, why := .cnt 3 9 5, enc := encCnt, acting := 1, nextPc := 8 })] }
def stCnt (c : Nat) : State := { onMem (on0 {} waveCnt) memA with args := [0, 0, 3], clock := c }

theorem wit_FabricSteps_waits :
    (stLate 9).accOf 0 0 3 = some accR ∧ accR.remote = some (1, 0x1040) ∧ accR.held = false ∧ (stLate 9).clock < accR.sentAt + 800 * max 1 (fnF.fabctl.toNat % 65536) ∧
    accR.sentAt + 800 * max 1 (fnF.fabctl.toNat % 65536) ≤ (stLate 800005).clock ∧ ((stLate 9).wave 0 0).spec.sid = none ∧
    (stCnt 4).clock < 5 ∧ 5 ≤ (stCnt 5).clock ∧ encCnt.fn.getLsbD 0 = true ∧
    (∃ y, ((stCnt 5).wave 0 0).waits = [(3, y)] ∧ y.why = .cnt 3 9 5 ∧ y.lanes ≠ 0 ∧ y.acting &&& ~~~y.lanes = 0 ∧
      ∀ l, y.lanes.getLsbD l = true ↔ (((stCnt 5).wave 0 0).lane l).cond = .blocked 3) := by
  refine ⟨by decide +kernel, rfl, rfl, by decide +kernel, by decide +kernel, rfl, by decide, by decide, by decide, ⟨_, rfl, rfl, by decide, by decide, fun l => ?_⟩⟩
  by_cases h : l < 32
  · revert l; decide +kernel
  · rw [BitVec.getLsbD_of_ge _ _ (by omega)]
    rcases l with _ | l
    · omega
    · exact iff_of_false (by simp) (by
        have : ((stCnt 5).wave 0 0).lane (l + 1) = {} := rfl
        rw [this]; decide)

/-- List 3's first record, due when counter 3 has reached 9; its operation, END set, counter 3, window 2, entry 1 of the table. -/
def recOp (op : Nat) : WorkRec :=
  { slot := 2, record := op + 2 ^ 6 + 2 ^ 16 + 2 * 2 ^ 32 + 3 * 2 ^ 48 + 0x1000 * 2 ^ 64 + 64 * 2 ^ 192 + 3 * 2 ^ 224 + 5 * 2 ^ 256 + 3 * 2 ^ 384, thr := some 9 }
def stFire (g : Nat) (rs : List WorkRec) : State :=
  { stF { fnF with lists := [(3, { recs := rs, tail := 3 })], windows := [(2, { gen := g })] } with args := [0, 3], clock := 2 ^ 40 }

theorem wit_FabricSteps_fire :
    (∀ op ∈ [1, 3, 4, 5], let s := stFire 0 [recOp op]
      ((s.fn 0).lists.get {} (3 % 64)).recs = [recOp op] ∧ (recOp op).record % 16 = op ∧ (recOp op).thr = some 9 ∧
      ((s.fn 0).counters.get 0 ((recOp op).record / 2 ^ 384 % 2 ^ 12) - 9).msb = false) ∧
    ({ recOp 4 with thr := none } : WorkRec).thr = none ∧
    (stFire 0 [recOp 3]).genWaits 0 2 = false ∧ (stFire 127 [recOp 3]).genWaits 0 2 = false ∧
    ({ stFire 127 [recOp 3] with clock := 0 } : State).genWaits 0 2 = true ∧
    (recOp 1).record / 2 ^ 16 % 2 ^ 15 = 1 ∧ ((stFire 0 [recOp 1]).fn 0).vdnCache = [] ∧ vdnOk ((stFire 0 [recOp 1]).vdnEntry 0 1) = true ∧
    (stFire 0 [recOp 1]).isHere (vdnTriple ((stFire 0 [recOp 1]).vdnEntry 0 1)) = false := by decide +kernel

/-- A message that was sent; its clock; a sprayed packet of it. -/
def pkt7 (sp : Bool) : Packet := { dst := partnerP, msgid := 6, spray := sp, body := .msg (.window 2 6 0) 4 0 [1] false }
def stMsg (code : Option Nat) (dst : Triple) (c : Nat) : State :=
  { stF fnF with args := [0, 6, 0], clock := c, msgs := [{ id := 6, dst := dst, record := some (recOp 0).record, firstAt := some 5, code := code, pkts := [pkt7 true], lastAt := [(0, 5)] }] }
def stInm (m : InMsg) (c : Nat) : State := { stF fnF with args := [0], clock := c, inmsgs := [m] }
def stColl (st : Option Nat) : State := { stF { fnF with colls := [{ record := 0x1000 * 2 ^ 384 + 3 * 2 ^ 40, status := st }] } with args := [0, 0] }

theorem wit_FabricSteps_messages :
    (∀ k ∈ [none, some 0, some 4], (stMsg k partnerP 6).msg? 0 6 = some ((stMsg k partnerP 6).msgs.headD {})) ∧
    (∃ m, (stMsg none {} 6).msg? 0 6 = some m ∧ m.firstAt = some 5 ∧ m.code = none ∧ m.cid = none ∧ (stMsg none {} 6).isHere m.dst = true ∧
      m.pkts.find? (fun p => p.body.index == 0) = some (pkt7 true) ∧ m.lastAt.get? 0 = some 5 ∧ 0 ∉ m.acked) ∧
    5 + 6400 ≤ (stMsg none partnerP 6405).clock ∧ (stMsg none partnerP 6405).clock < 5 + 800 * max 1 (((stMsg none partnerP 6405).fn 0).fabctl.toNat % 65536) ∧
    5 + 800 * max 1 (((stMsg none partnerP 6405).fn 0).fabctl.toNat % 65536) ≤ (stMsg none {} 800005).clock ∧
    (stInm { since := 5 } 1605).inmsgs[0]? = some { since := 5 } ∧ 5 + 1600 ≤ (stInm { since := 5 } 1605).clock ∧
    ((stColl (some 8)).coll? 0 0).isSome = true ∧ ((stColl (some 8)).coll? 0 0).bind ((stColl (some 8)).collStatus 0) = some 8 ∧
    ((stColl none).coll? 0 0).isSome = true ∧ ((stColl none).coll? 0 0).bind ((stColl none).collStatus 0) = none :=
  ⟨by decide +kernel, ⟨_, rfl, rfl, rfl, rfl, by decide, by decide +kernel, rfl, by decide⟩, by decide +kernel, by decide +kernel, by decide +kernel, rfl, by decide,
    by decide +kernel, by decide +kernel, by decide +kernel, by decide +kernel⟩

/-- Port 3 leads to member 5. -/
def stHop (p : Packet) (us : Nat) : State :=
  { stF fnF with args := [0], egress := [p], rtmem := [(5, 7)], ports := [(3, { state := .active })], channels := [{ func := 0, dst := partnerP, tc := 0, units := us }] }

theorem wit_FabricSteps_hop :
    (stHop (pkt7 false) 4).heldByMark (pkt7 false) = false ∧ (stHop (pkt7 false) 4).behind 0 (pkt7 false) = false ∧ (pkt7 false).body.isResponse = false ∧
    (stHop (pkt7 false) 4).chanUnits 0 partnerP 0 = 4 ∧ (stHop (pkt7 false) 0).chanUnits 0 partnerP 0 = 0 ∧ ((stHop (pkt7 false) 4).planned (pkt7 false)).hops < 5 ∧
    ((stHop (pkt7 false) 4).candidates ((stHop (pkt7 false) 4).planned (pkt7 false))).find? (fun a => ((stHop (pkt7 false) 4).port a).usable) = some 3 ∧
    ({ stHop (pkt7 false) 4 with marked := [partnerP] } : State).heldByMark (pkt7 false) = true ∧
    15600 ≤ 15600 + ((stHop { pkt7 false with fresh := false, age := 15600 } 4).clock - 0) / 102400 := by decide +kernel


/-! ### Ports -/

def stPort (x : Port) (args : List Nat) : State :=
  { onMem {} memA with ports := [(3, x)], args := args, clock := 1000000, mgmt := { rdy0 := 0xFFFFFFFFFFFF, rdy1 := 8 } }
def key1 : PortKey := { kid := 1, secret := [7] }
def full3 : BitVec 32 := BitVec.ofNat 32 (2 ^ portWidth 3 - 1)
/-- What port 9 of member 5 sends over a link on all lanes. -/
def summary9 : List Byte :=
  (({ stPort {} [] with member := 5, ports := [(9, { lock := full3, pending := some key1 })] } : State).summarySlot 9 1).take 64
def portSum (k : Nat) : Port := { state := .summary, lock := full3, pending := some { key1 with kid := k }, partner := some summary9, startSent := true, startGot := true, stateAt := 5 }
def slot0 : List Byte := List.replicate 248 0 ++ bytesOfNat 8 (crc64 (List.replicate 248 0))

theorem wit_PortSteps :
    portExists 3 = true ∧ (stPort {} [3]).portReady 3 = true ∧ (stPort { pctl := 0x81 } [3]).args = [3] ∧
    (stPort (portSum 1) [3]).mcodeOf 3 summary9 = 0 ∧ (stPort (portSum 2) [3]).mcodeOf 3 summary9 = 6 ∧
    (stPort { portSum 1 with lock := 0 } [3]).mcodeOf 3 summary9 = 5 ∧
    (portSum 1).stateAt + 80000 ≤ (stPort (portSum 1) [3]).clock ∧ (portSum 1).stateAt + 800000 ≤ (stPort (portSum 1) [3]).clock ∧
    (stPort {} [3]).mgmt.ev ≠ .drain ∧ 0 + 800000000 ≤ ({ stPort {} [3] with clock := 800000000 } : State).clock ∧
    (∀ f ∈ [(⟨0, true, 0, [], 5⟩ : SentFlit)], f.sentAt + 3200 ≤ (stPort {} [3]).clock) ∧ (1000000 : Nat) < 999000 + 3200 ∧
    (({} : Port).group 3 (BitVec.ofNat 32 ((2 ^ 32 - 1) % 2 ^ portWidth 3))).isSome = true ∧ ({} : Port).group 3 (BitVec.ofNat 32 (0 % 2 ^ portWidth 3)) = none ∧
    7 % 65536 ≠ 0 := by
  decide +kernel

theorem wit_PortSteps_slot :
    natOfBytes (slot0.drop 248) = crc64 (slot0.take 248) ∧ natOfBytes (slot0.take 8) % 256 = 0 ∧ natOfBytes (slot0.take 8) / 2 ^ 40 = 0 := by decide +kernel


/-! ### Management -/

def stMan (m : Mgmt) (args : List Nat) : State := { onMem {} memA with mgmt := m, args := args, clock := 24000000000 }
def stWin (fn off size v : Nat) : State := stMan { rdy0 := 0xFFFFFFFFFFFF } [fn, off, size, v]
def sesI : Session := { mgctl := mgP, mgsave := 0x80000 }
/-- An ARM request of the partner, or its answer, has come. -/
def stArm (b : Body) (ss : List (Nat × Session)) : State :=
  { stMan { rdy0 := 0xFFFFFFFFFFFF, save := 0x80000 } [0] with inbox := [{ src := partnerP, body := b }], sessions := ss, dbmap := 1 }

theorem wit_ManagementSteps :
    (∀ b ∈ [true, false], (stMan { powered := b } [0, 7, 1]).mgmt.powered = b) ∧ (stMan {} []).ready ((stMan {} []).clusterOwner (20 - 16)) = false ∧ electrical 3 = true ∧
    (({ stMan { powered := true } [1, 3, 1] with ports := [(3, { pctl := 0x81 })] } : State).port 3).pctl.getLsbD 0 = true ∧
    (({ powered := true } : Mgmt).i3cStarted = false ∧ 0 + 80000000 ≤ (stMan { powered := true } []).clock) ∧
    portExists 3 = true ∧ portExists 31 = false ∧ 5 % 65536 ≠ 0 ∧
    (∃ u d, (u, d) ∈ ({ stMan {} [Config.stackOf 0 % 16] with faulty := [(0, false)] } : State).faulty ∧ u < sliceBase ∧ Config.stackOf u % 16 = Config.stackOf 0 % 16) ∧
    (∀ f, 0 < f → f < 64 → (stMan {} []).enabled f = true → (({} : Mgmt).evlist.get 0 f).getLsbD 0 = true) ∧
    (∃ f, 0 < f ∧ f < 64 ∧ ({ stMan {} [] with fns := [(2, { fcfg := 1 })] } : State).enabled f = true ∧ (({} : Mgmt).evlist.get 0 f).getLsbD 0 = false) ∧
    (∃ f, f < 64 ∧ (({ evlist := [(2, 1)] } : Mgmt).evlist.get 0 f).getLsbD 0 = true) ∧
    (∀ f, f < 64 → (({} : Mgmt).evlist.get 0 f).getLsbD 0 = false) ∧
    5 + 800000 ≤ (stMan {} []).clock ∧ 0 + 24000000000 ≤ (stMan {} []).clock := by
  refine ⟨by decide, by decide +kernel, by decide, by decide, ⟨rfl, by decide⟩, by decide, by decide, by decide, ⟨0, false, by decide, by decide, rfl⟩, ?_, ⟨2, by decide, by decide, by decide, rfl⟩,
    ⟨2, by decide, by decide⟩, by decide, by decide, by decide⟩
  intro f h hl hf
  have : ∀ f, f < 64 → 0 < f → (stMan {} []).enabled f = false := by decide +kernel
  rw [this f hl h] at hf; cases hf

theorem wit_ManagementSteps_arm :
    (∀ b ∈ [Body.arm 0, .armAns 0 0, .armAns 1 0], ∃ p, (stArm b []).inboxAt 0 = some p ∧ p.body = b ∧ p.dst.func < 64) ∧
    (let s := stArm (.arm 0) [(0, { state := .round }), (1, { state := .round }), (2, { state := .round }), (3, { state := .round })];
      ∀ k, k < 4 → (s.session k).state ≠ .idle) ∧
    (let s := stArm (.arm 0) [];
      (s.session 0).state = .idle ∧ s.mgmt.arming = [] ∧ s.mgmt.save ≠ 0 ∧ s.enabled 0 = true ∧ s.canReceive 0 (s.logicalParts 0) = true) ∧
    (({ stArm (.armAns 0 0) [(1, sesI)] with mgmt := { rdy0 := 0xFFFFFFFFFFFF, arming := [(0, 1, 5)] } } : State).dropInbox 0).goChecks 1 = true :=
  ⟨fun b _ => ⟨_, rfl, rfl, show (0 : Nat) < 64 by decide⟩, by decide, by decide +kernel, by decide +kernel⟩

theorem wit_ManagementSteps_registers :
    (∀ p ∈ [(0x088, 8, 127), (0x088, 4, 127), (0x08C, 4, 1), (0x100, 8, 5), (0x138, 8, 5), (0x044, 4, 0xFFFFFF), (0x3F8, 8, 1)],
      (stWin 1 p.1 p.2.1 p.2.2).args = [1, p.1, p.2.1, p.2.2] ∧ ((stWin 1 p.1 p.2.1 p.2.2).fn 1).resetting = false ∧ p.1 < 0x10000 ∧ p.1 % p.2.1 = 0) ∧
    (({ stWin 1 0x088 8 1 with fns := [(1, { resetting := true })] } : State).fn 1).resetting = true ∧ ¬ (2 = 4 ∧ 0x88 % 4 = 0) ∧ ¬ (2 = 8 ∧ 0x88 % 8 = 0) := by
  decide +kernel


/-! ### All instructions -/

/-- IADD under q0, which lane 0 holds false. -/
def encOff : Enc := { encR with prd := 0 }
def cOff : Ctx := { c8 with acting := 0 }

theorem wit_GuardedOff :
    Stands stR (.iadd encOff) encOff cOff ∧ cOff.acting = 0 ∧ (Instr.iadd encOff).form = some (0x20, encOff) ∧
    ¬ (0x58 ≤ (0x20 : BitVec 8).toNat ∧ (0x20 : BitVec 8).toNat ≤ 0x5C) ∧ ¬ (0xB0 ≤ (0x20 : BitVec 8).toNat ∧ (0x20 : BitVec 8).toNat ≤ 0xBF) ∧
    (∀ a ∈ (stR.ctxWave cOff).acc, a.dst.regs = none) :=
  ⟨stands_of (by decide +kernel), rfl, rfl, by decide, by decide, by decide +kernel⟩

def stStr : State := { onMem {} memA with cur := some (.stream 0), blocks := [(0, { core := some 0, stream := some {} })] }

theorem wit_NeverRefused :
    Instr.powerGood.form = none ∧ stR.ctx encR = some c8 ∧ (Instr.iadd encR).form = some (0x20, encR) ∧ streamOp 0x20 = false ∧
    (∃ m, stStr.cur = some (.stream 0) ∧ (stStr.block 0).stream = some m ∧ m.live = true) ∧ streamOp 0xB0 = true ∧ mxOp 0xB0 = false ∧
    (Instr.mma {}).form = some (0xB0, {}) := by
  refine ⟨rfl, by decide +kernel, rfl, by decide, ⟨_, rfl, rfl, rfl⟩, by decide, by decide, rfl⟩

theorem wit_EncodingRoundTrip :
    (Instr.nlut { fn := 1, dst := 5, src0 := 3, src1 := 200, ver := 2, prd := 31 }).wellFormed = true ∧
    encode (.nlut { fn := 1, dst := 5, src0 := 3, src1 := 200, ver := 2, prd := 31 }) = some (bytesOfNat 8 0x01FC8018140014F8) ∧
    decode (bytesOfNat 8 0x01FC8018140014F8) = .instr (.nlut { fn := 1, dst := 5, src0 := 3, src1 := 200, ver := 2, prd := 31 }) := by decide +kernel

/-- JOIN lies where the wave of block 0 fetches; lane 0 is the only lane. -/
def encJoin : Enc := { ver := 2, prd := 31 }
def agStep : Agent := .wave 0 0 0
def stStep : State := State.reset.withFetchWord 64 0x01F0000000000098
def runStep : State := { stStep.begin.turn.2 with cur := some agStep }

theorem wit_StepRunsDecoded_turn :
    stStep.begin.turn.1 = .agent agStep ∧ stStep.begin.turn.2.issues agStep = true ∧ (runStep.agentPc agStep).1 = 0 ∧
    (runStep.xreq 0).fn = 0 ∧ (runStep.xreq 0).core = 0 ∧ runStep.faulty = [] ∧ runStep.poisonAt 0 32 = false := by
  decide +kernel

theorem wit_StepRunsDecoded_word :
    (∃ x u, translate runStep (runStep.xreq 0) 0 .fetch = (.ok x, u) ∧ runStep.walked u ∧ x.place.host u (some 0) = some 0) ∧
    runStep.staleCode 0 (runStep.coreOf 0) 0 = [] ∧
    decode (runStep.bytesAt 0 32) = .instr (.join encJoin) ∧ ((runStep.fn 0).disabled 0x09 false) = false ∧
    runStep.roleAllows agStep (padsToEnd 4 (runStep.bytesAt 0 32) 0) 0x09 = true ∧ (Instr.join encJoin).form = some (0x09, encJoin) ∧
    ({ State.reset with agenda := [{ step := .powerGood }] } : State).begin.agenda = [{ step := .powerGood }] ∧
    State.reset.begin.agenda = [] ∧ State.reset.begin.forced = none ∧ State.reset.begin.agents = [] := by
  have hx : (runStep.hbmXlat 0 0 0 .fetch).map (fun x => x.place) = some (.hbm 0) := by decide +kernel
  obtain ⟨x, hx, hp⟩ := Option.map_eq_some_iff.1 hx
  obtain ⟨u, h1, h2, _⟩ := translate_hbm (coherent_of (s := runStep) (fn := 0) (vas := [0]) (by decide +kernel)) (List.mem_singleton.2 rfl) hx (some 0)
  have hq : runStep.xreq 0 = ⟨0, some 0, 0⟩ := by decide +kernel
  rw [← hq] at h1
  refine ⟨⟨x, u, h1, h2, by rw [hp]; rfl⟩, ?_⟩
  decide +kernel

theorem wit_StepKeepsMemory : stStep.memOk ∧ ∃ t, step stStep = .next t := by
  have h : (match step stStep with | .next _ => true | _ => false) = true := by decide +kernel
  refine ⟨by unfold State.memOk; decide +kernel, ?_⟩
  revert h
  cases step stStep with
  | next t => exact fun _ => ⟨t, rfl⟩
  | fault _ => exact fun h => nomatch h
  | refused _ => exact fun h => nomatch h

end Sys2Proof.Tests
end

section
/-!
Predicate instructions (R94 to R99): PCMP, PLOG, PMOV, PLDM and VOTE as per-fibre computations, and the obligation O10.
-/

namespace Sys2Proof.Machine

/-! ### Per-fibre instructions -/

/-- An instruction that issues a per-fibre computation completes where every acting lane has a result, and writes it. -/
theorem exec_lanes {s : State} {i : Instr} {e : Enc} {c : Ctx} {f : Ctx → Wave → Nat → Except Cause LaneRes} {r : Nat → LaneRes}
    (hx : exec i s = s.issue i e false (lanesBody e f)) (hu : endsClean i = false) (h : Ready s i e c) (hc : CanRead s i c e)
    (hr : ∀ l, c.acting.getLsbD l = true → f c (s.ctxWave c) l = .ok (r l)) :
    ∃ t, exec i s = .next t ∧ WroteLanes s t c e r :=
  hx ▸ issue_lanes h false nofun hc hu f _ rfl r hr

/-- A ready instruction completes and writes b to its destination predicate in every acting lane. -/
def SetsPredicate (s : State) (i : Instr) (e : Enc) (c : Ctx) (b : Nat → Bool) : Prop :=
  Ready s i e c → CanRead s i c e → ∃ t, exec i s = .next t ∧ WroteLanes s t c e (fun l => { preds := [(e.dst.toNat, b l)] })

theorem setsPredicate_of_lanes {s : State} {i : Instr} {e : Enc} {c : Ctx} {f : Ctx → Wave → Nat → Except Cause LaneRes}
    {b : Nat → Bool} (hx : exec i s = s.issue i e false (lanesBody e f)) (hu : endsClean i = false)
    (hr : ∀ l, c.acting.getLsbD l = true → f c (s.ctxWave c) l = .ok { preds := [(e.dst.toNat, b l)] }) :
    SetsPredicate s i e c b :=
  fun h hc => exec_lanes hx hu h hc hr

/-- A computation goes on with the answer before it. -/
@[simp] theorem except_ok_bind {α β : Type} (a : α) (k : α → Except Cause β) : (Except.ok a >>= k) = k a := rfl

/-- A consumed clean word is its value. -/
@[simp] theorem PWord.use_clean (x : Word) : PWord.use ⟨x, false⟩ = .ok x := rfl

/-- A consumed clean 64-bit value is its value. -/
@[simp] theorem useD_clean (x : DWord) : useD (x, false) = .ok x := rfl

/-! ### Compares (R62, R94, R95) -/

/-- The relations of R62, GT as the negation of both LT and EQ. -/
theorem relation_table (n : Nat) (lt eq : Bool) : relation n lt eq =
    match n with | 0 => eq | 1 => !eq | 2 => lt | 3 => lt || eq | 4 => !lt && !eq | 5 => !lt | _ => false :=
  match n with
  | 0 | 1 | 2 | 3 | 5 | _ + 6 => rfl
  | 4 => Bool.not_or lt eq

/-- The compare of two integers orders them as bit vectors do. -/
theorem intCompare_eq_relation (rel : Nat) (signed : Bool) {n : Nat} (a b : BitVec n) :
    intCompare rel signed a b = relation rel (if signed then a.slt b else a.ult b) (a == b) := rfl

/-- PCMP on I32 and U32. -/
theorem pcmp_words (s : State) (e : Enc) (c : Ctx) (a b : Nat → Word) (ht : e.cmpType ≤ 1)
    (hab : ∀ l, c.acting.getLsbD l = true → (s.ctxWave c).src0 l e = .ok ⟨a l, false⟩ ∧
      (s.ctxWave c).srcB l e (if e.cmpType = 0 then .sign else .zero) = .ok ⟨b l, false⟩) :
    SetsPredicate s (.pcmp e) e c (fun l =>
      relation e.cmpRel (if e.cmpType = 0 then (a l).slt (b l) else (a l).ult (b l)) (a l == b l)) := by
  refine setsPredicate_of_lanes rfl rfl fun l hl => ?_
  obtain ⟨ha, hb⟩ := hab l hl
  have h56 : ¬(e.cmpType = 5 ∨ e.cmpType = 6) := by omega
  have h2 : e.cmpType ≠ 2 := by omega
  simp only [if_neg h56, if_neg h2, if_pos ht, ha, hb, except_ok_bind, PWord.use_clean, intCompare_eq_relation, beq_iff_eq]

/-- PCMP on I64 and U64. -/
theorem pcmp_pairs (s : State) (e : Enc) (c : Ctx) (a b : Nat → DWord) (ht : e.cmpType = 5 ∨ e.cmpType = 6)
    (hab : ∀ l, c.acting.getLsbD l = true → (s.ctxWave c).readPair l e.src0 = .ok (a l, false) ∧
      (s.ctxWave c).srcBD l e (e.cmpType == 5) = .ok (b l, false)) :
    SetsPredicate s (.pcmp e) e c (fun l =>
      relation e.cmpRel (if e.cmpType = 5 then (a l).slt (b l) else (a l).ult (b l)) (a l == b l)) := by
  refine setsPredicate_of_lanes rfl rfl fun l hl => ?_
  obtain ⟨ha, hb⟩ := hab l hl
  simp only [if_pos ht, ha, hb, except_ok_bind, useD_clean, intCompare_eq_relation, beq_iff_eq]

/-- PCMP on F32, F16 and BF16: by the exact values, or by the rule for NaNs with its INVALID flag. -/
theorem pcmp_floats (s : State) (e : Enc) (c : Ctx) (a b : Nat → Word) (ht : 2 ≤ e.cmpType ∧ e.cmpType ≤ 4)
    (h : Ready s (.pcmp e) e c) (hc : CanRead s (.pcmp e) c e)
    (hab : ∀ l, c.acting.getLsbD l = true → (s.ctxWave c).src0 l e = .ok ⟨a l, false⟩ ∧
      (s.ctxWave c).srcB l e (if e.cmpType = 2 then .high else .zero) = .ok ⟨b l, false⟩) :
    ∃ t, exec (.pcmp e) s = .next t ∧ WroteLanes s t c e (fun l =>
      let f := fmtOf (e.cmpType - 2)
      let p := f.unpack (f.low (a l))
      let q := f.unpack (f.low (b l))
      if p.isNan || q.isNan then
        { preds := [(e.dst.toNat, e.cmpRel == 1 || e.cmpRel == 6)]
          flags := if p.isSnan || q.isSnan || (decide (2 ≤ e.cmpRel) && decide (e.cmpRel ≤ 5)) then 1 else 0 }
      else { preds := [(e.dst.toNat, relation e.cmpRel (p.lt q) (p.eq q))] }) := by
  refine exec_lanes rfl rfl h hc fun l hl => ?_
  obtain ⟨ha, hb⟩ := hab l hl
  have h56 : ¬(e.cmpType = 5 ∨ e.cmpType = 6) := by omega
  have h0 : e.cmpType ≠ 0 := by omega
  have h1 : ¬e.cmpType ≤ 1 := by omega
  simp only [if_neg h56, if_neg h0, if_neg h1, ha, hb, except_ok_bind, PWord.use_clean, floatCompare]
  split <;> rfl

/-! ### Moves, loads and votes (R97 to R99) -/

/-- PMOV.RD gives the predicate word with bit 31 set. -/
theorem pmovRd_words (s : State) (e : Enc) (c : Ctx) (h : Ready s (.pmovRd e) e c) (hc : CanRead s (.pmovRd e) c e)
    (hd : ∀ l, c.acting.getLsbD l = true → (s.ctxWave c).dstOk l e 1 = true) :
    ∃ t, exec (.pmovRd e) s = .next t ∧ WroteLanes s t c e (fun l => word1 (((s.ctxWave c).lane l).pred ||| 0x80000000)) :=
  exec_lanes rfl rfl h hc fun l hl => if_pos (hd l hl)

/-- PMOV.WR writes q0 to q30 from the bits of its source. -/
theorem pmovWr_preds (s : State) (e : Enc) (c : Ctx) (a : Nat → Word) (h : Ready s (.pmovWr e) e c) (hc : CanRead s (.pmovWr e) c e)
    (ha : ∀ l, c.acting.getLsbD l = true → (s.ctxWave c).src0 l e = .ok ⟨a l, false⟩) :
    ∃ t, exec (.pmovWr e) s = .next t ∧
      WroteLanes s t c e (fun l => { preds := (List.range 31).map (fun n => (n, (a l).getLsbD n)) }) :=
  exec_lanes rfl rfl h hc fun l hl => by simp only [ha l hl, except_ok_bind, PWord.use_clean]

/-- PLDM sets the predicate of lane l to bit l of its source. -/
theorem pldm_predicate (s : State) (e : Enc) (c : Ctx) (m : Word) (hm : (s.ctxWave c).sCode e.src0 = ⟨m, false⟩) :
    SetsPredicate s (.pldm e) e c (fun l => m.getLsbD l) :=
  setsPredicate_of_lanes rfl rfl fun l _ => by simp only [hm, except_ok_bind, PWord.use_clean]

/-- A vote writes its verdict on the participants' predicates to every one of them. -/
theorem vote_predicate {s : State} {i : Instr} {e : Enc} {c : Ctx} {g : List Bool → Bool} {v : Bool}
    (hx : exec i s = s.issue i e false (voteBody e g)) (hu : endsClean i = false)
    (hv : g ((lanesOf c.acting).map (fun l => qSrc0 (s.ctxWave c) l e)) = v) : SetsPredicate s i e c (fun _ => v) :=
  setsPredicate_of_lanes hx hu fun _ _ => hv ▸ rfl

/-- The lanes of m whose predicate SRC0 names holds, after its negation bit (R99). -/
def votedMask (w : Wave) (e : Enc) (m : BitVec 32) : Word := maskOf ((lanesOf m).filter (fun l => qSrc0 w l e))

theorem votedMask_getLsbD (w : Wave) (e : Enc) (m : BitVec 32) (l : Nat) (hl : l < 32) :
    (votedMask w e m).getLsbD l = (m.getLsbD l && qSrc0 w l e) := by
  rw [votedMask, maskOf_getLsbD _ _ hl, Bool.eq_iff_iff]
  simp only [decide_eq_true_eq, List.mem_filter, mem_lanesOf, Bool.and_eq_true]

/-- VOTE.MASK writes the mask of the participants whose predicate holds. -/
theorem voteMask_word (s : State) (e : Enc) (c : Ctx) (h : Ready s (.voteMask e) e c) (hc : CanRead s (.voteMask e) c e) :
    ∃ t m, exec (.voteMask e) s = .next t ∧ WroteUniform s t c e [⟨m, false⟩] ∧
      ∀ l, l < 32 → (m : Word).getLsbD l = (c.acting.getLsbD l && qSrc0 (s.ctxWave c) l e) :=
  have ⟨t, ht, hw⟩ := issue_uniform h hc rfl (fun c w => .ok [⟨votedMask w e c.acting, false⟩]) _ rfl _ rfl
  ⟨t, votedMask (s.ctxWave c) e c.acting, ht, hw, votedMask_getLsbD (s.ctxWave c) e c.acting⟩

/-! ### The obligation -/

/-- Settles O10: each predicate instruction issues a per-fibre computation, VOTE.MASK a uniform one; the relations are those of
`relation_table`. -/
theorem predicates : Obligations.Predicates := by
  intro s e c w rel x y set
  have hrel : relation = rel := funext fun n => funext fun lt => funext fun eq => relation_table n lt eq
  rw [← hrel]
  refine ⟨pcmp_words s e c, pcmp_pairs s e c, pcmp_floats s e c, ?plog, ?pmov, pmovRd_words s e c, pmovWr_preds s e c,
    pldm_predicate s e c, ?some, ?every, ?same, voteMask_word s e c⟩
  case plog => exact fun _ => setsPredicate_of_lanes rfl rfl fun _ _ => rfl
  case pmov => exact setsPredicate_of_lanes rfl rfl fun _ _ => rfl
  case some => exact vote_predicate rfl rfl List.any_map
  case every => exact vote_predicate rfl rfl List.all_map
  case same => exact vote_predicate rfl rfl (congr (congrArg or List.all_map) List.all_map)

end Sys2Proof.Machine
end

section
/-!
The vector engine (R148 to R167): integer elements, products, shifts, bits and fields, moves, packed floats, byte tables and the
cross-lane instructions as per-fibre computations, and the obligations O2, O3, O4, O5, O8 and O9.
-/

namespace Sys2Proof.Machine

/-! ### What a per-fibre instruction writes -/

/-- A destination that lies in the window takes the result. -/
theorem Wave.withDst_of_dstOk {w : Wave} {l n : Nat} {e : Enc} (r : Except Cause LaneRes) (h : w.dstOk l e n = true) :
    w.withDst l e n r = r := if_pos h

/-- The model compares FN by its number. -/
theorem Enc.fn_eq_zero_iff (e : Enc) : e.fn = 0 ↔ e.fn.toNat = 0 := BitVec.toNat_inj.symm

/-- The result words made of the elements g: a pair for the types of 64 bits, else one register. -/
def elemWords (it : Nat) (g : Nat → Nat) : List Word :=
  if itBits it = 64 then dwords (BitVec.ofNat 64 (g 0)) else [BitVec.ofNat 32 (mapElems (itBits it) 32 g)]

theorem elemWords_length (it : Nat) (g : Nat → Nat) : (elemWords it g).length = if itBits it = 64 then 2 else 1 := by
  unfold elemWords; split <;> rfl

theorem elemAt_elemWords (it : Nat) (g : Nat → Nat) (k : Nat) (hk : itBits it * (k + 1) ≤ 32 * (elemWords it g).length) :
    elemAt (itBits it) (wordsNat (elemWords it g)) k = g k % 2 ^ itBits it := by
  rw [elemWords_length] at hk
  unfold elemWords
  by_cases h : itBits it = 64
  · rw [if_pos h] at hk ⊢
    rw [h] at hk ⊢
    obtain rfl : k = 0 := by omega
    exact elemAt_dwords (g 0) 0 hk
  · rw [if_neg h] at hk ⊢
    exact elemAt_word (itBits it) k g hk (itBits_pos it)

/-- The instruction completes, and element k of the clean words that it writes in lane l satisfies P l k. -/
def WritesElems (s : State) (i : Instr) (e : Enc) (c : Ctx) (P : Nat → Nat → Nat → Prop) : Prop :=
  ∃ t, ∃ x : Nat → List Word, exec i s = .next t ∧ WroteLanes s t c e (fun l => { words := clean (x l) }) ∧
    ∀ l, c.acting.getLsbD l = true → (x l).length = (if itBits e.fn.toNat = 64 then 2 else 1) ∧
      ∀ k, itBits e.fn.toNat * (k + 1) ≤ 32 * (x l).length → P l k (elemAt (itBits e.fn.toNat) (wordsNat (x l)) k)

/-- The instruction completes, and the clean word that it writes in lane l satisfies P l. -/
def WritesWord (s : State) (i : Instr) (e : Enc) (c : Ctx) (P : Nat → Word → Prop) : Prop :=
  ∃ t, ∃ x : Nat → Word, exec i s = .next t ∧ WroteLanes s t c e (fun l => word1 (x l)) ∧
    ∀ l, c.acting.getLsbD l = true → P l (x l)

section
variable {s : State} {i : Instr} {e : Enc} {c : Ctx}

theorem WritesElems.imp {P Q : Nat → Nat → Nat → Prop} (h : WritesElems s i e c P) (hPQ : ∀ l k y, P l k y → Q l k y) :
    WritesElems s i e c Q :=
  have ⟨t, x, ht, hw, hx⟩ := h
  ⟨t, x, ht, hw, fun l hl => ⟨(hx l hl).1, fun k hk => hPQ l k _ ((hx l hl).2 k hk)⟩⟩

theorem WritesWord.imp {P Q : Nat → Word → Prop} (h : WritesWord s i e c P) (hPQ : ∀ l x, P l x → Q l x) : WritesWord s i e c Q :=
  have ⟨t, x, ht, hw, hx⟩ := h
  ⟨t, x, ht, hw, fun l hl => hPQ l _ (hx l hl)⟩

/-- A per-fibre computation whose results are made of elements writes these elements. -/
theorem writesElems_of_lanes {f : Ctx → Wave → Nat → Except Cause LaneRes} (g : Nat → Nat → Nat)
    (hx : exec i s = s.issue i e false (lanesBody e f)) (hu : endsClean i = false) (h : Ready s i e c) (hc : CanRead s i c e)
    (hr : ∀ l, c.acting.getLsbD l = true → f c (s.ctxWave c) l = .ok { words := clean (elemWords e.fn.toNat (g l)) }) :
    WritesElems s i e c fun l k y => y = g l k % 2 ^ itBits e.fn.toNat :=
  have ⟨t, ht, hw⟩ := exec_lanes hx hu h hc hr
  ⟨t, fun l => elemWords e.fn.toNat (g l), ht, hw, fun l _ => ⟨elemWords_length _ (g l), elemAt_elemWords _ (g l)⟩⟩

/-- A per-fibre computation of one clean word writes it. -/
theorem writesWord_of_lanes {f : Ctx → Wave → Nat → Except Cause LaneRes} {P : Nat → Word → Prop} (x : Nat → Word)
    (hx : exec i s = s.issue i e false (lanesBody e f)) (hu : endsClean i = false) (h : Ready s i e c) (hc : CanRead s i c e)
    (hr : ∀ l, c.acting.getLsbD l = true → f c (s.ctxWave c) l = .ok (word1 (x l)))
    (hP : ∀ l, c.acting.getLsbD l = true → P l (x l)) : WritesWord s i e c P :=
  have ⟨t, ht, hw⟩ := exec_lanes hx hu h hc hr
  ⟨t, x, ht, hw, hP⟩

/-- An instruction that is a function of two consumed words completes and gives its results. -/
theorem lanes2_completes {a b : Nat → Word} {r : Nat → LaneRes} {f : Wave → Word → Word → LaneRes} (hx : exec i s = s.issue i e false (lanes2 e f))
    (hu : endsClean i = false) (h : Ready s i e c) (hc : CanRead s i c e)
    (hab : ∀ l, c.acting.getLsbD l = true → (s.ctxWave c).Reads2 l e (a l) (b l)) (hr : ∀ l, f (s.ctxWave c) (a l) (b l) = r l) :
    ∃ t, exec i s = .next t ∧ WroteLanes s t c e r := by
  unfold lanes2 at hx
  refine exec_lanes hx hu h hc fun l hl => ?_
  obtain ⟨ha, hb, hd⟩ := hab l hl
  simp only [ha, hb, except_ok_bind, PWord.use_clean, Wave.withDst_of_dstOk _ hd, hr]

end

/-! ### Elements as numbers (R60, R148) -/

theorem elemAt_lt (w x k : Nat) : elemAt w x k < 2 ^ w := Nat.mod_lt _ (Nat.two_pow_pos w)

/-- A pattern of w bits is its lowest element. -/
theorem elemAt_zero {w x : Nat} (h : x < 2 ^ w) : elemAt w x 0 = x := by
  rw [elemAt, Nat.mul_zero, Nat.pow_zero, Nat.div_one, Nat.mod_eq_of_lt h]

/-- An element of a bit vector is its bits [w·k + w − 1 : w·k]. -/
theorem elemAt_toNat (w : Nat) {n : Nat} (x : BitVec n) (k : Nat) : elemAt w x.toNat k = (x.extractLsb' (w * k) w).toNat := by
  rw [elemAt, BitVec.extractLsb'_toNat, Nat.shiftRight_eq_div_pow]

/-- A bit vector read by a type's signedness. -/
theorem elemInt_toNat (sg : Bool) {n : Nat} (hn : 0 < n) (y : BitVec n) :
    elemInt sg n y.toNat = if sg then y.toInt else (y.toNat : Int) := by
  obtain ⟨m, rfl⟩ : ∃ m, n = m + 1 := ⟨n - 1, by omega⟩
  cases sg
  · rfl
  · have hp : 2 ^ (m + 1) = 2 * 2 ^ m := Nat.pow_succ'
    simp only [elemInt, Bool.true_and, decide_eq_true_eq, if_true, BitVec.toInt_eq_toNat_cond, Nat.add_sub_cancel]
    by_cases h : 2 ^ m ≤ y.toNat
    · rw [if_pos h, if_neg (by omega)]; norm_cast
    · rw [if_neg h, if_pos (by omega)]

theorem elemInt_bounds (sg : Bool) {w x : Nat} (hx : x < 2 ^ w) : -(2 ^ w) ≤ elemInt sg w x ∧ elemInt sg w x < 2 ^ w := by
  have hx' : (x : Int) < 2 ^ w := by exact_mod_cast hx
  unfold elemInt
  split <;> constructor <;> omega

theorem elemInt_signed_bounds {w x : Nat} (hw : 0 < w) (hx : x < 2 ^ w) :
    -(2 ^ (w - 1)) ≤ elemInt true w x ∧ elemInt true w x < 2 ^ (w - 1) := by
  have hy := elemInt_toNat true hw (BitVec.ofNat w x)
  rw [BitVec.toNat_ofNat, Nat.mod_eq_of_lt hx, if_pos rfl] at hy
  exact hy ▸ ⟨BitVec.le_toInt _, BitVec.toInt_lt⟩

/-- A number wrapped to w bits is its value modulo 2^w. -/
theorem wrapTo_cast (w : Nat) (t : Int) : (wrapTo w t : Int) = t % 2 ^ w :=
  Int.toNat_of_nonneg (Int.emod_nonneg t (Int.ne_of_gt (Int.pow_pos (by decide))))

theorem wrapTo_mod (w : Nat) (t : Int) : wrapTo w t % 2 ^ w = wrapTo w t :=
  Int.ofNat_inj.1 (by push_cast; rw [wrapTo_cast, Int.emod_emod])

/-- A number wrapped to a word. -/
theorem ofNat_wrapTo (t : Int) : BitVec.ofNat 32 (wrapTo 32 t) = BitVec.ofInt 32 t :=
  BitVec.eq_of_toNat_eq (by simp only [BitVec.toNat_ofNat, BitVec.toNat_ofInt, wrapTo]; omega)

/-- A number clamped to a word. -/
theorem clampTo_word (sg : Bool) (r : Int) :
    clampTo sg 32 r = if sg then max (-(2 ^ 31)) (min (2 ^ 31 - 1) r) else max 0 (min (2 ^ 32 - 1) r) := by
  cases sg
  all_goals
    simp only [clampTo, if_true, Bool.false_eq_true, if_false]
    split
    · omega
    · split <;> omega

/-- A signed result that is at most 2^(w − 1), clamped to the type where SAT is set, modulo 2^w. -/
theorem clampTo_signed_mod {w : Nat} (hw : 0 < w) {r : Int} (hlo : -(2 ^ (w - 1)) ≤ r) (hhi : r ≤ 2 ^ (w - 1)) (sat : Bool) :
    (if sat then clampTo true w r else r) % 2 ^ w =
      if r = 2 ^ (w - 1) then (if sat then 2 ^ (w - 1) - 1 else 2 ^ (w - 1)) else r % 2 ^ w := by
  obtain ⟨m, rfl⟩ : ∃ m, w = m + 1 := ⟨w - 1, by omega⟩
  have hp : (2 : Int) ^ (m + 1) = 2 * 2 ^ m := Int.pow_succ' 2 m
  have hm : (0 : Int) < 2 ^ m := Int.pow_pos (by decide)
  simp only [Nat.add_sub_cancel] at hlo hhi ⊢
  simp only [clampTo, Nat.add_sub_cancel, if_true, if_neg (Int.not_lt.2 hlo), hp]
  generalize (2 : Int) ^ m = M at hlo hhi hm ⊢
  cases sat
  · simp only [Bool.false_eq_true, if_false]
    split
    · rw [Int.emod_eq_of_lt] <;> omega
    · rfl
  · simp only [if_true]
    by_cases hr : r = M
    · rw [if_pos (by omega), if_pos hr, Int.emod_eq_of_lt] <;> omega
    · rw [if_neg (by omega), if_neg hr]

/-! ### Integer arithmetic on elements (R148, R150) -/

section
variable {s : State} {i : Instr} {e : Enc} {c : Ctx} {a b : Nat → Nat}

/-- The pattern of a result of a type: wrapped, or clamped first where SAT is set. -/
def intPattern (e : Enc) (sg : Bool) (r : Int) : Nat :=
  wrapTo (itBits e.fn.toNat) (if e.mod.getLsbD 0 then clampTo sg (itBits e.fn.toNat) r else r)

/-- The value of the pattern. -/
theorem intPattern_mod_cast (e : Enc) (sg : Bool) (r : Int) : ((intPattern e sg r % 2 ^ itBits e.fn.toNat : Nat) : Int) =
    (if e.mod.getLsbD 0 then clampTo sg (itBits e.fn.toNat) r else r) % 2 ^ itBits e.fn.toNat := by
  rw [intPattern, wrapTo_mod, wrapTo_cast]

/-- A two-operand element instruction writes f of each two elements. -/
theorem elems2_writes {f : Nat → Nat → Nat} (hx : exec i s = s.issue i e false (elems2 e f)) (hu : endsClean i = false)
    (h : Ready s i e c) (hc : CanRead s i c e)
    (hab : ∀ l, c.acting.getLsbD l = true → (s.ctxWave c).readsElem l e (a l) ∧ (s.ctxWave c).readsElemB l e (b l)) :
    WritesElems s i e c fun l k y =>
      y = f (elemAt (itBits e.fn.toNat) (a l) k) (elemAt (itBits e.fn.toNat) (b l) k) % 2 ^ itBits e.fn.toNat := by
  unfold elems2 at hx
  refine writesElems_of_lanes (fun l k => f (elemAt _ (a l) k) (elemAt _ (b l) k)) hx hu h hc fun l hl => ?_
  obtain ⟨ha, hb⟩ := hab l hl
  unfold Wave.readsElem at ha
  unfold Wave.readsElemB at hb
  by_cases h64 : itBits e.fn.toNat = 64
  · rw [if_pos h64] at ha hb
    obtain ⟨⟨x, hx, hax⟩, hd⟩ := ha
    obtain ⟨y, hy, hby⟩ := hb
    simp only [h64, if_true, hx, hy, except_ok_bind, useD_clean, Wave.withDst_of_dstOk _ hd, elemWords, hax, hby, elemAt_zero x.isLt,
      elemAt_zero y.isLt]
  · rw [if_neg h64] at ha hb
    obtain ⟨⟨x, hx, hax⟩, hd⟩ := ha
    obtain ⟨y, hy, hby⟩ := hb
    simp only [if_neg h64, hx, hy, except_ok_bind, PWord.use_clean, Wave.withDst_of_dstOk _ hd, elemWords, hax, hby]

/-- An integer operation of two operands writes the exact result of each two elements, clamped where SAT is set, modulo 2^w. -/
theorem intOp_writes {op : Int → Int → Int} (hx : exec i s = s.issue i e false (intOp e op)) (hu : endsClean i = false)
    (h : Ready s i e c) (hc : CanRead s i c e)
    (hab : ∀ l, c.acting.getLsbD l = true → (s.ctxWave c).readsElem l e (a l) ∧ (s.ctxWave c).readsElemB l e (b l)) :
    WritesElems s i e c fun l k y =>
      let w := itBits e.fn.toNat
      let sg := itSigned e.fn.toNat
      let r := op (elemInt sg w (elemAt w (a l) k)) (elemInt sg w (elemAt w (b l) k))
      (y : Int) = (if e.mod.getLsbD 0 then clampTo sg w r else r) % 2 ^ w := by
  unfold intOp at hx
  refine (elems2_writes hx hu h hc hab).imp fun l k y hy => ?_
  rw [hy]
  exact intPattern_mod_cast e _ _

/-- An integer operation of one operand writes the pattern of each element's result. -/
theorem intOp1_writes_pattern {op : Int → Int} (hx : exec i s = s.issue i e false (intOp1 e op)) (hu : endsClean i = false)
    (h : Ready s i e c) (hc : CanRead s i c e) (ha : ∀ l, c.acting.getLsbD l = true → (s.ctxWave c).readsElem l e (a l)) :
    WritesElems s i e c fun l k y =>
      y = intPattern e true (op (elemInt true (itBits e.fn.toNat) (elemAt (itBits e.fn.toNat) (a l) k))) % 2 ^ itBits e.fn.toNat := by
  unfold intOp1 at hx
  refine writesElems_of_lanes (fun l k => intPattern e true (op (elemInt true _ (elemAt _ (a l) k)))) hx hu h hc fun l hl => ?_
  have ha := ha l hl
  unfold Wave.readsElem at ha
  by_cases h64 : itBits e.fn.toNat = 64
  · rw [if_pos h64] at ha
    obtain ⟨⟨x, hx, hax⟩, hd⟩ := ha
    simp only [h64, if_true, hx, except_ok_bind, useD_clean, Wave.withDst_of_dstOk _ hd, elemWords, hax, elemAt_zero x.isLt, intPattern]
  · rw [if_neg h64] at ha
    obtain ⟨⟨x, hx, hax⟩, hd⟩ := ha
    simp only [if_neg h64, hx, except_ok_bind, PWord.use_clean, Wave.withDst_of_dstOk _ hd, elemWords, hax, intPattern]
    rfl

/-- An operation that leaves a signed type only by taking the most negative value to its opposite: there the result is the largest value
where SAT is set, and wraps to the same value without it. -/
theorem intOp1_writes {op : Int → Int} (hx : exec i s = s.issue i e false (intOp1 e op)) (hu : endsClean i = false)
    (hop : ∀ m v : Int, -m ≤ v → v < m → -m ≤ op v ∧ op v ≤ m ∧ (op v = m ↔ v = -m))
    (h : Ready s i e c) (hc : CanRead s i c e) (ha : ∀ l, c.acting.getLsbD l = true → (s.ctxWave c).readsElem l e (a l)) :
    WritesElems s i e c fun l k y =>
      let w := itBits e.fn.toNat
      let v := elemInt true w (elemAt w (a l) k)
      (y : Int) = if v = -(2 ^ (w - 1)) then (if e.mod.getLsbD 0 then 2 ^ (w - 1) - 1 else 2 ^ (w - 1)) else op v % 2 ^ w := by
  refine (intOp1_writes_pattern hx hu h hc ha).imp fun l k y hy => ?_
  have hw := itBits_pos e.fn.toNat
  obtain ⟨hlo, hhi⟩ := elemInt_signed_bounds hw (elemAt_lt (itBits e.fn.toNat) (a l) k)
  obtain ⟨hrlo, hrhi, hmost⟩ := hop _ _ hlo hhi
  simp only [hy, intPattern_mod_cast, clampTo_signed_mod hw hrlo hrhi, hmost]

end

/-- Settles O2: the operations of R148 are one computation on elements, those of R150 another. -/
theorem integerElements : Obligations.IntegerElements := by
  refine ⟨fun s e c a b => ?two, fun s e c a => ?one⟩
  case two =>
    simp only [List.forall_mem_cons, List.not_mem_nil, false_imp_iff, implies_true, and_true]
    exact ⟨intOp_writes rfl rfl, intOp_writes rfl rfl, intOp_writes rfl rfl, intOp_writes rfl rfl, intOp_writes rfl rfl⟩
  case one =>
    simp only [List.forall_mem_cons, List.not_mem_nil, false_imp_iff, implies_true, and_true]
    refine ⟨fun h hc _ => intOp1_writes rfl rfl (fun m v _ _ => ?abs) h hc, fun h hc _ => intOp1_writes rfl rfl (fun m v _ _ => ?neg) h hc⟩
    case abs => split <;> omega
    case neg => omega

/-! ### Products (R149, R151) -/

/-- Bits [63:32] of a product kept in 64 bits are those of the exact product. -/
theorem ofInt_high_half (p : Int) : (BitVec.ofInt 64 p).extractLsb' 32 32 = BitVec.ofInt 32 (p / 2 ^ 32) := by
  apply BitVec.eq_of_toNat_eq
  simp only [BitVec.extractLsb'_toNat, BitVec.toNat_ofInt, Nat.shiftRight_eq_div_pow]
  omega

theorem signed_high_half (a b : Word) :
    (a.signExtend 64 * b.signExtend 64).extractLsb' 32 32 = BitVec.ofInt 32 (a.toInt * b.toInt / 2 ^ 32) := by
  rw [← ofInt_high_half, BitVec.ofInt_mul]
  rfl

theorem unsigned_high_half (a b : Word) :
    (a.setWidth 64 * b.setWidth 64).extractLsb' 32 32 = BitVec.ofInt 32 ((a.toNat : Int) * b.toNat / 2 ^ 32) := by
  rw [← ofInt_high_half, BitVec.ofInt_mul, BitVec.ofInt_natCast, BitVec.ofInt_natCast, BitVec.ofNat_toNat, BitVec.ofNat_toNat]

/-- Settles O3: the high half of the exact product, the sum with one wrap, and the dot product of the bytes as bit vectors. -/
theorem multiplyForms : Obligations.MultiplyForms := by
  intro s e c a b d
  refine ⟨fun h hc hab => ?imulh, fun h hc habd => ?imad, fun h hc habd => ?idp4⟩
  case imulh =>
    refine lanes2_completes rfl rfl h hc hab fun l => congrArg word1 ?_
    simp only [Enc.fn_eq_zero_iff, beq_iff_eq, signed_high_half, unsigned_high_half]
    split <;> rfl
  case imad =>
    refine exec_lanes rfl rfl h hc fun l hl => ?_
    obtain ⟨ha, hb, hd, hdst⟩ := habd l hl
    split at hb
    next h128 =>
      simp only [Except.ok.injEq, PWord.mk.injEq, and_true] at hb
      simp only [ha, hd, ← hb, beq_iff_eq, if_pos h128, except_ok_bind, PWord.use_clean, Wave.withDst_of_dstOk _ hdst]
    next h128 => simp only [ha, hb, hd, beq_iff_eq, if_neg h128, except_ok_bind, PWord.use_clean, Wave.withDst_of_dstOk _ hdst]
  case idp4 =>
    -- both sides are the same sum of four products once FN is compared by number and the bytes are bit vectors
    refine exec_lanes rfl rfl h hc fun l hl => ?_
    obtain ⟨ha, hb, hd, hdst⟩ := habd l hl
    simp only [ha, hb, hd, except_ok_bind, PWord.use_clean, Wave.withDst_of_dstOk _ hdst]
    simp only [ofNat_wrapTo, clampTo_word, elemAt_toNat, elemInt_toNat _ (show 0 < 8 by decide), beq_iff_eq, Bool.or_eq_true,
      decide_eq_true_eq, bne_iff_ne, ne_eq, ite_not, BitVec.toNat_eq]
    rfl

/-! ### Shifts (R152) -/

/-- A number of at most w bits divided by 2^w or more, rounded down, is 0, or −1 where it is negative. -/
theorem ediv_two_pow_min {w : Nat} {t : Int} (hlo : -(2 ^ w) ≤ t) (hhi : t < 2 ^ w) (n : Nat) : t / 2 ^ min n w = t / 2 ^ n := by
  rcases Nat.le_total n w with hn | hn
  · rw [Nat.min_eq_left hn]
  · rw [Nat.min_eq_right hn]
    have hwn : (2 : Int) ^ w ≤ 2 ^ n := by exact_mod_cast Nat.pow_le_pow_right (by decide) hn
    by_cases ht : t < 0
    · rw [Int.ediv_eq_neg_one_of_neg_of_le ht (by omega), Int.ediv_eq_neg_one_of_neg_of_le ht (by omega)]
    · rw [Int.ediv_eq_zero_of_lt (by omega) hhi, Int.ediv_eq_zero_of_lt (by omega) (by omega)]

/-- The two parts of a rotated pattern of w bits lie side by side. -/
theorem rotation_lt {w x k : Nat} (hx : x < 2 ^ w) (hk : k ≤ w) : x * 2 ^ k % 2 ^ w + x / 2 ^ (w - k) < 2 ^ w := by
  have hw : 2 ^ w = 2 ^ k * 2 ^ (w - k) := by rw [← Nat.pow_add, Nat.add_sub_cancel' hk]
  have hhigh : x / 2 ^ (w - k) < 2 ^ k := Nat.div_lt_of_lt_mul (by rwa [Nat.mul_comm, ← hw])
  have hlow : x % 2 ^ (w - k) + 1 ≤ 2 ^ (w - k) := Nat.mod_lt _ (Nat.two_pow_pos _)
  rw [Nat.mul_comm, hw, Nat.mul_mod_mul_left]
  calc 2 ^ k * (x % 2 ^ (w - k)) + x / 2 ^ (w - k) < 2 ^ k * (x % 2 ^ (w - k)) + 2 ^ k := Nat.add_lt_add_left hhigh _
    _ = 2 ^ k * (x % 2 ^ (w - k) + 1) := (Nat.mul_succ _ _).symm
    _ ≤ 2 ^ k * 2 ^ (w - k) := Nat.mul_le_mul_left _ hlow

/-- A shift whose results are the patterns g writes g of each element and its amount; the types of 64 bits take the whole second
operand. -/
theorem shiftOp_writes {s : State} {i : Instr} {e : Enc} {c : Ctx} {a b : Nat → Nat} {f g : Nat → Nat → Nat → Nat}
    (hx : exec i s = s.issue i e false (shiftOp e f)) (hu : endsClean i = false)
    (hfg : ∀ w x n, 0 < w → x < 2 ^ w → f w x n % 2 ^ w = g w x n) (h : Ready s i e c) (hc : CanRead s i c e)
    (hab : ∀ l, c.acting.getLsbD l = true → (s.ctxWave c).readsElem l e (a l) ∧ (s.ctxWave c).readsShift l e (b l)) :
    WritesElems s i e c fun l k y =>
      let w := itBits e.fn.toNat
      y = g w (elemAt w (a l) k) (if w = 64 then b l else elemAt w (b l) k) := by
  unfold shiftOp at hx
  refine (writesElems_of_lanes (fun l k => f (itBits e.fn.toNat) (elemAt (itBits e.fn.toNat) (a l) k)
    (if itBits e.fn.toNat = 64 then b l else elemAt (itBits e.fn.toNat) (b l) k)) hx hu h hc fun l hl => ?_).imp
    fun l k y hy => hy.trans (hfg _ _ _ (itBits_pos _) (elemAt_lt _ _ k))
  obtain ⟨ha, y, hy, hby⟩ := hab l hl
  unfold Wave.readsElem at ha
  by_cases h64 : itBits e.fn.toNat = 64
  · rw [if_pos h64] at ha hy
    obtain ⟨⟨x, hx, hax⟩, hd⟩ := ha
    simp only [h64, if_true, hx, hy, except_ok_bind, useD_clean, PWord.use_clean, Wave.withDst_of_dstOk _ hd, elemWords, hax, hby,
      elemAt_zero x.isLt]
  · rw [if_neg h64] at ha hy
    obtain ⟨⟨x, hx, hax⟩, hd⟩ := ha
    simp only [if_neg h64, hx, hy, except_ok_bind, PWord.use_clean, Wave.withDst_of_dstOk _ hd, elemWords, hax, hby]
    rfl

/-! ### Bit functions (R153) -/

theorem bitIndex_lt (x y z : Bool) : x.toNat + 2 * y.toNat + 4 * z.toNat < 8 := by
  revert x y z; decide

/-- Bit j of the minterm i of three words is set where i is the index that bit j of the words makes. -/
theorem minterm_getLsbD (a b c : Word) (i j : Nat) (hi : i < 8) (hj : j < 32) :
    ((if i % 2 == 1 then a else ~~~a) &&& (if i / 2 % 2 == 1 then b else ~~~b) &&& (if i / 4 == 1 then c else ~~~c)).getLsbD j =
      decide (i = (a.getLsbD j).toNat + 2 * (b.getLsbD j).toNat + 4 * (c.getLsbD j).toNat) := by
  have key : ∀ i, i < 8 → ∀ x y z : Bool,
      ((if i % 2 == 1 then x else !x) && (if i / 2 % 2 == 1 then y else !y) && (if i / 4 == 1 then z else !z)) =
        decide (i = x.toNat + 2 * y.toNat + 4 * z.toNat) := by decide
  rw [← key i hi]
  simp only [BitVec.getLsbD_and, apply_ite (fun w : Word => w.getLsbD j), BitVec.getLsbD_not, hj, decide_true, Bool.true_and]

/-- A bit of a union of the words that a test admits. -/
theorem foldl_or_getLsbD (t : Nat → Bool) (m : Nat → Word) (j : Nat) (ls : List Nat) (r : Word) :
    (ls.foldl (fun r i => if t i then r ||| m i else r) r).getLsbD j = (r.getLsbD j || ls.any (fun i => t i && (m i).getLsbD j)) := by
  induction ls generalizing r with
  | nil => rw [List.foldl_nil, List.any_nil, Bool.or_false]
  | cons i ls ih =>
    rw [List.foldl_cons, ih, List.any_cons]
    cases t i
    · rw [if_neg Bool.false_ne_true, Bool.false_and, Bool.false_or]
    · rw [if_pos rfl, BitVec.getLsbD_or, Bool.true_and, Bool.or_assoc]

theorem bitFn_getLsbD (t : BitVec 8) (a b c : Word) (j : Nat) (hj : j < 32) :
    (bitFn t a b c).getLsbD j = t.getLsbD ((a.getLsbD j).toNat + 2 * (b.getLsbD j).toNat + 4 * (c.getLsbD j).toNat) := by
  have hn := bitIndex_lt (a.getLsbD j) (b.getLsbD j) (c.getLsbD j)
  rw [bitFn, foldl_or_getLsbD, show (0 : Word).getLsbD j = false from BitVec.getLsbD_zero, Bool.false_or, Bool.eq_iff_iff, List.any_eq_true]
  constructor
  · rintro ⟨i, hi, hti⟩
    rw [minterm_getLsbD a b c i j (List.mem_range.1 hi) hj, Bool.and_eq_true, decide_eq_true_eq] at hti
    exact hti.2 ▸ hti.1
  · intro ht
    refine ⟨_, List.mem_range.2 hn, ?_⟩
    rw [minterm_getLsbD a b c _ j hn hj, ht, decide_eq_true rfl, Bool.true_and]

/-- BITFN writes the table's bit for each position. -/
theorem bitfn_writes {s : State} {e : Enc} {c : Ctx} {a b d : Nat → Word} (h : Ready s (.bitfn e) e c) (hc : CanRead s (.bitfn e) c e)
    (habd : ∀ l, c.acting.getLsbD l = true → (s.ctxWave c).Reads3C l e (a l) (b l) (d l)) :
    WritesWord s (.bitfn e) e c fun l x => ∀ j, j < 32 → x.getLsbD j =
      e.ext.getLsbD (((a l).getLsbD j).toNat + 2 * ((b l).getLsbD j).toNat + 4 * ((d l).getLsbD j).toNat) := by
  refine writesWord_of_lanes (fun l => bitFn (e.ext.setWidth 8) (a l) (b l) (d l)) rfl rfl h hc (fun l hl => ?_) fun l _ j hj => ?_
  · obtain ⟨ha, hb, hd, hdst⟩ := habd l hl
    split at hd
    next h128 =>
      simp only [Except.ok.injEq, PWord.mk.injEq, and_true] at hd
      simp only [ha, hb, ← hd, beq_iff_eq, if_pos h128, except_ok_bind, PWord.use_clean, Wave.withDst_of_dstOk _ hdst]
    next h128 => simp only [ha, hb, hd, beq_iff_eq, if_neg h128, except_ok_bind, PWord.use_clean, Wave.withDst_of_dstOk _ hdst]
  · rw [bitFn_getLsbD _ _ _ _ j hj, BitVec.getLsbD_setWidth, decide_eq_true (bitIndex_lt _ _ _), Bool.true_and]

/-! ### Counts and bit order (R154) -/

theorem popcount_le (w x : Nat) : popcount w x ≤ w := 
  Nat.le_trans (List.length_filter_le _ _) (Nat.le_of_eq List.length_range)

theorem lt_two_pow_bitLen (m : Nat) : m < 2 ^ bitLen m := by
  unfold bitLen
  split
  next h => rw [h]; decide
  next => exact Nat.lt_log2_self

theorem bitLen_le {m n : Nat} (h : m < 2 ^ n) : bitLen m ≤ n := by
  unfold bitLen
  split
  next => omega
  next h0 => exact (Nat.log2_lt h0).2 h

/-- The most significant bit of a number that is not 0 is 1. -/
theorem testBit_bitLen {m : Nat} (h : 0 < bitLen m) : m.testBit (bitLen m - 1) = true := by
  unfold bitLen at h ⊢
  split at h
  next => omega
  next h0 => rw [if_neg h0]; exact Nat.testBit_log2 h0

theorem leadZeros_le (w x : Nat) : leadZeros w x ≤ w := Nat.sub_le w _

/-- Above the leading zeros stands nothing, below them a 1. -/
theorem leadZeros_spec {w n : Nat} (h : n < 2 ^ w) :
    n < 2 ^ (w - leadZeros w n) ∧ (leadZeros w n < w → n.testBit (w - 1 - leadZeros w n) = true) := by
  have hle := bitLen_le h
  have hw : w - leadZeros w n = bitLen n := by unfold leadZeros; omega
  refine ⟨hw ▸ lt_two_pow_bitLen n, fun hz => ?_⟩
  have hw' : w - 1 - leadZeros w n = bitLen n - 1 := by omega
  exact hw' ▸ testBit_bitLen (by omega)

/-- Adding a power of two to a number whose bits up to it are 0 sets its bit. -/
theorem testBit_add_two_pow {r p : Nat} (h : ∀ j, j ≤ p → r.testBit j = false) (j : Nat) :
    (r + 2 ^ p).testBit j = (r.testBit j || decide (p = j)) := by
  have hmod : r % 2 ^ (p + 1) = 0 := Nat.eq_of_testBit_eq fun j => by
    rw [Nat.testBit_mod_two_pow, Nat.zero_testBit]
    by_cases hj : j < p + 1
    · rw [h j (by omega), Bool.and_false]
    · rw [decide_eq_false hj, Bool.false_and]
  have hr : r = 2 ^ (p + 1) * (r / 2 ^ (p + 1)) := by have := Nat.div_add_mod r (2 ^ (p + 1)); omega
  rw [hr, Nat.two_pow_add_eq_or_of_lt (Nat.pow_lt_pow_right (by omega) (by omega)), Nat.testBit_or, ← hr, Nat.testBit_two_pow]

/-- The bits of a reversed pattern after the lowest m bits have been placed. -/
theorem bitReverse_partial (n x m : Nat) (hm : m ≤ n) (j : Nat) :
    ((List.range m).foldl (fun r i => if x.testBit i then r + 2 ^ (n - 1 - i) else r) 0).testBit j =
      (decide (n - m ≤ j ∧ j < n) && x.testBit (n - 1 - j)) := by
  induction m generalizing j with
  | zero => rw [List.range_zero, List.foldl_nil, Nat.zero_testBit, decide_eq_false (by omega), Bool.false_and]
  | succ m ih =>
    have ih := ih (by omega)
    rw [List.range_succ, List.foldl_append, List.foldl_cons, List.foldl_nil]
    generalize (List.range m).foldl (fun r i => if x.testBit i then r + 2 ^ (n - 1 - i) else r) 0 = r at ih ⊢
    have hlow : ∀ j, j ≤ n - 1 - m → r.testBit j = false := fun j hj => by
      rw [ih j, decide_eq_false (by omega), Bool.false_and]
    by_cases hj : n - 1 - m = j
    · have hm' : n - 1 - j = m := by omega
      have hr : r.testBit j = false := hlow j (Nat.le_of_eq hj.symm)
      rw [hm', decide_eq_true (by omega), Bool.true_and]
      cases hb : x.testBit m
      · simpa only [hb, Bool.false_eq_true, if_false] using hr
      · rw [if_pos rfl, testBit_add_two_pow hlow, hr, decide_eq_true hj, Bool.false_or]
    · rw [decide_eq_decide.2 (show (n - (m + 1) ≤ j ∧ j < n) ↔ (n - m ≤ j ∧ j < n) by omega), ← ih j]
      split
      · rw [testBit_add_two_pow hlow, decide_eq_false hj, Bool.or_false]
      · rfl

theorem bitReverse_testBit (n x j : Nat) (hj : j < n) : (bitReverse n x).testBit j = x.testBit (n - 1 - j) := by
  rw [bitReverse, bitReverse_partial n x n (Nat.le_refl n), decide_eq_true ⟨by omega, hj⟩, Bool.true_and]

/-- The width of the operand of POPC, CLZ and BREV. -/
def countWidth (e : Enc) : Nat := if e.fn.toNat = 7 then 64 else 32

/-- The words of a reversed operand. -/
def brevWords (e : Enc) (n : Nat) : List Word :=
  if e.fn.toNat = 7 then dwords (BitVec.ofNat 64 (bitReverse 64 n)) else [BitVec.ofNat 32 (bitReverse 32 n)]

theorem brevWords_length (e : Enc) (n : Nat) : 32 * (brevWords e n).length = countWidth e := by
  unfold brevWords countWidth; split <;> rfl

theorem wordsNat_brevWords (e : Enc) (n : Nat) : wordsNat (brevWords e n) = bitReverse (countWidth e) n % 2 ^ countWidth e := by
  unfold brevWords countWidth
  split
  · rw [wordsNat_dwords, BitVec.toNat_ofNat]
  · rw [← BitVec.toNat_ofNat]; rfl

section
variable {s : State} {i : Instr} {e : Enc} {c : Ctx} {n : Nat → Nat}

theorem readsCount_lt {w : Wave} {l m x : Nat} (h : w.readsCount l e m x) : x < 2 ^ countWidth e := by
  unfold countWidth
  obtain ⟨h, -⟩ := h
  split at h
  next h7 =>
    obtain ⟨y, -, rfl⟩ := h
    rw [if_pos h7]; exact y.isLt
  next h7 =>
    obtain ⟨y, -, rfl⟩ := h
    rw [if_neg h7]; exact y.isLt

/-- POPC and CLZ write their number of the operand, of 32 or 64 bits. -/
theorem countOp_writes {f : Nat → Nat → Nat} (hf : ∀ w x, f w x ≤ w) (hx : exec i s = s.issue i e false (countOp e f))
    (hu : endsClean i = false) (h : Ready s i e c) (hc : CanRead s i c e)
    (hn : ∀ l, c.acting.getLsbD l = true → (s.ctxWave c).readsCount l e 1 (n l)) :
    WritesWord s i e c fun l x => x.toNat = f (countWidth e) (n l) ∧ n l < 2 ^ countWidth e := by
  unfold countOp at hx
  refine writesWord_of_lanes (fun l => BitVec.ofNat 32 (f (countWidth e) (n l))) hx hu h hc (fun l hl => ?_)
    fun l hl => ⟨?_, readsCount_lt (hn l hl)⟩
  · obtain ⟨hx, hd⟩ := hn l hl
    unfold countWidth
    by_cases h7 : e.fn.toNat = 7
    · rw [if_pos h7] at hx
      obtain ⟨x, hx, hnx⟩ := hx
      simp only [h7, if_true, hx, hnx, except_ok_bind, useD_clean, Wave.withDst_of_dstOk _ hd]
    · rw [if_neg h7] at hx
      obtain ⟨x, hx, hnx⟩ := hx
      simp only [if_neg h7, hx, hnx, except_ok_bind, PWord.use_clean, Wave.withDst_of_dstOk _ hd]
  · have hle := hf (countWidth e) (n l)
    have hw : countWidth e ≤ 64 := by unfold countWidth; split <;> omega
    rw [BitVec.toNat_ofNat, Nat.mod_eq_of_lt (by omega)]

theorem popc_writes (h : Ready s (.popc e) e c) (hc : CanRead s (.popc e) c e)
    (hn : ∀ l, c.acting.getLsbD l = true → (s.ctxWave c).readsCount l e 1 (n l)) :
    WritesWord s (.popc e) e c fun l x => x.toNat = ((List.range (countWidth e)).filter (fun j => (n l).testBit j)).length :=
  (countOp_writes popcount_le rfl rfl h hc hn).imp fun _ _ hx => hx.1

theorem clz_writes (h : Ready s (.clz e) e c) (hc : CanRead s (.clz e) c e)
    (hn : ∀ l, c.acting.getLsbD l = true → (s.ctxWave c).readsCount l e 1 (n l)) :
    WritesWord s (.clz e) e c fun l x => x.toNat ≤ countWidth e ∧ n l < 2 ^ (countWidth e - x.toNat) ∧
      (x.toNat < countWidth e → (n l).testBit (countWidth e - 1 - x.toNat) = true) := by
  refine (countOp_writes leadZeros_le rfl rfl h hc hn).imp fun l x hx => ?_
  obtain ⟨hx, hlt⟩ := hx
  exact hx ▸ ⟨leadZeros_le _ _, leadZeros_spec hlt⟩

theorem brev_completes (h : Ready s (.brev e) e c) (hc : CanRead s (.brev e) c e)
    (hn : ∀ l, c.acting.getLsbD l = true → (s.ctxWave c).readsCount l e (if e.fn.toNat = 7 then 2 else 1) (n l)) :
    ∃ t, exec (.brev e) s = .next t ∧ WroteLanes s t c e (fun l => { words := clean (brevWords e (n l)) }) := by
  refine exec_lanes rfl rfl h hc fun l hl => ?_
  obtain ⟨hx, hd⟩ := hn l hl
  by_cases h7 : e.fn.toNat = 7
  · rw [if_pos h7] at hx hd
    obtain ⟨x, hx, hnx⟩ := hx
    simp only [h7, if_true, hx, hnx, except_ok_bind, useD_clean, Wave.withDst_of_dstOk _ hd, brevWords]
  · rw [if_neg h7] at hx hd
    obtain ⟨x, hx, hnx⟩ := hx
    simp only [if_neg h7, hx, hnx, except_ok_bind, PWord.use_clean, Wave.withDst_of_dstOk _ hd, brevWords]
    rfl

theorem brev_writes (h : Ready s (.brev e) e c) (hc : CanRead s (.brev e) c e)
    (hn : ∀ l, c.acting.getLsbD l = true → (s.ctxWave c).readsCount l e (if e.fn.toNat = 7 then 2 else 1) (n l)) :
    ∃ t, ∃ x : Nat → List Word, exec (.brev e) s = .next t ∧ WroteLanes s t c e (fun l => { words := clean (x l) }) ∧
      ∀ l, c.acting.getLsbD l = true → 32 * (x l).length = countWidth e ∧
        ∀ j, j < countWidth e → (wordsNat (x l)).testBit j = (n l).testBit (countWidth e - 1 - j) := by
  obtain ⟨t, ht, hw⟩ := brev_completes h hc hn
  refine ⟨t, fun l => brevWords e (n l), ht, hw, fun l _ => ⟨brevWords_length e (n l), fun j hj => ?_⟩⟩
  rw [wordsNat_brevWords, Nat.testBit_mod_two_pow, decide_eq_true hj, Bool.true_and, bitReverse_testBit _ _ _ hj]

end

/-! ### Fields (R155) -/

theorem fieldOf_empty {x : Word} (h : x.toNat / 256 % 256 = 0 ∨ 32 ≤ x.toNat % 256) : fieldOf x = (0, 0) := if_pos h

theorem fieldOf_nonempty {x : Word} (h : ¬(x.toNat / 256 % 256 = 0 ∨ 32 ≤ x.toNat % 256)) :
    fieldOf x = (x.toNat % 256, min (x.toNat % 256 + x.toNat / 256 % 256) 32 - x.toNat % 256) := if_neg h

/-- The number in a field, as a word. -/
def fieldWord (sg : Bool) (x : Word) (f : Nat × Nat) : Word :=
  BitVec.ofInt 32 (if f.2 = 0 then 0 else elemInt sg f.2 (x.toNat / 2 ^ f.1 % 2 ^ f.2))

theorem fieldWord_getLsbD (sg : Bool) (x : Word) (p n j : Nat) (hn : 0 < n) (hj : j < 32) :
    (fieldWord sg x (p, n)).getLsbD j = if p + j < p + n then x.getLsbD (p + j) else sg && x.getLsbD (p + n - 1) := by
  have hy : x.toNat / 2 ^ p % 2 ^ n = (x.extractLsb' p n).toNat := by rw [BitVec.extractLsb'_toNat, Nat.shiftRight_eq_div_pow]
  have hmsb : (x.extractLsb' p n).msb = x.getLsbD (p + n - 1) := by
    rw [BitVec.msb_eq_getLsbD_last, BitVec.getLsbD_extractLsb', decide_eq_true (by omega), Bool.true_and, Nat.add_sub_assoc hn]
  rw [fieldWord, if_neg (Nat.ne_of_gt hn), hy, elemInt_toNat sg hn]
  cases sg
  · rw [if_neg Bool.false_ne_true, BitVec.ofInt_natCast, BitVec.ofNat_toNat, BitVec.getLsbD_setWidth, BitVec.getLsbD_extractLsb']
    by_cases h : j < n
    · simp only [h, hj, decide_true, Bool.true_and, Nat.add_lt_add_iff_left, if_true]
    · simp only [h, hj, decide_true, decide_false, Bool.false_and, Bool.and_false, Nat.add_lt_add_iff_left, if_false]
  · have hs : BitVec.ofInt 32 (x.extractLsb' p n).toInt = (x.extractLsb' p n).signExtend 32 := rfl
    rw [if_pos rfl, hs, BitVec.getLsbD_signExtend, hmsb, BitVec.getLsbD_extractLsb']
    by_cases h : j < n
    · simp only [h, hj, decide_true, Bool.true_and, Nat.add_lt_add_iff_left, if_true]
    · simp only [h, hj, decide_true, decide_false, Bool.true_and, Bool.false_and, Nat.add_lt_add_iff_left, if_false]

/-- A word with the low bits of another in a field. -/
def insertField (base x : Word) (f : Nat × Nat) : Word :=
  let mask : Word := BitVec.ofNat 32 ((2 ^ f.2 - 1) * 2 ^ f.1)
  (base &&& ~~~mask) ||| ((x <<< f.1) &&& mask)

theorem insertField_getLsbD (base x : Word) (p n j : Nat) (hj : j < 32) :
    (insertField base x (p, n)).getLsbD j = if p ≤ j ∧ j < p + n then x.getLsbD (j - p) else base.getLsbD j := by
  have hmask : (BitVec.ofNat 32 ((2 ^ n - 1) * 2 ^ p)).getLsbD j = decide (p ≤ j ∧ j < p + n) := by
    rw [BitVec.getLsbD_ofNat, Nat.testBit_mul_two_pow, Nat.testBit_two_pow_sub_one, decide_eq_true hj, Bool.true_and, ← Bool.decide_and]
    exact decide_eq_decide.2 (by omega)
  simp only [insertField, BitVec.getLsbD_or, BitVec.getLsbD_and, BitVec.getLsbD_not, BitVec.getLsbD_shiftLeft, hmask, hj, decide_true,
    Bool.true_and]
  by_cases h : p ≤ j ∧ j < p + n
  · have hp : ¬j < p := Nat.not_lt.2 h.1
    simp only [h, hp, and_self, decide_true, decide_false, Bool.not_true, Bool.not_false, Bool.and_false, Bool.and_true, Bool.true_and,
      Bool.false_or, if_true]
  · simp only [h, decide_false, Bool.not_false, Bool.and_true, Bool.and_false, Bool.or_false, if_false]

section
variable {s : State} {e : Enc} {c : Ctx} {a b d : Nat → Word}

/-- BFE writes the field that its second operand names, extended by its highest bit for FN 0, and 0 for an empty field. -/
theorem bfe_writes (h : Ready s (.bfe e) e c) (hc : CanRead s (.bfe e) c e)
    (hab : ∀ l, c.acting.getLsbD l = true → (s.ctxWave c).Reads1 l e (a l) ∧ fieldSrc (s.ctxWave c) l e = .ok ⟨b l, false⟩) :
    WritesWord s (.bfe e) e c fun l x =>
      let p := (b l).toNat % 256
      let n := (b l).toNat / 256 % 256
      let top := min (p + n) 32
      (n = 0 ∨ 32 ≤ p → x = 0) ∧
      (¬(n = 0 ∨ 32 ≤ p) → ∀ j, j < 32 →
        x.getLsbD j = if p + j < top then (a l).getLsbD (p + j) else e.fn == 0 && (a l).getLsbD (top - 1)) := by
  have hfn : (e.fn.toNat == 0) = (e.fn == 0) := Bool.eq_iff_iff.2 (by simp only [beq_iff_eq, Enc.fn_eq_zero_iff])
  refine writesWord_of_lanes (fun l => fieldWord (e.fn.toNat == 0) (a l) (fieldOf (b l))) rfl rfl h hc (fun l hl => ?_)
    fun l _ => ⟨fun hempty => ?_, fun hfield j hj => ?_⟩
  · obtain ⟨⟨ha, hd⟩, hb⟩ := hab l hl
    simp only [ha, hb, except_ok_bind, PWord.use_clean, Wave.withDst_of_dstOk _ hd]
    rfl
  · rw [fieldOf_empty hempty]; rfl
  · rw [fieldOf_nonempty hfield, fieldWord_getLsbD _ _ _ _ _ (by omega) hj, Nat.add_sub_cancel' (by omega), hfn]

/-- BFI writes its third operand with the low bits of the first in the field that the second names. -/
theorem bfi_writes (h : Ready s (.bfi e) e c) (hc : CanRead s (.bfi e) c e)
    (habd : ∀ l, c.acting.getLsbD l = true → (s.ctxWave c).Reads1 l e (a l) ∧ fieldSrc (s.ctxWave c) l e = .ok ⟨b l, false⟩ ∧
      (s.ctxWave c).src2 l e = .ok ⟨d l, false⟩) :
    WritesWord s (.bfi e) e c fun l x =>
      let p := (b l).toNat % 256
      let n := (b l).toNat / 256 % 256
      let top := min (p + n) 32
      (n = 0 ∨ 32 ≤ p → x = d l) ∧
      (¬(n = 0 ∨ 32 ≤ p) → ∀ j, j < 32 → x.getLsbD j = if p ≤ j ∧ j < top then (a l).getLsbD (j - p) else (d l).getLsbD j) := by
  refine writesWord_of_lanes (fun l => insertField (d l) (a l) (fieldOf (b l))) rfl rfl h hc (fun l hl => ?_)
    fun l _ => ⟨fun hempty => BitVec.eq_of_getLsbD_eq fun j hj => ?_, fun hfield j hj => ?_⟩
  · obtain ⟨⟨ha, hdst⟩, hb, hd⟩ := habd l hl
    simp only [ha, hb, hd, except_ok_bind, PWord.use_clean, Wave.withDst_of_dstOk _ hdst]
    rfl
  · rw [fieldOf_empty hempty, insertField_getLsbD _ _ _ _ _ hj, if_neg (by omega)]
  · rw [fieldOf_nonempty hfield, insertField_getLsbD _ _ _ _ _ hj, Nat.add_sub_cancel' (by omega)]

end

/-- Settles O4: shifts on elements, the bit functions bit by bit, and the fields. -/
theorem shiftsAndBits : Obligations.ShiftsAndBits := by
  refine ⟨fun s e c a b => ?shifts, fun _ _ _ _ _ _ _ => ⟨bitfn_writes, popc_writes, clz_writes, brev_writes⟩,
    fun _ _ _ _ _ _ => ⟨bfe_writes, bfi_writes⟩⟩
  refine List.forall_mem_cons.2 ⟨shiftOp_writes rfl rfl fun w x n hw hx => ?ishl, List.forall_mem_cons.2
    ⟨shiftOp_writes rfl rfl fun w x n hw hx => ?ishr, List.forall_mem_singleton.2 (shiftOp_writes rfl rfl fun w x n hw hx => ?irot)⟩⟩
  case ishl =>
    dsimp only
    split
    · exact Nat.mod_mod _ _
    · exact Nat.zero_mod _
  case ishr =>
    obtain ⟨hlo, hhi⟩ := elemInt_bounds (itSigned e.fn.toNat) hx
    rw [wrapTo_mod, wrapTo, ediv_two_pow_min hlo hhi]
  case irot => exact Nat.mod_eq_of_lt (rotation_lt hx (Nat.le_of_lt (Nat.mod_lt n hw)))

/-! ### Moves (R156) -/

/-- Settles O5: the source is moved as it is read. -/
theorem moves : Obligations.Moves := by
  intro s e c x y
  refine ⟨fun h hc hx => exec_lanes rfl rfl h hc fun l hl => ?sel, fun h hc hfn hx => exec_lanes rfl rfl h hc fun l hl => ?mov,
    fun h hc hfn hx => exec_lanes rfl rfl h hc fun l hl => ?pair, fun h hc hd => exec_lanes rfl rfl h hc fun l hl => ?movi⟩
  case sel =>
    obtain ⟨hv, hd⟩ := hx l hl
    split at hv
    next hp => simp only [if_pos hp, hv, except_ok_bind, Wave.withDst_of_dstOk _ hd]
    next hp => simp only [if_neg hp, hv, except_ok_bind, Wave.withDst_of_dstOk _ hd]
  case mov =>
    obtain ⟨hv, hd⟩ := hx l hl
    have h1 : e.fn.toNat ≠ 1 := by rw [hfn]; decide
    simp only [if_neg h1, hv, except_ok_bind, Wave.withDst_of_dstOk _ hd]
  case pair =>
    obtain ⟨hlo, hhi, hd⟩ := hx l hl
    have h1 : e.fn.toNat = 1 := by rw [hfn]; rfl
    simp only [if_pos h1, hlo, hhi, except_ok_bind, Wave.withDst_of_dstOk _ hd]
  case movi => simp only [beq_iff_eq, Wave.withDst_of_dstOk _ (hd l hl)]

/-! ### Packed halves, byte tables (R162 to R164) -/

/-- A byte of a word made byte by byte. -/
theorem extractLsb'_mapElems (g : Nat → Nat) {k : Nat} (hk : k < 4) :
    (BitVec.ofNat 32 (mapElems 8 32 g)).extractLsb' (8 * k) 8 = BitVec.ofNat 8 (g k) := by
  apply BitVec.eq_of_toNat_eq
  rw [← elemAt_toNat, BitVec.toNat_ofNat, Nat.mod_eq_of_lt (mapElems_lt 8 32 g), elemAt_mapElems 8 32 k g (by omega) (by omega),
    BitVec.toNat_ofNat]

/-- BPERM's byte: 0, eight copies of the pool byte's sign, or the pool byte. -/
theorem ofNat_bpermByte (pool : DWord) (sel : BitVec 8) : BitVec.ofNat 8 (bpermByte pool.toNat sel.toNat) =
    let y := pool.extractLsb' (8 * (sel.toNat % 8)) 8
    if sel.getLsbD 7 then 0 else if sel.getLsbD 6 then (if y.getLsbD 7 then 0xFF else 0) else y := by
  rw [bpermByte, elemAt_toNat]
  simp only [apply_ite (BitVec.ofNat 8), BitVec.ofNat_toNat, BitVec.setWidth_eq]
  rfl

/-- Answers that all exist are collected. -/
theorem mapM_ok {α β : Type} (f : α → Except Cause β) (g : α → β) (xs : List α) (h : ∀ x ∈ xs, f x = .ok (g x)) :
    xs.mapM f = .ok (xs.map g) := by
  induction xs with
  | nil => rfl
  | cons x xs ih =>
    rw [List.mapM_cons, h x List.mem_cons_self, ih (fun y hy => h y (List.mem_cons_of_mem x hy))]
    rfl

/-- A nibble of a byte of a word. -/
theorem nibble_elemAt (low : Prop) [Decidable low] (x : Word) (k : Nat) :
    (if low then elemAt 8 x.toNat k % 16 else elemAt 8 x.toNat k / 16) = (x.extractLsb' (if low then 8 * k else 8 * k + 4) 4).toNat := by
  rw [BitVec.extractLsb'_toNat, Nat.shiftRight_eq_div_pow, elemAt]
  split
  · omega
  · rw [Nat.pow_add, ← Nat.div_div_eq_div_mul]; omega

section
variable {s : State} {e : Enc} {c : Ctx} {a b : Nat → Word}

/-- BPERM writes the byte that each selector names. -/
theorem bperm_writes {pool : Nat → DWord} (h : Ready s (.bperm e) e c) (hc : CanRead s (.bperm e) c e)
    (hp : ∀ l, c.acting.getLsbD l = true → (s.ctxWave c).readPair l e.src0 = .ok (pool l, false) ∧
      (s.ctxWave c).src1 l e = .ok ⟨b l, false⟩ ∧ (s.ctxWave c).dstOk l e 1 = true) :
    WritesWord s (.bperm e) e c fun l x => ∀ k, k < 4 → x.extractLsb' (8 * k) 8 =
      let sel := (b l).extractLsb' (8 * k) 8
      let y := (pool l).extractLsb' (8 * (sel.toNat % 8)) 8
      if sel.getLsbD 7 then 0 else if sel.getLsbD 6 then (if y.getLsbD 7 then 0xFF else 0) else y := by
  refine writesWord_of_lanes (fun l => BitVec.ofNat 32 (mapElems 8 32 (fun k => bpermByte (pool l).toNat (elemAt 8 (b l).toNat k))))
    rfl rfl h hc (fun l hl => ?_) fun l _ k hk => ?_
  · obtain ⟨ha, hb, hdst⟩ := hp l hl
    simp only [ha, hb, except_ok_bind, useD_clean, PWord.use_clean, Wave.withDst_of_dstOk _ hdst]
  · rw [extractLsb'_mapElems _ hk, elemAt_toNat, ofNat_bpermByte]

/-- Clean registers from a code on, read as a group. -/
theorem readGroup_clean {w : Wave} {l code n : Nat} {t : Nat → Word}
    (h : ∀ r, r < n → w.readSrc l false (BitVec.ofNat 8 (code + r)) = .ok ⟨t r, false⟩) :
    w.readGroup l code n = .ok (clean ((List.range n).map t)) := by
  rw [Wave.readGroup, mapM_ok _ (fun r => ⟨t r, false⟩) _ (fun r hr => h r (List.mem_range.1 hr)), clean, List.map_map]
  rfl

theorem mapM_use_clean (xs : List Word) : (clean xs).mapM PWord.use = .ok xs := by
  rw [mapM_ok PWord.use PWord.val (clean xs) fun x hx => ?_, clean, List.map_map]
  · exact congrArg Except.ok (List.map_id xs)
  · obtain ⟨y, -, rfl⟩ := List.mem_map.1 hx
    rfl

/-- NLUT's entry for a nibble: a byte of the table of four words (R164). -/
def lutEntry (t : Nat → Word) (n : Nat) : Nat := elemAt 8 (((List.range 4).map t).getD (n / 4) 0).toNat (n % 4)

theorem ofNat_lutEntry (t : Nat → Word) {n : Nat} (hn : n < 16) :
    BitVec.ofNat 8 (lutEntry t n) = (t (n / 4)).extractLsb' (8 * (n % 4)) 8 := by
  have hrow : ((List.range 4).map t).getD (n / 4) 0 = t (n / 4) := by
    rw [List.getD_eq_getElem?_getD, List.getElem?_map, List.getElem?_range (by omega), Option.map_some, Option.getD_some]
  rw [lutEntry, hrow, elemAt_toNat, BitVec.ofNat_toNat, BitVec.setWidth_eq]

/-- NLUT writes the table's byte for one nibble of each byte. -/
theorem nlut_writes {tab : Nat → Nat → Word} (h : Ready s (.nlut e) e c) (hc : CanRead s (.nlut e) c e)
    (ht : ∀ l, c.acting.getLsbD l = true → (s.ctxWave c).Reads1 l e (a l) ∧
      ∀ r, r < 4 → (s.ctxWave c).readSrc l false (BitVec.ofNat 8 (e.src1.toNat + r)) = .ok ⟨tab l r, false⟩) :
    WritesWord s (.nlut e) e c fun l x => ∀ k, k < 4 → x.extractLsb' (8 * k) 8 =
      let n := ((a l).extractLsb' (if e.fn = 0 then 8 * k else 8 * k + 4) 4).toNat
      (tab l (n / 4)).extractLsb' (8 * (n % 4)) 8 := by
  refine writesWord_of_lanes (fun l => BitVec.ofNat 32 (mapElems 8 32 fun k => lutEntry (tab l)
      (if e.fn.toNat = 0 then elemAt 8 (a l).toNat k % 16 else elemAt 8 (a l).toNat k / 16))) rfl rfl h hc (fun l hl => ?_) fun l _ k hk => ?_
  · obtain ⟨⟨ha, hd⟩, htab⟩ := ht l hl
    simp only [ha, readGroup_clean htab, mapM_use_clean, except_ok_bind, PWord.use_clean, Wave.withDst_of_dstOk _ hd]
    rfl
  · simp only [extractLsb'_mapElems _ hk, Enc.fn_eq_zero_iff, nibble_elemAt]
    exact ofNat_lutEntry _ (BitVec.isLt _)

end

/-- Settles O8: the packed floats are functions of two or three words, BPERM and NLUT are made byte by byte. -/
theorem packedLanes : Obligations.PackedLanes := by
  intro s e c a b d f rm pat v both
  refine ⟨?two, fun h hc habd => ?hfma2, fun h hc pool hp => ?bperm, fun h hc tab ht => ?nlut⟩
  case two =>
    simp only [List.forall_mem_cons, List.not_mem_nil, false_imp_iff, implies_true, and_true]
    exact ⟨fun h hc hab => lanes2_completes rfl rfl h hc hab fun _ => rfl, fun h hc hab => lanes2_completes rfl rfl h hc hab fun _ => rfl,
      fun h hc hab => lanes2_completes rfl rfl h hc hab fun _ => rfl, fun h hc hab => lanes2_completes rfl rfl h hc hab fun _ => rfl⟩
  case hfma2 =>
    refine exec_lanes rfl rfl h hc fun l hl => ?_
    obtain ⟨ha, hb, hd, hdst⟩ := habd l hl
    simp only [ha, hb, hd, except_ok_bind, PWord.use_clean, Wave.withDst_of_dstOk _ hdst]
    rfl
  case bperm => exact bperm_writes h hc hp
  case nlut => exact nlut_writes h hc ht

/-! ### Across lanes (R165 to R167) -/

section
variable {s : State} {i : Instr} {e : Enc} {c : Ctx} {a : Nat → Word}

/-- The values that a cross-lane combine takes (R166). -/
def laneValues (m : BitVec 32) (a : Nat → Word) : List (Option Word) :=
  (List.range 32).map (fun l => if m.getLsbD l then some (a l) else none)

theorem participants_eq_laneValues (w : Wave) (hr : ∀ l, c.acting.getLsbD l = true → w.Reads1 l e (a l)) :
    participants w c e = laneValues c.acting a := by
  refine List.map_congr_left fun l _ => ?_
  split
  next hl => rw [(hr l hl).a]; rfl
  next => rfl

/-- A cross-lane combine completes, and gives each acting lane its value of the combine and the flags of all combines. -/
theorem crossBody_completes {f : Wave → List (Option Word) → (Nat → Option Word) × Flags}
    (hx : exec i s = s.issue i e false (crossBody e f)) (hu : endsClean i = false) (h : Ready s i e c) (hc : CanRead s i c e)
    (hr : ∀ l, c.acting.getLsbD l = true → (s.ctxWave c).Reads1 l e (a l)) :
    let r := f (s.ctxWave c) (laneValues c.acting a)
    ∃ t, exec i s = .next t ∧ WroteLanes s t c e (fun l =>
      { words := [⟨(r.1 l).getD (combineEmpty (e.fn.toNat % 8)), false⟩], flags := r.2.bits }) := by
  rw [hx]
  refine issue_lanes h false nofun hc hu _ _ rfl _ fun l hl => ?_
  obtain ⟨ha, hd⟩ := hr l hl
  simp only [ha, except_ok_bind, PWord.use_clean, Wave.withDst_of_dstOk _ hd, participants_eq_laneValues _ hr]

end

/-- The combine of ADD.I32. -/
theorem combineOpt_add (w : Wave) (x y : Option Word) (fl : Flags) : (combineOpt w 0 x y fl).1 = x.merge (· + ·) y := by
  cases x <;> cases y <;> rfl

/-- The combine of a whole list by ADD.I32. -/
def sumOpt (t : List (Option Word)) : Option Word := t.foldr (Option.merge (· + ·)) none

theorem sumOpt_cons (x : Option Word) (t : List (Option Word)) : sumOpt (x :: t) = x.merge (· + ·) (sumOpt t) := rfl

/-- A level of the tree keeps the sum. -/
theorem sumOpt_redLevel (w : Wave) (t : List (Option Word)) (fl : Flags) : sumOpt (redLevel w 0 t fl).1 = sumOpt t := by
  fun_induction redLevel w 0 t fl with
  | case1 fl x y r z f1 hz zs f2 hzs ih =>
    have hz : z = x.merge (· + ·) y := by rw [← combineOpt_add w x y fl, hz]
    have ih : sumOpt zs = sumOpt r := by rw [← ih, hzs]
    rw [sumOpt_cons, sumOpt_cons, sumOpt_cons, ih, hz, Std.Associative.assoc (op := Option.merge (α := Word) (· + ·))]
  | case2 => rfl

/-- A level of the tree halves the list. -/
theorem length_redLevel (w : Wave) (op : Nat) (t : List (Option Word)) (fl : Flags) :
    (redLevel w op t fl).1.length = (t.length + 1) / 2 := by
  fun_induction redLevel w op t fl with
  | case1 fl x y r z f1 hz zs f2 hzs ih =>
    have ih : zs.length = (r.length + 1) / 2 := by rw [← ih, hzs]
    simp only [List.length_cons]
    omega
  | case2 fl t ht =>
    match t, ht with
    | [], _ => rfl
    | [_], _ => simp only [List.length_singleton, Nat.reduceAdd, Nat.reduceDiv]
    | _ :: _ :: _, ht => exact absurd rfl (ht _ _ _)

/-- Levels that halve a list to one value leave its sum. -/
theorem redLevels_sum (w : Wave) (ls : List Nat) (p : List (Option Word) × Flags) (hp : p.1.length = 2 ^ ls.length) :
    (ls.foldl (fun p _ => redLevel w 0 p.1 p.2) p).1 = [sumOpt p.1] := by
  induction ls generalizing p with
  | nil =>
    obtain ⟨x, hx⟩ := List.length_eq_one_iff.1 hp
    rw [List.foldl_nil, hx]
    exact congrArg (fun y => [y]) (Option.merge_none_right).symm
  | cons _ ls ih =>
    have hlen : (redLevel w 0 p.1 p.2).1.length = 2 ^ ls.length := by
      rw [length_redLevel, hp, List.length_cons, Nat.pow_succ]; omega
    rw [List.foldl_cons, ih _ hlen, sumOpt_redLevel]

/-- LRED.ADD.I32 over 32 lanes gives the sum. -/
theorem redTree_add (w : Wave) (t : List (Option Word)) (ht : t.length = 32) : (redTree w 0 t).1 = sumOpt t := by
  have h := redLevels_sum w (List.range 5) (t, Flags.none) ht
  rw [redTree, h, List.headD_cons]

/-- The values that are there are summed. -/
theorem sumOpt_values (p : Nat → Bool) (a : Nat → Word) (ls : List Nat) : sumOpt (ls.map (fun l => if p l then some (a l) else none)) =
    if ls.filter p = [] then none else some (((ls.filter p).map a).foldr (fun x y => x + y) 0) := by
  induction ls with
  | nil => rfl
  | cons l ls ih =>
    rw [List.map_cons, sumOpt_cons, ih]
    cases hl : p l
    · rw [if_neg Bool.false_ne_true, Option.merge_none_left, List.filter_cons_of_neg (by rw [hl]; decide)]
    · rw [if_pos rfl, List.filter_cons_of_pos hl, if_neg (List.cons_ne_nil _ _)]
      by_cases hr : ls.filter p = []
      · rw [if_pos hr, hr, Option.merge_none_right]
        exact congrArg some (BitVec.add_zero _).symm
      · rw [if_neg hr]
        rfl

theorem sumOpt_laneValues {m : BitVec 32} (hm : m ≠ 0) (a : Nat → Word) :
    sumOpt (laneValues m a) = some (((lanesOf m).map a).foldr (fun x y => x + y) 0) :=
  (sumOpt_values (fun l => m.getLsbD l) a (List.range 32)).trans (if_neg fun hn => hm ((lanesOf_eq_nil m).1 hn))

/-- SHFL moves the value of the register in the lane that its form names. -/
theorem shfl_moves {s : State} {e : Enc} {c : Ctx} {b : Nat → Word} (h : Ready s (.shfl e) e c) (hc : CanRead s (.shfl e) c e)
    (hacc : ∀ x ∈ (s.ctxWave c).acc, x.dst.regs = none)
    (hb : ∀ l, c.acting.getLsbD l = true → (s.ctxWave c).srcB l e .zero = .ok ⟨b l, false⟩ ∧
      ((s.ctxWave c).lane l).base + e.src0.toNat < (s.ctxWave c).limit ∧ (s.ctxWave c).dstOk l e 1 = true) :
    ∃ t, exec (.shfl e) s = .next t ∧ WroteLanes s t c e (fun l => { words :=
      [(s.ctxWave c).vAt (((s.ctxWave c).lane l).base + e.src0.toNat) (shflLane e.fn.toNat (e.mod.toNat % 8) l (b l).toNat)] }) := by
  refine issue_lanes h true (fun _ => hacc) hc rfl _ _ rfl _ fun l hl => ?_
  obtain ⟨hb, hr, hd⟩ := hb l hl
  simp only [hb, if_pos hr, except_ok_bind, PWord.use_clean, Wave.withDst_of_dstOk _ hd]

/-- LRED gives every acting lane the root of the tree over the acting lanes' values. -/
theorem lred_completes {s : State} {e : Enc} {c : Ctx} {a : Nat → Word} (h : Ready s (.lred e) e c) (hc : CanRead s (.lred e) c e)
    (hr : ∀ l, c.acting.getLsbD l = true → (s.ctxWave c).Reads1 l e (a l)) :
    let r := redTree (s.ctxWave c) (e.fn.toNat % 8) (laneValues c.acting a)
    ∃ t, exec (.lred e) s = .next t ∧ WroteLanes s t c e (fun _ =>
      { words := [⟨r.1.getD (combineEmpty (e.fn.toNat % 8)), false⟩], flags := r.2.bits }) := by
  have h := crossBody_completes rfl rfl h hc hr
  generalize redTree (s.ctxWave c) (e.fn.toNat % 8) (laneValues c.acting a) = r at h ⊢
  exact h

/-- LSCAN gives lane l the combine of the lanes up to it, or the one of the lane below it. -/
theorem lscan_completes {s : State} {e : Enc} {c : Ctx} {a : Nat → Word} (h : Ready s (.lscan e) e c) (hc : CanRead s (.lscan e) c e)
    (hr : ∀ l, c.acting.getLsbD l = true → (s.ctxWave c).Reads1 l e (a l)) :
    let y := scanTree (s.ctxWave c) (e.fn.toNat % 8) (laneValues c.acting a)
    ∃ t, exec (.lscan e) s = .next t ∧ WroteLanes s t c e (fun l =>
      let r := if e.fn.getLsbD 3 then (if l = 0 then none else y.1.getD (l - 1) none) else y.1.getD l none
      { words := [⟨r.getD (combineEmpty (e.fn.toNat % 8)), false⟩], flags := y.2.bits }) := by
  have h := crossBody_completes rfl rfl h hc hr
  generalize scanTree (s.ctxWave c) (e.fn.toNat % 8) (laneValues c.acting a) = y at h ⊢
  exact h

/-- Settles O9: SHFL and the combines are per-fibre computations, and each level of LRED's tree keeps the sum. -/
theorem crossLane : Obligations.CrossLane := by
  intro s e c a b w vals op
  refine ⟨shfl_moves, fun h hc hr => ?lred, lscan_completes⟩
  obtain ⟨t, ht, hw⟩ := lred_completes h hc hr
  refine ⟨t, ht, hw, fun hop => ?_⟩
  rw [hop]
  exact (redTree_add w _ (by rw [List.length_map, List.length_range])).trans (sumOpt_laneValues h.acting a)

end Sys2Proof.Machine
end
